-- ==== Sys2Proof/Word.lean ====
section
/-! DEFINITION. The word types of the ZK1640: 32-bit instruction words (R53), 64-bit scalar words (R40), bytes, extension
payloads of 29 bits (R53), and the plain conversions between them. -/

namespace Sys2Proof

/-- A 32-bit word of instruction memory (R53). -/
abbrev Word32 := BitVec 32

/-- A 64-bit scalar word (R40, R273). -/
abbrev Word64 := BitVec 64

/-- A byte of scratchpad, ACM, owner memory or instruction memory (R3). -/
abbrev Byte := BitVec 8

/-- The payload [28:0] of an extension word (R53). -/
abbrev Payload := BitVec 29

/-- Bits [hi:lo] of a word, as a number (R2). -/
def bitsOf {n : Nat} (w : BitVec n) (hi lo : Nat) : Nat := (w.toNat / 2 ^ lo) % 2 ^ (hi + 1 - lo)

/-- Bit [i] of a word (R2). -/
def bitOf {n : Nat} (w : BitVec n) (i : Nat) : Bool := w.getLsbD i

/-- The two's complement value of an n-bit number (R98). -/
def signedOf (n v : Nat) : Int := if v % 2 ^ n < 2 ^ (n - 1) then ((v % 2 ^ n : Nat) : Int) else ((v % 2 ^ n : Nat) : Int) - 2 ^ n

end Sys2Proof
end

