-- ==== Sys2Proof/Syntax.lean ====
section
/-! DEFINITION. The instructions and events of the ZK1640, one constructor of `Instr` per row of the opcode table, with the
operand forms of R58 to R65 as plain records. -/

namespace Sys2Proof

/-- The six engines of a croft (R7, R53), in the order of their codes 1 to 6. -/
inductive Eng where
  | C | A | M | V | X | G
  deriving DecidableEq, Repr

/-- The engine's code in the eng, wait and sig fields (R53, R54). -/
def Eng.code : Eng → Nat
  | .C => 1 | .A => 2 | .M => 3 | .V => 4 | .X => 5 | .G => 6

/-- The engine a code names, none for 0 and 7 (R54). -/
def Eng.ofCode : Nat → Option Eng
  | 1 => some .C | 2 => some .A | 3 => some .M | 4 => some .V | 5 => some .X | 6 => some .G
  | _ => none

/-- The six engines in the order of their codes. -/
def Eng.all : List Eng := [.C, .A, .M, .V, .X, .G]

/-- The wait and sig fields of a word (R53, R54). -/
structure Tok where
  wait : BitVec 3
  sig  : BitVec 3
  deriving DecidableEq, Repr

/-- The extension words attached to an instruction, first in fetch order first (R56). -/
inductive Ext where
  | none
  | one (x0 : Payload)
  | two (x0 x1 : Payload)
  deriving DecidableEq, Repr

/-- Form CR (R58). -/
structure CR where
  d : BitVec 5
  a : BitVec 5
  b : BitVec 5
  i : Bool
  deriving DecidableEq, Repr

/-- Form CB (R58). -/
structure CB where
  a   : BitVec 5
  b   : BitVec 5
  off : BitVec 7
  deriving DecidableEq, Repr

/-- Form CX (R58). -/
structure CX where
  d : BitVec 5
  a : BitVec 5
  k : BitVec 7
  deriving DecidableEq, Repr

/-- Form AM (R60). -/
structure AM where
  cls   : BitVec 4
  sem   : BitVec 2
  scope : BitVec 4
  b     : BitVec 4
  q     : BitVec 3
  deriving DecidableEq, Repr

/-- Form AB (R60). -/
structure AB where
  d  : BitVec 4
  a  : BitVec 4
  b  : BitVec 4
  qa : Bool
  deriving DecidableEq, Repr

/-- The matrix engine's form (R62). -/
structure MF where
  t : BitVec 4
  u : BitVec 4
  n : BitVec 3
  f : BitVec 6
  deriving DecidableEq, Repr

/-- The vector engine's form (R63). -/
structure VF where
  d : BitVec 5
  a : BitVec 5
  b : BitVec 5
  w : Bool
  deriving DecidableEq, Repr

/-- The index engine's form (R64). -/
structure XF where
  arv  : BitVec 3
  desc : BitVec 14
  deriving DecidableEq, Repr

/-- The generation engine's form (R65). -/
structure GF where
  arv : BitVec 3
  p   : Bool
  k   : BitVec 13
  deriving DecidableEq, Repr

/-- The three paths that perform a croft's asynchronous commands: the copy path (R240), the index unit (R368), the
generation work queue (R242). -/
inductive Path where
  | copy | index | gen
  deriving DecidableEq, Repr

/-- Whose bell rings (R272): one owner's, rung by SNAP, or the whole package's, rung by Sillu. -/
inductive Bell where
  | owner (o : Nat)
  | package
  deriving DecidableEq, Repr

/-- A service message as it arrives (R266): the function it arrives on (none for the management function, otherwise an
owner's virtual function) and its bytes, header first. -/
structure Msg where
  fn    : Option Nat
  bytes : List Byte
  deriving DecidableEq, Repr

/-- The instructions and the steps of the device, one constructor per row of the opcode table: the first fifty-three rows and
the last three are events and inputs of the device, the rows between are instruction words. -/
inductive Instr where
  /-- BOOT (R260). -/
  | boot
  /-- THERMAL_WARNING (R21). -/
  | thermalWarning (die : Nat)
  /-- THERMAL_SHUTDOWN (R21). -/
  | thermalShutdown
  /-- ADMIT (R265). -/
  | admission (m : Msg)
  /-- REVOKE (R197). -/
  | revoke (m : Msg)
  /-- OPKEY (R268). -/
  | opkey (m : Msg)
  /-- IMAGE (R267). -/
  | image (m : Msg)
  /-- FLOOR (R267). -/
  | floor (m : Msg)
  /-- LOAD (R95). -/
  | load (m : Msg)
  /-- LAUNCH (R267). -/
  | launch (m : Msg)
  /-- LAUNCH_QUEUE_ENTRY (R267). -/
  | launchQueueEntry (owner : Nat)
  /-- UNLOAD (R267). -/
  | unload (m : Msg)
  /-- QUOTE (R263). -/
  | quote (m : Msg)
  /-- CERT (R262). -/
  | cert (m : Msg)
  /-- GRAMMAR (R270). -/
  | grammar (m : Msg)
  /-- CONTEXT (R267). -/
  | context (m : Msg)
  /-- DROP (R267). -/
  | drop (m : Msg)
  /-- UNSUPPORTED_PACKET (R264). -/
  | unsupportedPacket
  /-- FURROW_DISPATCH (R29). -/
  | furrowDispatch (die : Nat)
  /-- OVERLAY_SWAP (R33). -/
  | overlaySwap (croft : Nat)
  /-- SPLIT_WORD (R35). -/
  | splitWord (croft : Nat)
  /-- RESULT_LANDING (R44). -/
  | resultLanding (croft : Nat)
  /-- PHASE_MARKER_EFFECT (R49). -/
  | phaseMarkerEffect (croft : Nat) (e : Eng)
  /-- ROUND_BOUNDARY (R141). -/
  | roundBoundary
  /-- RISING_PLAN_INSTALL (R144). -/
  | risingPlanInstall (core : Nat)
  /-- MILL_KSTEP (R125). -/
  | millKstep (croft : Nat)
  /-- NEST_LANDING (R147). -/
  | nestLanding (croft : Nat)
  /-- NEST_BREACH (R148). -/
  | nestBreach (croft : Nat)
  /-- COPY_QUEUE_START (R240). -/
  | copyQueueStart (croft : Nat)
  /-- COLL_GENERATION_FORM (R288). -/
  | collGenerationForm (owner cnum : Nat)
  /-- BLOCK_DECODE (R181). -/
  | blockDecode (croft : Nat)
  /-- GEN_QUEUE_START (R242). -/
  | genQueueStart (croft : Nat)
  /-- INDEX_QUEUE_START (R368). -/
  | indexQueueStart (croft : Nat)
  /-- COMMAND_COMPLETION (R39). -/
  | commandCompletion (croft : Nat) (p : Path)
  /-- WALK_COMPLETE (R189). -/
  | walkComplete (croft : Nat) (n : Nat)
  /-- OWNER_ACCESS_COMPLETE (R206). -/
  | ownerAccessComplete (croft : Nat) (n : Nat)
  /-- HELD_WRITE_GRANT (R195). -/
  | heldWriteGrant (croft : Nat)
  /-- HOLD_TIMEOUT (R195). -/
  | holdTimeout (croft : Nat)
  /-- SILLU_FAULT_SERVICE (R232). -/
  | silluFaultService (croft : Nat)
  /-- ECC_CORRECTABLE (R233). -/
  | eccCorrectable (croft : Nat)
  /-- ECC_FREEZE_END (R233). -/
  | eccFreezeEnd (croft : Nat)
  /-- SRAM_UNCORRECTABLE (R234). -/
  | sramUncorrectable (croft : Nat) (addr : BitVec 64)
  /-- PREEMPT (R235). -/
  | preempt (croft : Nat)
  /-- RESTORE (R238). -/
  | restore (saved croft : Nat)
  /-- BUDGET_EXPIRY (R251). -/
  | budgetExpiry (croft : Nat)
  /-- MASK_DEADLINE (R250). -/
  | maskDeadline (croft : Nat)
  /-- MASK_DELIVERY (R250). -/
  | maskDelivery (croft : Nat)
  /-- SVC_SERVICE_DONE (R340). -/
  | svcServiceDone (croft : Nat)
  /-- BELL_RING (R272). -/
  | bellRing (b : Bell)
  /-- BANK_WAKE_END (R138). -/
  | bankWakeEnd (croft bank : Nat)
  /-- BANK_POWER_OFF (R138). -/
  | bankPowerOff (croft bank : Nat)
  /-- VPUSH_TRANSFER (R163). -/
  | vpushTransfer (croft : Nat)
  /-- STQ_ENTRY_POP (R339). -/
  | stqEntryPop (croft : Nat)
  /-- ADD (R277). -/
  | add (t : Tok) (o : CR) (x : Ext)
  /-- SUB (R331). -/
  | sub (t : Tok) (o : CR) (x : Ext)
  /-- MUL (R329). -/
  | mul (t : Tok) (o : CR) (x : Ext)
  /-- MULH (R329). -/
  | mulh (t : Tok) (o : CR) (x : Ext)
  /-- DIVN (R291). -/
  | divn (t : Tok) (o : CR) (x : Ext)
  /-- REMN (R331). -/
  | remn (t : Tok) (o : CR) (x : Ext)
  /-- AND (R277). -/
  | and (t : Tok) (o : CR) (x : Ext)
  /-- OR (R331). -/
  | or (t : Tok) (o : CR) (x : Ext)
  /-- XOR (R365). -/
  | xor (t : Tok) (o : CR) (x : Ext)
  /-- SHL (R331). -/
  | shl (t : Tok) (o : CR) (x : Ext)
  /-- SHR (R331). -/
  | shr (t : Tok) (o : CR) (x : Ext)
  /-- SHA (R331). -/
  | sha (t : Tok) (o : CR) (x : Ext)
  /-- MIN (R318). -/
  | min (t : Tok) (o : CR) (x : Ext)
  /-- MAX (R318). -/
  | max (t : Tok) (o : CR) (x : Ext)
  /-- MINN (R318). -/
  | minn (t : Tok) (o : CR) (x : Ext)
  /-- MAXN (R318). -/
  | maxn (t : Tok) (o : CR) (x : Ext)
  /-- CLZ (R277). -/
  | clz (t : Tok) (o : CR) (x : Ext)
  /-- POPC (R331). -/
  | popc (t : Tok) (o : CR) (x : Ext)
  /-- SLT (R331). -/
  | slt (t : Tok) (o : CR) (x : Ext)
  /-- SLTN (R331). -/
  | sltn (t : Tok) (o : CR) (x : Ext)
  /-- LI (R315). -/
  | li (t : Tok) (o : CR) (x : Ext)
  /-- BEQ (R284). -/
  | beq (t : Tok) (o : CB) (x : Ext)
  /-- BNE (R284). -/
  | bne (t : Tok) (o : CB) (x : Ext)
  /-- BLT (R284). -/
  | blt (t : Tok) (o : CB) (x : Ext)
  /-- BGE (R284). -/
  | bge (t : Tok) (o : CB) (x : Ext)
  /-- BLTN (R284). -/
  | bltn (t : Tok) (o : CB) (x : Ext)
  /-- BGEN (R284). -/
  | bgen (t : Tok) (o : CB) (x : Ext)
  /-- JMP (R311). -/
  | jmp (t : Tok) (o : CB) (x : Ext)
  /-- CALL (R285). -/
  | call (t : Tok) (o : CB) (x : Ext)
  /-- RET (R336). -/
  | ret (t : Tok) (o : CX) (x : Ext)
  /-- JTAB (R312). -/
  | jtab (t : Tok) (o : CX) (x : Ext)
  /-- TRAP (R342). -/
  | trap (t : Tok) (o : CX) (x : Ext)
  /-- ERET (R294). -/
  | eret (t : Tok) (o : CX) (x : Ext)
  /-- SVC_NONE (R341). -/
  | svcNone (t : Tok) (o : CX) (x : Ext)
  /-- GRAMMAR_MASK_REQUEST (R341). -/
  | grammarMaskRequest (t : Tok) (o : CX) (x : Ext)
  /-- MONITOR_SNAPSHOT_READ (R341). -/
  | monitorSnapshotRead (t : Tok) (o : CX) (x : Ext)
  /-- SVC_UNASSIGNED (R341). -/
  | svcUnassigned (t : Tok) (o : CX) (x : Ext)
  /-- WAITE (R363). -/
  | waite (t : Tok) (o : CX) (x : Ext)
  /-- BAR (R281). -/
  | bar (t : Tok) (o : CX) (x : Ext)
  /-- MODE (R322). -/
  | mode (t : Tok) (o : CX) (x : Ext)
  /-- GAP (R309). -/
  | gap (t : Tok) (o : CX) (x : Ext)
  /-- PHASE (R333). -/
  | phase (t : Tok) (o : CX) (x : Ext)
  /-- RDCR (R335). -/
  | rdcr (t : Tok) (o : CX) (x : Ext)
  /-- WRCR_QSTAT (R364). -/
  | wrcrQstat (t : Tok) (o : CX) (x : Ext)
  /-- WRCR_HANDLER (R364). -/
  | wrcrHandler (t : Tok) (o : CX) (x : Ext)
  /-- WRCR_RNGSEED (R364). -/
  | wrcrRngseed (t : Tok) (o : CX) (x : Ext)
  /-- DONE (R292). -/
  | done (t : Tok) (o : CX) (x : Ext)
  /-- ABWAIT (R276). -/
  | abwait (t : Tok) (o : CX) (x : Ext)
  /-- SNAP (R337). -/
  | snap (t : Tok) (o : CX) (x : Ext)
  /-- BLI (R279). -/
  | bli (t : Tok) (o : AB) (x : Ext)
  /-- BADD (R279). -/
  | badd (t : Tok) (o : AB) (x : Ext)
  /-- BMAD (R279). -/
  | bmad (t : Tok) (o : AB) (x : Ext)
  /-- BMOV (R279). -/
  | bmov (t : Tok) (o : AB) (x : Ext)
  /-- LDQ (R313). -/
  | ldq (t : Tok) (o : AM) (x : Ext)
  /-- STQ (R338). -/
  | stq (t : Tok) (o : AM) (x : Ext)
  /-- ATOM (R278). -/
  | atom (t : Tok) (o : AM) (x : Ext)
  /-- COPY (R239). -/
  | copy (t : Tok) (o : AM) (x : Ext)
  /-- COPYD (R290). -/
  | copyd (t : Tok) (o : AM) (x : Ext)
  /-- COLL (R286). -/
  | coll (t : Tok) (o : AM) (x : Ext)
  /-- GLSEND (R310). -/
  | glsend (t : Tok) (o : AM) (x : Ext)
  /-- FENCE (R210). -/
  | fence (t : Tok) (o : AM) (x : Ext)
  /-- FENCESC (R211). -/
  | fencesc (t : Tok) (o : AM) (x : Ext)
  /-- ZFLAG (R369). -/
  | zflag (t : Tok) (o : AM) (x : Ext)
  /-- BANKGATE (R280). -/
  | bankgate (t : Tok) (o : AM) (x : Ext)
  /-- PGINV (R332). -/
  | pginv (t : Tok) (o : AM) (x : Ext)
  /-- PGPROBE (R332). -/
  | pgprobe (t : Tok) (o : AM) (x : Ext)
  /-- ABINIT (R274). -/
  | abinit (t : Tok) (o : AB) (x : Ext)
  /-- ABEXP (R274). -/
  | abexp (t : Tok) (o : AB) (x : Ext)
  /-- ABARV (R274). -/
  | abarv (t : Tok) (o : AB) (x : Ext)
  /-- MTAB (R328). -/
  | mtab (t : Tok) (o : MF) (x : Ext)
  /-- MRUN (R325). -/
  | mrun (t : Tok) (o : MF) (x : Ext)
  /-- MRUNB (R327). -/
  | mrunb (t : Tok) (o : MF) (x : Ext)
  /-- MLOWR (R321). -/
  | mlowr (t : Tok) (o : MF) (x : Ext)
  /-- MZERO (R330). -/
  | mzero (t : Tok) (o : MF) (x : Ext)
  /-- MDRAIN (R319). -/
  | mdrain (t : Tok) (o : MF) (x : Ext)
  /-- MJOIN (R320). -/
  | mjoin (t : Tok) (o : MF) (x : Ext)
  /-- MREC (R323). -/
  | mrec (t : Tok) (o : MF) (x : Ext)
  /-- MREPLAY (R324). -/
  | mreplay (t : Tok) (o : MF) (x : Ext)
  /-- MFIRE (R173). -/
  | mfire (t : Tok) (o : MF) (x : Ext)
  /-- MAGE (R173). -/
  | mage (t : Tok) (o : MF) (x : Ext)
  /-- MPLACE (R174). -/
  | mplace (t : Tok) (o : MF) (x : Ext)
  /-- VADD (R343). -/
  | vadd (t : Tok) (o : VF) (x : Ext)
  /-- VSUB (R349). -/
  | vsub (t : Tok) (o : VF) (x : Ext)
  /-- VMUL (R349). -/
  | vmul (t : Tok) (o : VF) (x : Ext)
  /-- VFMA (R349). -/
  | vfma (t : Tok) (o : VF) (x : Ext)
  /-- VMIN (R349). -/
  | vmin (t : Tok) (o : VF) (x : Ext)
  /-- VMAX (R349). -/
  | vmax (t : Tok) (o : VF) (x : Ext)
  /-- VABS (R343). -/
  | vabs (t : Tok) (o : VF) (x : Ext)
  /-- VNEG (R349). -/
  | vneg (t : Tok) (o : VF) (x : Ext)
  /-- VCMP (R344). -/
  | vcmp (t : Tok) (o : VF) (x : Ext)
  /-- VSEL (R352). -/
  | vsel (t : Tok) (o : VF) (x : Ext)
  /-- VAND (R343). -/
  | vand (t : Tok) (o : VF) (x : Ext)
  /-- VOR (R351). -/
  | vor (t : Tok) (o : VF) (x : Ext)
  /-- VXOR (R351). -/
  | vxor (t : Tok) (o : VF) (x : Ext)
  /-- VNOT (R351). -/
  | vnot (t : Tok) (o : VF) (x : Ext)
  /-- VSHL (R351). -/
  | vshl (t : Tok) (o : VF) (x : Ext)
  /-- VSHR (R351). -/
  | vshr (t : Tok) (o : VF) (x : Ext)
  /-- VRND (R353). -/
  | vrnd (t : Tok) (o : VF) (x : Ext)
  /-- VSCALB (R353). -/
  | vscalb (t : Tok) (o : VF) (x : Ext)
  /-- VGEXP (R353). -/
  | vgexp (t : Tok) (o : VF) (x : Ext)
  /-- VGMAN (R353). -/
  | vgman (t : Tok) (o : VF) (x : Ext)
  /-- VCVT (R347). -/
  | vcvt (t : Tok) (o : VF) (x : Ext)
  /-- VCVP (R348). -/
  | vcvp (t : Tok) (o : VF) (x : Ext)
  /-- VQNT (R355). -/
  | vqnt (t : Tok) (o : VF) (x : Ext)
  /-- VDQNT (R356). -/
  | vdqnt (t : Tok) (o : VF) (x : Ext)
  /-- VRED (R357). -/
  | vred (t : Tok) (o : VF) (x : Ext)
  /-- VSCAN (R357). -/
  | vscan (t : Tok) (o : VF) (x : Ext)
  /-- VCOAL (R346). -/
  | vcoal (t : Tok) (o : VF) (x : Ext)
  /-- VLEN (R358). -/
  | vlen (t : Tok) (o : VF) (x : Ext)
  /-- VSPLAT (R358). -/
  | vsplat (t : Tok) (o : VF) (x : Ext)
  /-- VCAT (R345). -/
  | vcat (t : Tok) (o : VF) (x : Ext)
  /-- VSLICE (R358). -/
  | vslice (t : Tok) (o : VF) (x : Ext)
  /-- VEXT (R358). -/
  | vext (t : Tok) (o : VF) (x : Ext)
  /-- VINS (R358). -/
  | vins (t : Tok) (o : VF) (x : Ext)
  /-- VPOP (R359). -/
  | vpop (t : Tok) (o : VF) (x : Ext)
  /-- VPUSH (R360). -/
  | vpush (t : Tok) (o : VF) (x : Ext)
  /-- VRDA (R361). -/
  | vrda (t : Tok) (o : VF) (x : Ext)
  /-- VWRA (R362). -/
  | vwra (t : Tok) (o : VF) (x : Ext)
  /-- VMOV (R358). -/
  | vmov (t : Tok) (o : VF) (x : Ext)
  /-- VCNT (R346). -/
  | vcnt (t : Tok) (o : VF) (x : Ext)
  /-- VIOTA (R358). -/
  | viota (t : Tok) (o : VF) (x : Ext)
  /-- XGATH (R165). -/
  | xgath (t : Tok) (o : XF) (x : Ext)
  /-- XSCAT (R165). -/
  | xscat (t : Tok) (o : XF) (x : Ext)
  /-- XSCADD (R165). -/
  | xscadd (t : Tok) (o : XF) (x : Ext)
  /-- XBAG (R165). -/
  | xbag (t : Tok) (o : XF) (x : Ext)
  /-- GSEED (R305). -/
  | gseed (t : Tok) (o : GF) (x : Ext)
  /-- GSHORT (R306). -/
  | gshort (t : Tok) (o : GF) (x : Ext)
  /-- GSLOW (R307). -/
  | gslow (t : Tok) (o : GF) (x : Ext)
  /-- GSAMP (R305). -/
  | gsamp (t : Tok) (o : GF) (x : Ext)
  /-- GMASK (R304). -/
  | gmask (t : Tok) (o : GF) (x : Ext)
  /-- GBUDG (R301). -/
  | gbudg (t : Tok) (o : GF) (x : Ext)
  /-- GACPT (R300). -/
  | gacpt (t : Tok) (o : GF) (x : Ext)
  /-- GDRAFT (R303). -/
  | gdraft (t : Tok) (o : GF) (x : Ext)
  /-- GSTAGE (R308). -/
  | gstage (t : Tok) (o : GF) (x : Ext)
  /-- GCOMP (R302). -/
  | gcomp (t : Tok) (o : GF) (x : Ext)
  /-- UNASSIGNED_OPCODE (R72). -/
  | unassignedOpcode (e : Eng)
  /-- ZEROING_COMPLETE (R23). -/
  | zeroingComplete (croft : Nat)
  /-- JUNCTION_TEMPERATURE_FALL (R21). -/
  | junctionTemperatureFall  deriving DecidableEq, Repr

end Sys2Proof
end

