-- ==== Sys2Proof/WellFormed.lean ====
section
/-! DEFINITION. Which instruction words are well formed: every fault of the encoding that a word and its extension words alone
decide (R38, R57 to R73, and the reference entries), as one check per opcode. -/

namespace Sys2Proof

/-- The two faults of an encoding: ILLOP (R38, R66, R72) and ILLEXT (R57). -/
inductive EncErr where
  | illop | illext
  deriving DecidableEq, Repr

/-- How many extension words are attached. -/
def Ext.count : Ext → Nat
  | .none => 0 | .one _ => 1 | .two _ _ => 2

/-- Payload x0, 0 when absent (R57). -/
def Ext.x0 : Ext → Payload
  | .none => 0 | .one x => x | .two x _ => x

/-- Payload x1, 0 when absent (R57). -/
def Ext.x1 : Ext → Payload
  | .two _ y => y | _ => 0

/-- A token pair is legal on engine e: neither field names the engine itself, and sig is not 7 (R38). -/
def Tok.ok (e : Eng) (t : Tok) : Bool := t.wait.toNat != e.code && t.sig.toNat != e.code && t.sig.toNat != 7

/-- The common check of a word: too many extension words is ILLEXT (R57), any other breach ILLOP (R38, R66). Where both
apply the model takes ILLEXT (DEDUCED, log 6). -/
def encCheck (max : Nat) (e : Eng) (t : Tok) (x : Ext) (ok : Bool) : Option EncErr :=
  if max < x.count then some .illext else if t.ok e && ok then none else some .illop

/-- Form CR with two sources (R59, R277): no extension word with i = 0, and b = 0 where an extension word is attached. -/
def encCR (t : Tok) (o : CR) (x : Ext) : Option EncErr :=
  encCheck (if o.i then 2 else 0) .C t x (x.count == 0 || o.b == 0)

/-- CLZ and POPC (R67): b = 0, i = 0, no extension word. -/
def encCR1 (t : Tok) (o : CR) (x : Ext) : Option EncErr := encCheck 0 .C t x (o.b == 0 && !o.i)

/-- LI (R315): a = 0, i = 1, b = 0 with an extension word. -/
def encLI (t : Tok) (o : CR) (x : Ext) : Option EncErr :=
  encCheck 2 .C t x (o.a == 0 && o.i && (x.count == 0 || o.b == 0))

/-- Form CB (R58, R284): off = 0 where x0 is attached; `ok` says what else the opcode asks. -/
def encCB (t : Tok) (o : CB) (x : Ext) (ok : Bool) : Option EncErr :=
  encCheck 1 .C t x ((x.count == 0 || o.off == 0) && ok)

/-- Form CX without extension words (R67). -/
def encCX (t : Tok) (x : Ext) (ok : Bool) : Option EncErr := encCheck 0 .C t x ok

/-- A target of an arrival (R60): 0 to 6. -/
def arvOk (q : BitVec 3) : Bool := q.toNat ≤ 6

/-- Semantics and scope of form AM agree (R60): scope 0 exactly when sem is 0, else 1 to 10. -/
def semScopeOk (sem : BitVec 2) (scope : BitVec 4) : Bool :=
  if sem.toNat == 0 then scope.toNat == 0 else 1 ≤ scope.toNat && scope.toNat ≤ 10

/-- A field of a payload, bits [hi:lo] (R2). -/
abbrev fld (p : Payload) (hi lo : Nat) : Nat := bitsOf p hi lo

/-- What a vector opcode's map entry names (R70): the register fields, the modifier fields, and whether a .W form exists. -/
structure VUse where
  d   : Bool := true
  a   : Bool := true
  b   : Bool := false
  c   : Bool := false
  tag : Bool := false
  rnd : Bool := false
  cnd : Bool := false
  sat : Bool := false
  imm : Bool := false
  w   : Bool := true

/-- The 32-bit immediate of a vector word, immhi : x1 (R63). -/
def Ext.imm32 (x : Ext) : BitVec 32 := BitVec.ofNat 32 (fld x.x0 2 0 * 2 ^ 29 + x.x1.toNat)

/-- The common check of a vector word (R63): the fields the map entry does not name are 0, tag and rnd in range, even
registers in the .W form; `ok` says what else the opcode asks. -/
def encV (t : Tok) (o : VF) (x : Ext) (u : VUse) (ok : Bool) : Option EncErr :=
  let m := x.x0
  encCheck 2 .V t x
    ((u.d || o.d == 0) && (u.a || o.a == 0) && (u.b || o.b == 0) && (u.c || fld m 28 24 == 0)
      && (if u.tag then fld m 23 20 ≤ 12 else fld m 23 20 == 0)
      && (if u.rnd then fld m 19 17 ≤ 4 else fld m 19 17 == 0)
      && (u.cnd || fld m 16 14 == 0) && (u.sat || fld m 13 13 == 0) && fld m 12 3 == 0
      && (u.imm || (fld m 2 0 == 0 && x.x1 == 0))
      && (if o.w then u.w && o.d.toNat % 2 == 0 && o.a.toNat % 2 == 0 && o.b.toNat % 2 == 0 && fld m 28 24 % 2 == 0 else true)
      && ok)

/-- The width in bits of an element of a tag code (R161). -/
def tagWidth (tag : Nat) : Nat :=
  match tag with
  | 0 | 8 | 11 => 32
  | 1 | 2 | 7 | 10 => 16
  | 3 | 4 | 6 | 9 => 8
  | 5 => 4
  | _ => 1

/-- The immediate of VSPLAT fits its tag (R358). -/
def splatOk (tag : Nat) (v : BitVec 32) : Bool := v.toNat < 2 ^ tagWidth tag

/-- The threshold of VQNT is zero, or positive and not NaN (R355). -/
def thetaOk (v : BitVec 32) : Bool :=
  v == 0 || v == 0x80000000#32 || (v.toNat < 2 ^ 31 && v.toNat ≤ 0x7F800000)

/-- Form G (R65, R71). -/
def encG (max : Nat) (t : Tok) (o : GF) (x : Ext) (p : Bool) (ok : Bool) : Option EncErr :=
  encCheck max .G t x (arvOk o.arv && o.p == p && ok)

/-- The form word of an LDQ to QV0 to QV3 (R161). -/
def formWordOk (p : Payload) : Bool :=
  fld p 23 13 == 0 &&
    (if fld p 28 28 == 1 then fld p 27 24 == 0 && fld p 12 0 == 0 else fld p 27 24 ≤ 12 && fld p 12 0 ≤ 4096)

/-- The command words of COPY (R239). -/
def copyWordsOk (x : Ext) : Bool :=
  let p := x.x0
  fld p 28 27 ≤ 2 && fld p 25 21 == 0 && (fld p 26 26 == 0 || fld p 28 27 == 2)
    && (match fld p 28 27 with
        | 0 => fld p 20 0 == 0
        | 2 => fld p 20 0 < 0x40000
        | _ => true)
    && fld x.x1 23 14 == 0

/-- The command words of COPYD (R183). -/
def copydWordsOk (x : Ext) : Bool :=
  let p := x.x0
  (fld p 28 27 == 1 || fld p 28 27 == 2) && fld p 25 21 == 0 && (fld p 26 26 == 0 || fld p 28 27 == 2)
    && (fld p 28 27 == 1 || fld p 20 0 < 0x40000) && fld x.x1 28 12 == 0

/-- The command words of COLL (R286). -/
def collWordsOk (x : Ext) : Bool :=
  fld x.x0 28 27 ≤ 2 && fld x.x0 26 24 ≤ 4 && (fld x.x0 23 20 != 0 || fld x.x1 28 14 == 0)

/-- The operation word of ATOM (R221): operation 0 to 10, FADD only at four bytes. -/
def atomWordOk (p : Payload) : Bool :=
  fld p 28 6 == 0 && fld p 3 0 ≤ 10 && (fld p 3 0 != 10 || fld p 5 4 == 2)

/-- The nest operand words of MRUN, the parts that the words alone decide (R126, R128, R326). -/
def mrunWordsOk (w : Bool) (x : Ext) : Bool :=
  let p := x.x0
  fld p 13 10 ≤ 10 && fld p 9 6 ≤ 10 && fld p 4 0 == 0 && fld x.x1 4 0 == 0
    && (w || fld x.x1 13 5 == 0) && (fld p 5 5 == 0 || fld p 13 10 ≤ 4)

/-- The control word of GDRAFT, the parts that the word alone decides (R254). -/
def draftWordOk (p : Payload) : Bool :=
  fld p 25 12 == 0
    && (fld p 26 26 == 0 || (1 ≤ fld p 3 0 && fld p 3 0 ≤ fld p 7 4 && fld p 7 4 ≤ 15))
    && (fld p 27 27 == 0 || fld p 11 8 != 0)

/-- M words whose registers and flags are as `ok` says (R69). -/
def encM (max : Nat) (t : Tok) (x : Ext) (ok : Bool) : Option EncErr := encCheck max .M t x ok

/-- The fields t, u, n of form M are 0. -/
def MF.tun0 (o : MF) : Bool := o.t == 0 && o.u == 0 && o.n == 0

/-- Flag bit i of form M. -/
def MF.fb (o : MF) (i : Nat) : Bool := o.f.getLsbD i

/-- The encoding fault of an instruction word, none where it is well formed. Events have no encoding and no fault of it. -/
def Instr.encErr : Instr → Option EncErr
  | .add t o x | .sub t o x | .mul t o x | .mulh t o x | .divn t o x | .remn t o x | .and t o x | .or t o x | .xor t o x
  | .shl t o x | .shr t o x | .sha t o x | .min t o x | .max t o x | .minn t o x | .maxn t o x | .slt t o x
  | .sltn t o x => encCR t o x
  | .clz t o x | .popc t o x => encCR1 t o x
  | .li t o x => encLI t o x
  | .beq t o x | .bne t o x | .blt t o x | .bge t o x | .bltn t o x | .bgen t o x => encCB t o x true
  | .jmp t o x => encCB t o x (o.a == 0 && o.b == 0)
  | .call t o x => encCB t o x (o.b == 0)
  | .ret t o x => encCX t x (o.d == 0 && o.k == 0)
  | .jtab t o x => encCX t x (o.d == 0)
  | .trap t o x => encCX t x (o.d == 0 && o.a == 0 && t.wait == 0 && t.sig == 0)
  | .eret t o x => encCX t x (o.d == 0 && o.a == 0 && o.k == 0 && t.wait == 0 && t.sig == 0)
  | .svcNone t o x => encCX t x (o.d == 0 && o.a.toNat < 29 && o.k == 0)
  | .grammarMaskRequest t o x => encCX t x (o.d == 0 && o.a.toNat < 29 && o.k == 1)
  | .monitorSnapshotRead t o x => encCX t x (o.d == 0 && o.a.toNat < 29 && o.k == 2)
  | .svcUnassigned t o x => encCX t x (o.d == 0 && o.a.toNat < 29 && 3 ≤ o.k.toNat)
  | .waite t o x => encCX t x (o.d == 0 && o.a == 0 && 1 ≤ o.k.toNat && o.k.toNat ≤ 8)
  | .bar t o x => encCX t x (o.d == 0 && o.a == 0 && o.k.toNat ≤ 15)
  | .mode t o x => encCX t x (o.d == 0 && o.a == 0 && o.k.toNat ≤ 1)
  | .gap t o x => encCheck 1 .C t x (o.d == 0 && o.a == 0 && (x.count == 0 || o.k == 0))
  | .phase t o x =>
    encCX t x ((o.d == 2 || o.d == 3 || o.d == 5 || o.d == 6) && o.k.toNat ≤ 8
      && (o.k == 0 || o.a.toNat + o.k.toNat ≤ 29))
  | .rdcr t o x => encCX t x (o.a == 0 && o.k.toNat ≤ 11)
  | .wrcrQstat t o x => encCX t x (o.d == 0 && o.k == 3)
  | .wrcrHandler t o x => encCX t x (o.d == 0 && o.k == 7)
  | .wrcrRngseed t o x => encCX t x (o.d == 0 && o.k == 11)
  | .done t o x | .snap t o x => encCX t x (o.d == 0 && o.a == 0 && o.k == 0)
  | .abwait t o x => encCX t x (o.d == 0 && o.k.toNat ≤ 15)
  | .bli t o x => encCheck 2 .A t x (o.a == 0 && o.b == 0 && !o.qa)
  | .badd t o x | .bmad t o x =>
    encCheck 2 .A t x (if x.count == 0 then !o.qa || o.b == 0 else o.b == 0 && !o.qa)
  | .bmov t o x => encCheck 0 .A t x (o.b == 0 && (!o.qa || o.a == 0))
  | .ldq t o x =>
    encCheck 2 .A t x (semScopeOk o.sem o.scope && o.sem.toNat ≤ 1 && o.q.toNat ≤ 5
      && (if 1 ≤ o.q.toNat && o.q.toNat ≤ 4 then formWordOk x.x1 else x.count ≤ 1))
  | .stq t o x =>
    encCheck 2 .A t x (semScopeOk o.sem o.scope && (o.sem == 0 || o.sem == 2) && o.q == 0 && fld x.x1 27 13 == 0
      && (if fld x.x1 28 28 == 1 then fld x.x1 12 0 == 0 else fld x.x1 12 0 ≤ 4096))
  | .atom t o x => encCheck 2 .A t x (semScopeOk o.sem o.scope && o.q.toNat ≤ 1 && atomWordOk x.x1)
  | .copy t o x => encCheck 2 .A t x (semScopeOk o.sem o.scope && arvOk o.q && copyWordsOk x)
  | .copyd t o x => encCheck 2 .A t x (semScopeOk o.sem o.scope && arvOk o.q && copydWordsOk x)
  | .coll t o x => encCheck 2 .A t x (semScopeOk o.sem o.scope && arvOk o.q && collWordsOk x)
  | .glsend t o x =>
    encCheck 2 .A t x (semScopeOk o.sem o.scope && arvOk o.q && o.b == 0 && fld x.x0 4 0 == 0 && fld x.x1 13 0 == 0)
  | .fence t o x =>
    encCheck 1 .A t x (o.sem == 0 && o.b == 0 && o.q == 0 && 1 ≤ o.scope.toNat && o.scope.toNat ≤ 10 && fld x.x0 28 16 == 0)
  | .fencesc t o x =>
    encCheck 0 .A t x (o.cls == 0 && o.sem == 0 && o.b == 0 && o.q == 0 && 1 ≤ o.scope.toNat && o.scope.toNat ≤ 10)
  | .zflag t o x =>
    encCheck 2 .A t x (o.sem == 0 && o.scope == 0 && o.q == 0 && fld x.x1 28 12 == 0 && fld x.x1 11 0 ≤ 2048)
  | .bankgate t o x =>
    encCheck 1 .A t x (o.sem == 0 && o.scope == 0 && o.b == 0 && o.q == 0 && fld x.x0 28 11 == 0
      && fld x.x0 4 0 ≤ fld x.x0 9 5)
  | .pginv t o x => encCheck 2 .A t x (o.sem == 0 && o.scope == 0 && o.q == 0 && x.x1.toNat < 4)
  | .pgprobe t o x => encCheck 1 .A t x (o.sem == 0 && o.scope == 0 && o.q == 0)
  | .abinit t o x | .abexp t o x =>
    encCheck 1 .A t x (o.a == 0 && o.b == 0 && (if o.qa then x.count == 0 else fld x.x0 28 20 == 0))
  | .abarv t o x => encCheck 1 .A t x (o.a == 0 && o.b == 0 && !o.qa && fld x.x0 28 20 == 0)
  | .mtab t o x => encM 2 t x (o.t == 0 && o.u == 0 && o.f == 0 && o.n.toNat ≤ 5)
  | .mrun t o x => encM 2 t x (o.tun0 && !o.fb 0 && !o.fb 1 && !o.fb 2 && mrunWordsOk (o.fb 5) x)
  | .mrunb t o x =>
    encM 2 t x (o.tun0 && !o.fb 0 && !o.fb 1 && !o.fb 2 && (o.fb 5 || !o.fb 4) && fld x.x0 13 0 == 0 && fld x.x1 13 0 == 0)
  | .mlowr t o x =>
    encM 2 t x (o.t == 0 && o.u == 0 && o.n.toNat ≤ 2 && (o.f == 0 || o.f == 8) && fld x.x0 13 0 == 0 && fld x.x1 13 0 == 0)
  | .mzero t o x => encM 0 t x (o.u == 0 && o.n == 0 && (o.f == 0 && o.t == 0 || o.f == 1))
  | .mdrain t o x => encM 0 t x (o.u == 0 && o.n == 0 && (o.f == 0 || o.f == 1))
  | .mjoin t o x => encM 1 t x (o.u == 0 && o.n == 0 && o.f == 0 && fld x.x0 13 0 == 0)
  | .mrec t o x | .mreplay t o x => encM 0 t x (o.u == 0 && o.n == 0 && o.f == 0)
  | .mfire t o x => encM 2 t x (o.tun0 && o.f == 0 && fld x.x0 13 0 == 0 && fld x.x1 13 0 == 0)
  | .mage t o x => encM 1 t x (o.tun0 && o.f == 0 && fld x.x0 13 0 == 0)
  | .mplace t o x =>
    encM 2 t x (o.tun0 && o.f == 0 && fld x.x0 13 0 == 0 && fld x.x1 0 0 == 0)
  | .vadd t o x | .vsub t o x | .vmul t o x | .vmin t o x | .vmax t o x => encV t o x { b := true, sat := true } true
  | .vfma t o x => encV t o x { b := true, c := true, sat := true } true
  | .vabs t o x | .vneg t o x | .vnot t o x | .vgexp t o x | .vgman t o x | .vcoal t o x | .vmov t o x => encV t o x {} true
  | .vcmp t o x => encV t o x { b := true, cnd := true } true
  | .vsel t o x => encV t o x { b := true, c := true } true
  | .vand t o x | .vor t o x | .vxor t o x | .vcat t o x => encV t o x { b := true } true
  | .vshl t o x | .vshr t o x => encV t o x { b := true, imm := true } true
  | .vrnd t o x => encV t o x { rnd := true } true
  | .vscalb t o x => encV t o x { b := true, rnd := true, sat := true } true
  | .vcvt t o x => encV t o x { tag := true, rnd := true, sat := true } true
  | .vcvp t o x =>
    encV t o x { tag := true, rnd := true, sat := true, w := false }
      (match fld x.x0 23 20 with
       | 1 | 2 | 7 | 10 => o.a.toNat % 2 == 0
       | 3 | 4 | 6 | 9 => o.a.toNat % 4 == 0
       | _ => false)
  | .vqnt t o x =>
    encV t o x { b := true, tag := true, rnd := true, imm := true }
      (3 ≤ fld x.x0 23 20 && fld x.x0 23 20 ≤ 8 && o.d != o.a && o.d != o.b && o.a != o.b && thetaOk x.imm32)
  | .vdqnt t o x =>
    encV t o x { tag := true } (3 ≤ fld x.x0 23 20 && fld x.x0 23 20 ≤ 8)
  | .vred t o x | .vscan t o x => encV t o x { imm := true } (x.imm32.toNat ≤ 5)
  | .vlen t o x => encV t o x { imm := true } (x.imm32.toNat ≤ 4096)
  | .vsplat t o x =>
    encV t o x { tag := true, imm := true } (splatOk (fld x.x0 23 20) x.imm32)
  | .vslice t o x =>
    encV t o x { imm := true }
      (bitsOf x.imm32 15 13 == 0 && bitsOf x.imm32 31 29 == 0)
  | .vext t o x => encV t o x { imm := true, w := false } (x.imm32.toNat < 4096)
  | .vins t o x => encV t o x { b := true, imm := true } (x.imm32.toNat < 4096)
  | .vpop t o x => encV t o x { w := false } (o.a.toNat < 4)
  | .vpush t o x => encV t o x { d := false, imm := true, w := false } (x.imm32.toNat ≤ 1)
  | .vrda t o x => encV t o x { a := false, imm := true, w := false } (x.imm32.toNat < 2 ^ 10)
  | .vwra t o x => encV t o x { d := false, imm := true, w := false } (x.imm32.toNat < 2 ^ 11)
  | .vcnt t o x => encV t o x { w := false } true
  | .viota t o x =>
    encV t o x { tag := true, imm := true } (6 ≤ fld x.x0 23 20 && fld x.x0 23 20 ≤ 11)
  | .xgath t o x | .xscat t o x | .xscadd t o x | .xbag t o x => encCheck 0 .X t x (arvOk o.arv)
  | .gseed t o x | .gstage t o x | .gcomp t o x => encG 0 t o x true (o.k == 0)
  | .gshort t o x | .gslow t o x | .gsamp t o x => encG 0 t o x true (o.k.toNat ≤ 15)
  | .gmask t o x | .gbudg t o x => encG 1 t o x true (o.k.toNat ≤ 15 && x.x0 != 0)
  | .gacpt t o x => encG 0 t o x true (1 ≤ o.k.toNat && o.k.toNat ≤ 15)
  | .gdraft t o x => encG 1 t o x false (o.k.toNat ≤ 2 && draftWordOk x.x0)
  | .boot | .thermalWarning _ | .thermalShutdown | .admission _ | .revoke _ | .opkey _ | .image _ | .floor _ | .load _
  | .launch _ | .launchQueueEntry _ | .unload _ | .quote _ | .cert _ | .grammar _ | .context _ | .drop _
  | .unsupportedPacket | .furrowDispatch _ | .overlaySwap _ | .splitWord _ | .resultLanding _
  | .phaseMarkerEffect _ _ | .roundBoundary | .risingPlanInstall _ | .millKstep _ | .nestLanding _ | .nestBreach _
  | .copyQueueStart _ | .collGenerationForm _ _ | .blockDecode _ | .genQueueStart _ | .indexQueueStart _
  | .commandCompletion _ _ | .walkComplete _ _ | .ownerAccessComplete _ _ | .heldWriteGrant _ | .holdTimeout _
  | .silluFaultService _ | .eccCorrectable _ | .eccFreezeEnd _ | .sramUncorrectable _ _ | .preempt _ | .restore _ _
  | .budgetExpiry _ | .maskDeadline _ | .maskDelivery _ | .svcServiceDone _ | .bellRing _ | .bankWakeEnd _ _
  | .bankPowerOff _ _ | .vpushTransfer _ | .stqEntryPop _ | .unassignedOpcode _ | .zeroingComplete _
  | .junctionTemperatureFall => none

/-- An instruction is well formed: its word and extension words raise no fault of the encoding. -/
def Instr.wf (i : Instr) : Bool := i.encErr.isNone

/-- The engine whose queue an instruction word enters, none for the device's events (R53). -/
def Instr.eng : Instr → Option Eng
  | .add .. | .sub .. | .mul .. | .mulh .. | .divn .. | .remn .. | .and .. | .or .. | .xor .. | .shl .. | .shr .. | .sha ..
  | .min .. | .max .. | .minn .. | .maxn .. | .clz .. | .popc .. | .slt .. | .sltn .. | .li .. | .beq .. | .bne .. | .blt ..
  | .bge .. | .bltn .. | .bgen .. | .jmp .. | .call .. | .ret .. | .jtab .. | .trap .. | .eret .. | .svcNone ..
  | .grammarMaskRequest .. | .monitorSnapshotRead .. | .svcUnassigned .. | .waite .. | .bar .. | .mode .. | .gap ..
  | .phase .. | .rdcr .. | .wrcrQstat .. | .wrcrHandler .. | .wrcrRngseed .. | .done .. | .abwait .. | .snap .. => some .C
  | .bli .. | .badd .. | .bmad .. | .bmov .. | .ldq .. | .stq .. | .atom .. | .copy .. | .copyd .. | .coll .. | .glsend ..
  | .fence .. | .fencesc .. | .zflag .. | .bankgate .. | .pginv .. | .pgprobe .. | .abinit .. | .abexp ..
  | .abarv .. => some .A
  | .mtab .. | .mrun .. | .mrunb .. | .mlowr .. | .mzero .. | .mdrain .. | .mjoin .. | .mrec .. | .mreplay .. | .mfire ..
  | .mage .. | .mplace .. => some .M
  | .vadd .. | .vsub .. | .vmul .. | .vfma .. | .vmin .. | .vmax .. | .vabs .. | .vneg .. | .vcmp .. | .vsel .. | .vand ..
  | .vor .. | .vxor .. | .vnot .. | .vshl .. | .vshr .. | .vrnd .. | .vscalb .. | .vgexp .. | .vgman .. | .vcvt .. | .vcvp ..
  | .vqnt .. | .vdqnt .. | .vred .. | .vscan .. | .vcoal .. | .vlen .. | .vsplat .. | .vcat .. | .vslice .. | .vext ..
  | .vins .. | .vpop .. | .vpush .. | .vrda .. | .vwra .. | .vmov .. | .vcnt .. | .viota .. => some .V
  | .xgath .. | .xscat .. | .xscadd .. | .xbag .. => some .X
  | .gseed .. | .gshort .. | .gslow .. | .gsamp .. | .gmask .. | .gbudg .. | .gacpt .. | .gdraft .. | .gstage ..
  | .gcomp .. => some .G
  | .unassignedOpcode e => some e
  | .boot | .thermalWarning _ | .thermalShutdown | .admission _ | .revoke _ | .opkey _ | .image _ | .floor _ | .load _
  | .launch _ | .launchQueueEntry _ | .unload _ | .quote _ | .cert _ | .grammar _ | .context _ | .drop _
  | .unsupportedPacket | .furrowDispatch _ | .overlaySwap _ | .splitWord _ | .resultLanding _
  | .phaseMarkerEffect _ _ | .roundBoundary | .risingPlanInstall _ | .millKstep _ | .nestLanding _ | .nestBreach _
  | .copyQueueStart _ | .collGenerationForm _ _ | .blockDecode _ | .genQueueStart _ | .indexQueueStart _
  | .commandCompletion _ _ | .walkComplete _ _ | .ownerAccessComplete _ _ | .heldWriteGrant _ | .holdTimeout _
  | .silluFaultService _ | .eccCorrectable _ | .eccFreezeEnd _ | .sramUncorrectable _ _ | .preempt _ | .restore _ _
  | .budgetExpiry _ | .maskDeadline _ | .maskDelivery _ | .svcServiceDone _ | .bellRing _ | .bankWakeEnd _ _
  | .bankPowerOff _ _ | .vpushTransfer _ | .stqEntryPop _ | .zeroingComplete _ | .junctionTemperatureFall => none

end Sys2Proof
end

