-- ==== Sys2Proof/Decode.lean ====
section
/-! DEFINITION. Decoding instruction words into `Instr`, total on any bytes and refusing by name, and the encoder, both
written from the layouts and opcode maps of R53 to R73. -/

namespace Sys2Proof

/-- Why words are refused: an eng field of 0 (R55), an extension word where an instruction is due or a third one (R56), a fault
of the encoding on an engine (R38, R57, R66), bytes that end before the instruction does. -/
inductive DecErr where
  | zeroEng
  | thirdExt
  | enc (f : EncErr) (e : Eng)
  | short
  deriving DecidableEq, Repr

/-- Form CR in operand bits (R58). -/
def CR.ofBits (p : BitVec 17) : CR :=
  ⟨p.extractLsb' 12 5, p.extractLsb' 7 5, p.extractLsb' 2 5, p.getLsbD 1⟩
/-- Form CB in operand bits (R58). -/
def CB.ofBits (p : BitVec 17) : CB := ⟨p.extractLsb' 12 5, p.extractLsb' 7 5, p.extractLsb' 0 7⟩
/-- Form CX in operand bits (R58). -/
def CX.ofBits (p : BitVec 17) : CX := ⟨p.extractLsb' 12 5, p.extractLsb' 7 5, p.extractLsb' 0 7⟩
/-- Form AM in operand bits (R60). -/
def AM.ofBits (p : BitVec 17) : AM :=
  ⟨p.extractLsb' 13 4, p.extractLsb' 11 2, p.extractLsb' 7 4, p.extractLsb' 3 4, p.extractLsb' 0 3⟩
/-- Form AB in operand bits (R60). -/
def AB.ofBits (p : BitVec 17) : AB :=
  ⟨p.extractLsb' 13 4, p.extractLsb' 9 4, p.extractLsb' 5 4, p.getLsbD 4⟩
/-- The M form in operand bits (R62). -/
def MF.ofBits (p : BitVec 17) : MF := ⟨p.extractLsb' 13 4, p.extractLsb' 9 4, p.extractLsb' 6 3, p.extractLsb' 0 6⟩
/-- The V form in operand bits (R63). -/
def VF.ofBits (p : BitVec 17) : VF :=
  ⟨p.extractLsb' 12 5, p.extractLsb' 7 5, p.extractLsb' 2 5, p.getLsbD 1⟩
/-- The X form in operand bits (R64). -/
def XF.ofBits (p : BitVec 17) : XF := ⟨p.extractLsb' 14 3, p.extractLsb' 0 14⟩
/-- The G form in operand bits (R65). -/
def GF.ofBits (p : BitVec 17) : GF := ⟨p.extractLsb' 14 3, p.getLsbD 13, p.extractLsb' 0 13⟩

/-- Operand bits of form CR. -/
def CR.bits (o : CR) : BitVec 17 := o.d ++ o.a ++ o.b ++ BitVec.ofBool o.i ++ 0#1
/-- Operand bits of form CB. -/
def CB.bits (o : CB) : BitVec 17 := o.a ++ o.b ++ o.off
/-- Operand bits of form CX. -/
def CX.bits (o : CX) : BitVec 17 := o.d ++ o.a ++ o.k
/-- Operand bits of form AM. -/
def AM.bits (o : AM) : BitVec 17 := o.cls ++ o.sem ++ o.scope ++ o.b ++ o.q
/-- Operand bits of form AB. -/
def AB.bits (o : AB) : BitVec 17 := o.d ++ o.a ++ o.b ++ BitVec.ofBool o.qa ++ 0#4
/-- Operand bits of the M form. -/
def MF.bits (o : MF) : BitVec 17 := o.t ++ o.u ++ o.n ++ o.f
/-- Operand bits of the V form. -/
def VF.bits (o : VF) : BitVec 17 := o.d ++ o.a ++ o.b ++ BitVec.ofBool o.w ++ 0#1
/-- Operand bits of the X form. -/
def XF.bits (o : XF) : BitVec 17 := o.arv ++ o.desc
/-- Operand bits of the G form. -/
def GF.bits (o : GF) : BitVec 17 := o.arv ++ BitVec.ofBool o.p ++ o.k

/-- The control engine's opcode map (R67), none where the opcode is unassigned (R72). The four rows of SVC and the three of WRCR share an opcode and differ in k (R341, R364). -/
def decodeC (op : Nat) (t : Tok) (p : BitVec 17) (x : Ext) : Option Instr :=
  match op with
  | 0x01 => some (.add t (.ofBits p) x)
  | 0x02 => some (.sub t (.ofBits p) x)
  | 0x03 => some (.mul t (.ofBits p) x)
  | 0x04 => some (.mulh t (.ofBits p) x)
  | 0x05 => some (.divn t (.ofBits p) x)
  | 0x06 => some (.remn t (.ofBits p) x)
  | 0x07 => some (.and t (.ofBits p) x)
  | 0x08 => some (.or t (.ofBits p) x)
  | 0x09 => some (.xor t (.ofBits p) x)
  | 0x0A => some (.shl t (.ofBits p) x)
  | 0x0B => some (.shr t (.ofBits p) x)
  | 0x0C => some (.sha t (.ofBits p) x)
  | 0x0D => some (.min t (.ofBits p) x)
  | 0x0E => some (.max t (.ofBits p) x)
  | 0x0F => some (.minn t (.ofBits p) x)
  | 0x10 => some (.maxn t (.ofBits p) x)
  | 0x11 => some (.clz t (.ofBits p) x)
  | 0x12 => some (.popc t (.ofBits p) x)
  | 0x13 => some (.slt t (.ofBits p) x)
  | 0x14 => some (.sltn t (.ofBits p) x)
  | 0x15 => some (.li t (.ofBits p) x)
  | 0x18 => some (.beq t (.ofBits p) x)
  | 0x19 => some (.bne t (.ofBits p) x)
  | 0x1A => some (.blt t (.ofBits p) x)
  | 0x1B => some (.bge t (.ofBits p) x)
  | 0x1C => some (.bltn t (.ofBits p) x)
  | 0x1D => some (.bgen t (.ofBits p) x)
  | 0x1E => some (.jmp t (.ofBits p) x)
  | 0x1F => some (.call t (.ofBits p) x)
  | 0x20 => some (.ret t (.ofBits p) x)
  | 0x21 => some (.jtab t (.ofBits p) x)
  | 0x28 => some (.trap t (.ofBits p) x)
  | 0x29 => some (.eret t (.ofBits p) x)
  | 0x2A =>
    let o := CX.ofBits p
    some (match o.k.toNat with
      | 0 => .svcNone t o x
      | 1 => .grammarMaskRequest t o x
      | 2 => .monitorSnapshotRead t o x
      | _ => .svcUnassigned t o x)
  | 0x2B => some (.waite t (.ofBits p) x)
  | 0x30 => some (.bar t (.ofBits p) x)
  | 0x31 => some (.mode t (.ofBits p) x)
  | 0x32 => some (.gap t (.ofBits p) x)
  | 0x33 => some (.phase t (.ofBits p) x)
  | 0x34 => some (.rdcr t (.ofBits p) x)
  | 0x35 =>
    let o := CX.ofBits p
    some (match o.k.toNat with
      | 7 => .wrcrHandler t o x
      | 11 => .wrcrRngseed t o x
      | _ => .wrcrQstat t o x)
  | 0x36 => some (.done t (.ofBits p) x)
  | 0x37 => some (.abwait t (.ofBits p) x)
  | 0x38 => some (.snap t (.ofBits p) x)
  | _ => none

/-- The access engine's opcode map (R68), none where the opcode is unassigned (R72). -/
def decodeA (op : Nat) (t : Tok) (p : BitVec 17) (x : Ext) : Option Instr :=
  match op with
  | 0x01 => some (.bli t (.ofBits p) x)
  | 0x02 => some (.badd t (.ofBits p) x)
  | 0x03 => some (.bmad t (.ofBits p) x)
  | 0x04 => some (.bmov t (.ofBits p) x)
  | 0x05 => some (.ldq t (.ofBits p) x)
  | 0x06 => some (.stq t (.ofBits p) x)
  | 0x07 => some (.atom t (.ofBits p) x)
  | 0x08 => some (.copy t (.ofBits p) x)
  | 0x09 => some (.copyd t (.ofBits p) x)
  | 0x0A => some (.coll t (.ofBits p) x)
  | 0x0B => some (.glsend t (.ofBits p) x)
  | 0x10 => some (.fence t (.ofBits p) x)
  | 0x11 => some (.fencesc t (.ofBits p) x)
  | 0x14 => some (.zflag t (.ofBits p) x)
  | 0x15 => some (.bankgate t (.ofBits p) x)
  | 0x18 => some (.pginv t (.ofBits p) x)
  | 0x19 => some (.pgprobe t (.ofBits p) x)
  | 0x1C => some (.abinit t (.ofBits p) x)
  | 0x1D => some (.abexp t (.ofBits p) x)
  | 0x1E => some (.abarv t (.ofBits p) x)
  | _ => none

/-- The matrix engine's opcode map (R69), none where the opcode is unassigned (R72). -/
def decodeM (op : Nat) (t : Tok) (p : BitVec 17) (x : Ext) : Option Instr :=
  match op with
  | 0x01 => some (.mtab t (.ofBits p) x)
  | 0x02 => some (.mrun t (.ofBits p) x)
  | 0x03 => some (.mrunb t (.ofBits p) x)
  | 0x04 => some (.mlowr t (.ofBits p) x)
  | 0x05 => some (.mzero t (.ofBits p) x)
  | 0x06 => some (.mdrain t (.ofBits p) x)
  | 0x07 => some (.mjoin t (.ofBits p) x)
  | 0x08 => some (.mrec t (.ofBits p) x)
  | 0x09 => some (.mreplay t (.ofBits p) x)
  | 0x10 => some (.mfire t (.ofBits p) x)
  | 0x11 => some (.mage t (.ofBits p) x)
  | 0x12 => some (.mplace t (.ofBits p) x)
  | _ => none

/-- The vector engine's opcode map (R70), none where the opcode is unassigned (R72). -/
def decodeV (op : Nat) (t : Tok) (p : BitVec 17) (x : Ext) : Option Instr :=
  match op with
  | 0x01 => some (.vadd t (.ofBits p) x)
  | 0x02 => some (.vsub t (.ofBits p) x)
  | 0x03 => some (.vmul t (.ofBits p) x)
  | 0x04 => some (.vfma t (.ofBits p) x)
  | 0x05 => some (.vmin t (.ofBits p) x)
  | 0x06 => some (.vmax t (.ofBits p) x)
  | 0x07 => some (.vabs t (.ofBits p) x)
  | 0x08 => some (.vneg t (.ofBits p) x)
  | 0x09 => some (.vcmp t (.ofBits p) x)
  | 0x0A => some (.vsel t (.ofBits p) x)
  | 0x0B => some (.vand t (.ofBits p) x)
  | 0x0C => some (.vor t (.ofBits p) x)
  | 0x0D => some (.vxor t (.ofBits p) x)
  | 0x0E => some (.vnot t (.ofBits p) x)
  | 0x0F => some (.vshl t (.ofBits p) x)
  | 0x10 => some (.vshr t (.ofBits p) x)
  | 0x11 => some (.vrnd t (.ofBits p) x)
  | 0x12 => some (.vscalb t (.ofBits p) x)
  | 0x13 => some (.vgexp t (.ofBits p) x)
  | 0x14 => some (.vgman t (.ofBits p) x)
  | 0x18 => some (.vcvt t (.ofBits p) x)
  | 0x19 => some (.vcvp t (.ofBits p) x)
  | 0x1A => some (.vqnt t (.ofBits p) x)
  | 0x1B => some (.vdqnt t (.ofBits p) x)
  | 0x20 => some (.vred t (.ofBits p) x)
  | 0x21 => some (.vscan t (.ofBits p) x)
  | 0x22 => some (.vcoal t (.ofBits p) x)
  | 0x23 => some (.vlen t (.ofBits p) x)
  | 0x24 => some (.vsplat t (.ofBits p) x)
  | 0x25 => some (.vcat t (.ofBits p) x)
  | 0x26 => some (.vslice t (.ofBits p) x)
  | 0x27 => some (.vext t (.ofBits p) x)
  | 0x28 => some (.vins t (.ofBits p) x)
  | 0x30 => some (.vpop t (.ofBits p) x)
  | 0x31 => some (.vpush t (.ofBits p) x)
  | 0x32 => some (.vrda t (.ofBits p) x)
  | 0x33 => some (.vwra t (.ofBits p) x)
  | 0x34 => some (.vmov t (.ofBits p) x)
  | 0x35 => some (.vcnt t (.ofBits p) x)
  | 0x36 => some (.viota t (.ofBits p) x)
  | _ => none

/-- The index engine's opcode map (R71), none where the opcode is unassigned (R72). -/
def decodeX (op : Nat) (t : Tok) (p : BitVec 17) (x : Ext) : Option Instr :=
  match op with
  | 0x01 => some (.xgath t (.ofBits p) x)
  | 0x02 => some (.xscat t (.ofBits p) x)
  | 0x03 => some (.xscadd t (.ofBits p) x)
  | 0x04 => some (.xbag t (.ofBits p) x)
  | _ => none

/-- The generation engine's opcode map (R71), none where the opcode is unassigned (R72). -/
def decodeG (op : Nat) (t : Tok) (p : BitVec 17) (x : Ext) : Option Instr :=
  match op with
  | 0x01 => some (.gseed t (.ofBits p) x)
  | 0x02 => some (.gshort t (.ofBits p) x)
  | 0x03 => some (.gslow t (.ofBits p) x)
  | 0x04 => some (.gsamp t (.ofBits p) x)
  | 0x05 => some (.gmask t (.ofBits p) x)
  | 0x06 => some (.gbudg t (.ofBits p) x)
  | 0x08 => some (.gacpt t (.ofBits p) x)
  | 0x09 => some (.gdraft t (.ofBits p) x)
  | 0x0A => some (.gstage t (.ofBits p) x)
  | 0x0B => some (.gcomp t (.ofBits p) x)
  | _ => none

/-- The reserved operand bits of an engine's form are 0 (R58, R60, R63, R66): bit 0 of form CR and of the V form, bits 3 to 0
of form AB. -/
def reservedOk : Instr → BitVec 17 → Bool
  | .add .., p | .sub .., p | .mul .., p | .mulh .., p | .divn .., p | .remn .., p | .and .., p | .or .., p | .xor .., p
  | .shl .., p | .shr .., p | .sha .., p | .min .., p | .max .., p | .minn .., p | .maxn .., p | .clz .., p | .popc .., p
  | .slt .., p | .sltn .., p | .li .., p => !p.getLsbD 0
  | .bli .., p | .badd .., p | .bmad .., p | .bmov .., p | .abinit .., p | .abexp .., p | .abarv .., p =>
    p.extractLsb' 0 4 == 0
  | i, p => i.eng != some .V || !p.getLsbD 0

/-- The opcode map of an engine. -/
def decodeEng (e : Eng) (op : Nat) (t : Tok) (p : BitVec 17) (x : Ext) : Option Instr :=
  match e with
  | .C => decodeC op t p x
  | .A => decodeA op t p x
  | .M => decodeM op t p x
  | .V => decodeV op t p x
  | .X => decodeX op t p x
  | .G => decodeG op t p x

/-- The instruction a word and its extension words stand for, or the fault of its encoding (R53 to R73). An unassigned opcode
is the row UNASSIGNED_OPCODE, an instruction whose meaning is its fault (R72). -/
def decodeWord (w : Word32) (x : Ext) : Except DecErr Instr :=
  match Eng.ofCode (w.extractLsb' 29 3).toNat with
  | none => .error (if w.extractLsb' 29 3 == 0 then .zeroEng else .thirdExt)
  | some e =>
    let p := w.extractLsb' 0 17
    match decodeEng e (w.extractLsb' 17 6).toNat ⟨w.extractLsb' 26 3, w.extractLsb' 23 3⟩ p x with
    | none => .ok (.unassignedOpcode e)
    | some i =>
      match i.encErr with
      | some .illext => .error (.enc .illext e)
      | some .illop => .error (.enc .illop e)
      | none => if reservedOk i p then .ok i else .error (.enc .illop e)

/-- A word is an extension word: eng is 7 (R53). -/
def isExtWord (w : Word32) : Bool := w.extractLsb' 29 3 == 7#3

/-- The word of four bytes, least significant first (R3). -/
def wordOfBytes (b0 b1 b2 b3 : Byte) : Word32 := b3 ++ b2 ++ b1 ++ b0

/-- The four bytes of a word, least significant first (R3). -/
def bytesOfWord (w : Word32) : List Byte :=
  [w.extractLsb' 0 8, w.extractLsb' 8 8, w.extractLsb' 16 8, w.extractLsb' 24 8]

/-- One more extension word after x, none where two stand already (R56). -/
def Ext.push (x : Ext) (p : Payload) : Option Ext :=
  match x with
  | .none => some (.one p)
  | .one a => some (.two a p)
  | .two _ _ => Option.none

/-- Decode words in fetch order, with the extension words already taken: at most two before the instruction (R56). -/
def decodeWords (x : Ext) : List Word32 → Except DecErr (Instr × List Word32)
  | [] => .error .short
  | w :: ws =>
    if isExtWord w then
      match x.push (w.extractLsb' 0 29) with
      | none => .error .thirdExt
      | some x' => decodeWords x' ws
    else
      match decodeWord w x with
      | .ok i => .ok (i, ws)
      | .error e => .error e

/-- The whole words of a byte list; bytes that make no whole word are left out. -/
def wordsOfBytes : List Byte → List Word32
  | b0 :: b1 :: b2 :: b3 :: bs => wordOfBytes b0 b1 b2 b3 :: wordsOfBytes bs
  | _ => []

/-- Decode the first instruction of a byte list, with the words that remain. -/
def decodeBytes (bs : List Byte) : Except DecErr (Instr × List Word32) := decodeWords .none (wordsOfBytes bs)

/-- An instruction word from its fields (R53). -/
def mkWord (e : Eng) (op : BitVec 6) (t : Tok) (p : BitVec 17) : Word32 :=
  BitVec.ofNat 3 e.code ++ t.wait ++ t.sig ++ op ++ p

/-- An extension word of a payload (R53). -/
def extWord (p : Payload) : Word32 := 7#3 ++ p

/-- The extension words of an instruction in fetch order (R56). -/
def Ext.words : Ext → List Word32
  | .none => []
  | .one x0 => [extWord x0]
  | .two x0 x1 => [extWord x0, extWord x1]

/-- The instruction word itself, none for the device's events. The word of UNASSIGNED_OPCODE is the unassigned opcode 0x00 of
its engine (R72). -/
def Instr.word : Instr → Option Word32
  | .add t o _ => some (mkWord .C 0x01 t o.bits)
  | .sub t o _ => some (mkWord .C 0x02 t o.bits)
  | .mul t o _ => some (mkWord .C 0x03 t o.bits)
  | .mulh t o _ => some (mkWord .C 0x04 t o.bits)
  | .divn t o _ => some (mkWord .C 0x05 t o.bits)
  | .remn t o _ => some (mkWord .C 0x06 t o.bits)
  | .and t o _ => some (mkWord .C 0x07 t o.bits)
  | .or t o _ => some (mkWord .C 0x08 t o.bits)
  | .xor t o _ => some (mkWord .C 0x09 t o.bits)
  | .shl t o _ => some (mkWord .C 0x0A t o.bits)
  | .shr t o _ => some (mkWord .C 0x0B t o.bits)
  | .sha t o _ => some (mkWord .C 0x0C t o.bits)
  | .min t o _ => some (mkWord .C 0x0D t o.bits)
  | .max t o _ => some (mkWord .C 0x0E t o.bits)
  | .minn t o _ => some (mkWord .C 0x0F t o.bits)
  | .maxn t o _ => some (mkWord .C 0x10 t o.bits)
  | .clz t o _ => some (mkWord .C 0x11 t o.bits)
  | .popc t o _ => some (mkWord .C 0x12 t o.bits)
  | .slt t o _ => some (mkWord .C 0x13 t o.bits)
  | .sltn t o _ => some (mkWord .C 0x14 t o.bits)
  | .li t o _ => some (mkWord .C 0x15 t o.bits)
  | .beq t o _ => some (mkWord .C 0x18 t o.bits)
  | .bne t o _ => some (mkWord .C 0x19 t o.bits)
  | .blt t o _ => some (mkWord .C 0x1A t o.bits)
  | .bge t o _ => some (mkWord .C 0x1B t o.bits)
  | .bltn t o _ => some (mkWord .C 0x1C t o.bits)
  | .bgen t o _ => some (mkWord .C 0x1D t o.bits)
  | .jmp t o _ => some (mkWord .C 0x1E t o.bits)
  | .call t o _ => some (mkWord .C 0x1F t o.bits)
  | .ret t o _ => some (mkWord .C 0x20 t o.bits)
  | .jtab t o _ => some (mkWord .C 0x21 t o.bits)
  | .trap t o _ => some (mkWord .C 0x28 t o.bits)
  | .eret t o _ => some (mkWord .C 0x29 t o.bits)
  | .svcNone t o _ => some (mkWord .C 0x2A t o.bits)
  | .grammarMaskRequest t o _ => some (mkWord .C 0x2A t o.bits)
  | .monitorSnapshotRead t o _ => some (mkWord .C 0x2A t o.bits)
  | .svcUnassigned t o _ => some (mkWord .C 0x2A t o.bits)
  | .waite t o _ => some (mkWord .C 0x2B t o.bits)
  | .bar t o _ => some (mkWord .C 0x30 t o.bits)
  | .mode t o _ => some (mkWord .C 0x31 t o.bits)
  | .gap t o _ => some (mkWord .C 0x32 t o.bits)
  | .phase t o _ => some (mkWord .C 0x33 t o.bits)
  | .rdcr t o _ => some (mkWord .C 0x34 t o.bits)
  | .wrcrQstat t o _ => some (mkWord .C 0x35 t o.bits)
  | .wrcrHandler t o _ => some (mkWord .C 0x35 t o.bits)
  | .wrcrRngseed t o _ => some (mkWord .C 0x35 t o.bits)
  | .done t o _ => some (mkWord .C 0x36 t o.bits)
  | .abwait t o _ => some (mkWord .C 0x37 t o.bits)
  | .snap t o _ => some (mkWord .C 0x38 t o.bits)
  | .bli t o _ => some (mkWord .A 0x01 t o.bits)
  | .badd t o _ => some (mkWord .A 0x02 t o.bits)
  | .bmad t o _ => some (mkWord .A 0x03 t o.bits)
  | .bmov t o _ => some (mkWord .A 0x04 t o.bits)
  | .ldq t o _ => some (mkWord .A 0x05 t o.bits)
  | .stq t o _ => some (mkWord .A 0x06 t o.bits)
  | .atom t o _ => some (mkWord .A 0x07 t o.bits)
  | .copy t o _ => some (mkWord .A 0x08 t o.bits)
  | .copyd t o _ => some (mkWord .A 0x09 t o.bits)
  | .coll t o _ => some (mkWord .A 0x0A t o.bits)
  | .glsend t o _ => some (mkWord .A 0x0B t o.bits)
  | .fence t o _ => some (mkWord .A 0x10 t o.bits)
  | .fencesc t o _ => some (mkWord .A 0x11 t o.bits)
  | .zflag t o _ => some (mkWord .A 0x14 t o.bits)
  | .bankgate t o _ => some (mkWord .A 0x15 t o.bits)
  | .pginv t o _ => some (mkWord .A 0x18 t o.bits)
  | .pgprobe t o _ => some (mkWord .A 0x19 t o.bits)
  | .abinit t o _ => some (mkWord .A 0x1C t o.bits)
  | .abexp t o _ => some (mkWord .A 0x1D t o.bits)
  | .abarv t o _ => some (mkWord .A 0x1E t o.bits)
  | .mtab t o _ => some (mkWord .M 0x01 t o.bits)
  | .mrun t o _ => some (mkWord .M 0x02 t o.bits)
  | .mrunb t o _ => some (mkWord .M 0x03 t o.bits)
  | .mlowr t o _ => some (mkWord .M 0x04 t o.bits)
  | .mzero t o _ => some (mkWord .M 0x05 t o.bits)
  | .mdrain t o _ => some (mkWord .M 0x06 t o.bits)
  | .mjoin t o _ => some (mkWord .M 0x07 t o.bits)
  | .mrec t o _ => some (mkWord .M 0x08 t o.bits)
  | .mreplay t o _ => some (mkWord .M 0x09 t o.bits)
  | .mfire t o _ => some (mkWord .M 0x10 t o.bits)
  | .mage t o _ => some (mkWord .M 0x11 t o.bits)
  | .mplace t o _ => some (mkWord .M 0x12 t o.bits)
  | .vadd t o _ => some (mkWord .V 0x01 t o.bits)
  | .vsub t o _ => some (mkWord .V 0x02 t o.bits)
  | .vmul t o _ => some (mkWord .V 0x03 t o.bits)
  | .vfma t o _ => some (mkWord .V 0x04 t o.bits)
  | .vmin t o _ => some (mkWord .V 0x05 t o.bits)
  | .vmax t o _ => some (mkWord .V 0x06 t o.bits)
  | .vabs t o _ => some (mkWord .V 0x07 t o.bits)
  | .vneg t o _ => some (mkWord .V 0x08 t o.bits)
  | .vcmp t o _ => some (mkWord .V 0x09 t o.bits)
  | .vsel t o _ => some (mkWord .V 0x0A t o.bits)
  | .vand t o _ => some (mkWord .V 0x0B t o.bits)
  | .vor t o _ => some (mkWord .V 0x0C t o.bits)
  | .vxor t o _ => some (mkWord .V 0x0D t o.bits)
  | .vnot t o _ => some (mkWord .V 0x0E t o.bits)
  | .vshl t o _ => some (mkWord .V 0x0F t o.bits)
  | .vshr t o _ => some (mkWord .V 0x10 t o.bits)
  | .vrnd t o _ => some (mkWord .V 0x11 t o.bits)
  | .vscalb t o _ => some (mkWord .V 0x12 t o.bits)
  | .vgexp t o _ => some (mkWord .V 0x13 t o.bits)
  | .vgman t o _ => some (mkWord .V 0x14 t o.bits)
  | .vcvt t o _ => some (mkWord .V 0x18 t o.bits)
  | .vcvp t o _ => some (mkWord .V 0x19 t o.bits)
  | .vqnt t o _ => some (mkWord .V 0x1A t o.bits)
  | .vdqnt t o _ => some (mkWord .V 0x1B t o.bits)
  | .vred t o _ => some (mkWord .V 0x20 t o.bits)
  | .vscan t o _ => some (mkWord .V 0x21 t o.bits)
  | .vcoal t o _ => some (mkWord .V 0x22 t o.bits)
  | .vlen t o _ => some (mkWord .V 0x23 t o.bits)
  | .vsplat t o _ => some (mkWord .V 0x24 t o.bits)
  | .vcat t o _ => some (mkWord .V 0x25 t o.bits)
  | .vslice t o _ => some (mkWord .V 0x26 t o.bits)
  | .vext t o _ => some (mkWord .V 0x27 t o.bits)
  | .vins t o _ => some (mkWord .V 0x28 t o.bits)
  | .vpop t o _ => some (mkWord .V 0x30 t o.bits)
  | .vpush t o _ => some (mkWord .V 0x31 t o.bits)
  | .vrda t o _ => some (mkWord .V 0x32 t o.bits)
  | .vwra t o _ => some (mkWord .V 0x33 t o.bits)
  | .vmov t o _ => some (mkWord .V 0x34 t o.bits)
  | .vcnt t o _ => some (mkWord .V 0x35 t o.bits)
  | .viota t o _ => some (mkWord .V 0x36 t o.bits)
  | .xgath t o _ => some (mkWord .X 0x01 t o.bits)
  | .xscat t o _ => some (mkWord .X 0x02 t o.bits)
  | .xscadd t o _ => some (mkWord .X 0x03 t o.bits)
  | .xbag t o _ => some (mkWord .X 0x04 t o.bits)
  | .gseed t o _ => some (mkWord .G 0x01 t o.bits)
  | .gshort t o _ => some (mkWord .G 0x02 t o.bits)
  | .gslow t o _ => some (mkWord .G 0x03 t o.bits)
  | .gsamp t o _ => some (mkWord .G 0x04 t o.bits)
  | .gmask t o _ => some (mkWord .G 0x05 t o.bits)
  | .gbudg t o _ => some (mkWord .G 0x06 t o.bits)
  | .gacpt t o _ => some (mkWord .G 0x08 t o.bits)
  | .gdraft t o _ => some (mkWord .G 0x09 t o.bits)
  | .gstage t o _ => some (mkWord .G 0x0A t o.bits)
  | .gcomp t o _ => some (mkWord .G 0x0B t o.bits)
  | .unassignedOpcode e => some (mkWord e 0x00 ⟨0, 0⟩ 0)
  | .boot | .thermalWarning _ | .thermalShutdown | .admission _ | .revoke _ | .opkey _ | .image _ | .floor _ | .load _
  | .launch _ | .launchQueueEntry _ | .unload _ | .quote _ | .cert _ | .grammar _ | .context _ | .drop _
  | .unsupportedPacket | .furrowDispatch _ | .overlaySwap _ | .splitWord _ | .resultLanding _
  | .phaseMarkerEffect _ _ | .roundBoundary | .risingPlanInstall _ | .millKstep _ | .nestLanding _ | .nestBreach _
  | .copyQueueStart _ | .collGenerationForm _ _ | .blockDecode _ | .genQueueStart _ | .indexQueueStart _
  | .commandCompletion _ _ | .walkComplete _ _ | .ownerAccessComplete _ _ | .heldWriteGrant _ | .holdTimeout _
  | .silluFaultService _ | .eccCorrectable _ | .eccFreezeEnd _ | .sramUncorrectable _ _ | .preempt _ | .restore _ _
  | .budgetExpiry _ | .maskDeadline _ | .maskDelivery _ | .svcServiceDone _ | .bellRing _ | .bankWakeEnd _ _
  | .bankPowerOff _ _ | .vpushTransfer _ | .stqEntryPop _ | .zeroingComplete _ | .junctionTemperatureFall => none

/-- The extension words attached to an instruction, none for the device's events. -/
def Instr.ext : Instr → Ext
  | .add _ _ x | .sub _ _ x | .mul _ _ x | .mulh _ _ x | .divn _ _ x | .remn _ _ x | .and _ _ x | .or _ _ x
  | .xor _ _ x | .shl _ _ x | .shr _ _ x | .sha _ _ x | .min _ _ x | .max _ _ x | .minn _ _ x | .maxn _ _ x
  | .clz _ _ x | .popc _ _ x | .slt _ _ x | .sltn _ _ x | .li _ _ x | .beq _ _ x | .bne _ _ x | .blt _ _ x
  | .bge _ _ x | .bltn _ _ x | .bgen _ _ x | .jmp _ _ x | .call _ _ x | .ret _ _ x | .jtab _ _ x | .trap _ _ x
  | .eret _ _ x | .svcNone _ _ x | .grammarMaskRequest _ _ x | .monitorSnapshotRead _ _ x | .svcUnassigned _ _ x
  | .waite _ _ x | .bar _ _ x | .mode _ _ x | .gap _ _ x | .phase _ _ x | .rdcr _ _ x | .wrcrQstat _ _ x
  | .wrcrHandler _ _ x | .wrcrRngseed _ _ x | .done _ _ x | .abwait _ _ x | .snap _ _ x | .bli _ _ x | .badd _ _ x
  | .bmad _ _ x | .bmov _ _ x | .ldq _ _ x | .stq _ _ x | .atom _ _ x | .fence _ _ x | .fencesc _ _ x | .zflag _ _ x
  | .bankgate _ _ x | .pginv _ _ x | .pgprobe _ _ x | .abinit _ _ x | .abexp _ _ x | .abarv _ _ x | .mtab _ _ x
  | .mzero _ _ x | .mdrain _ _ x | .mrec _ _ x | .mreplay _ _ x | .vadd _ _ x | .vsub _ _ x | .vmul _ _ x
  | .vfma _ _ x | .vmin _ _ x | .vmax _ _ x | .vabs _ _ x | .vneg _ _ x | .vcmp _ _ x | .vsel _ _ x | .vand _ _ x
  | .vor _ _ x | .vxor _ _ x | .vnot _ _ x | .vshl _ _ x | .vshr _ _ x | .vrnd _ _ x | .vscalb _ _ x | .vgexp _ _ x
  | .vgman _ _ x | .vcvt _ _ x | .vcvp _ _ x | .vqnt _ _ x | .vdqnt _ _ x | .vred _ _ x | .vscan _ _ x | .vcoal _ _ x
  | .vlen _ _ x | .vsplat _ _ x | .vcat _ _ x | .vslice _ _ x | .vext _ _ x | .vins _ _ x | .vpop _ _ x
  | .vpush _ _ x | .vrda _ _ x | .vwra _ _ x | .vmov _ _ x | .vcnt _ _ x | .viota _ _ x | .xgath _ _ x | .xscat _ _ x
  | .xscadd _ _ x | .xbag _ _ x | .gseed _ _ x | .gshort _ _ x | .gslow _ _ x | .gsamp _ _ x | .gacpt _ _ x
  | .gdraft _ _ x | .gstage _ _ x | .gcomp _ _ x
  | .copy _ _ x | .copyd _ _ x | .coll _ _ x | .glsend _ _ x | .mrun _ _ x | .mrunb _ _ x | .mlowr _ _ x
  | .mjoin _ _ x | .mfire _ _ x | .mage _ _ x | .mplace _ _ x | .gmask _ _ x | .gbudg _ _ x => x
  | .boot | .thermalWarning _ | .thermalShutdown | .admission _ | .revoke _ | .opkey _ | .image _ | .floor _ | .load _
  | .launch _ | .launchQueueEntry _ | .unload _ | .quote _ | .cert _ | .grammar _ | .context _ | .drop _
  | .unsupportedPacket | .furrowDispatch _ | .overlaySwap _ | .splitWord _ | .resultLanding _
  | .phaseMarkerEffect _ _ | .roundBoundary | .risingPlanInstall _ | .millKstep _ | .nestLanding _ | .nestBreach _
  | .copyQueueStart _ | .collGenerationForm _ _ | .blockDecode _ | .genQueueStart _ | .indexQueueStart _
  | .commandCompletion _ _ | .walkComplete _ _ | .ownerAccessComplete _ _ | .heldWriteGrant _ | .holdTimeout _
  | .silluFaultService _ | .eccCorrectable _ | .eccFreezeEnd _ | .sramUncorrectable _ _ | .preempt _ | .restore _ _
  | .budgetExpiry _ | .maskDeadline _ | .maskDelivery _ | .svcServiceDone _ | .bellRing _ | .bankWakeEnd _ _
  | .unassignedOpcode _ | .bankPowerOff _ _ | .vpushTransfer _ | .stqEntryPop _ | .zeroingComplete _ | .junctionTemperatureFall => .none

/-- The words of an instruction in fetch order, extension words first (R56); empty for the device's events. -/
def encode (i : Instr) : List Word32 :=
  match i.word with
  | some w => i.ext.words ++ [w]
  | none => []

/-- The bytes of an instruction as instruction memory holds them (R3). -/
def encodeBytes (i : Instr) : List Byte := (encode i).flatMap bytesOfWord

/-- The low nbits bits of w as bytes, the least significant first (R3). -/
def tableBytes (nbits w : Nat) : List Byte :=
  (List.range (nbits / 8)).map fun k => BitVec.ofNat 8 (w / 2 ^ (8 * k))

/-- The instruction the decoder reads from the bits w of an opcode-table row, laid out as the hardware stores them. -/
def decodeTableWord (nbits w : Nat) : Option Instr :=
  match decodeBytes (tableBytes nbits w) with
  | .ok (i, _) => some i
  | .error _ => none

end Sys2Proof
end

