-- ==== Sys2Proof/Config.lean ====
section
/-! DEFINITION. What an implementation fixes and the spec leaves open: the codecs' output lengths, keys that manufacture
fixes, free values. Each is a constant without a body, so no proof can lean on a value. -/

namespace Sys2Proof.Config

/-- The output length in bytes of the Granary's fast codec for a page of 8 KiB (R192): the spec gives no codec. -/
opaque fastLen : List Byte → Nat

/-- The output length in bytes of the Granary's slow codec for a page (R195). -/
opaque slowLen : List Byte → Nat

/-- A time in cycles that the spec leaves open, one for each number of the model's own counter (R271: latencies of copies and walks; R267: the
real time of an event). -/
opaque freeCycles : Nat → Nat

/-- The token of a GSAMP whose candidate list is empty (R247 states none): a free value of the model's own counter. -/
opaque freeToken : Nat → BitVec 18

/-- The fused value that the device identity key is derived from, and the info string of its derivation (R262). -/
opaque fusedValue : List Byte × List Byte

/-- Norud's signature over the identity key, made at manufacture (R262). -/
opaque identityCert : BitVec 512

/-- Norud's root public key held in the boot ROM (R260). -/
opaque rootKey : BitVec 256

/-- The operator key a module leaves manufacture holding (R268). -/
opaque operatorKey : BitVec 256

end Sys2Proof.Config
end

