-- ==== Sys2Proof/Machine/Mem.lean ====
section
/-! DEFINITION. Memories as lists of (address, byte) pairs in one canonical form: addresses strictly rising, and no entry equal
to the byte 0 that an unlisted address reads as. -/

namespace Sys2Proof.Machine

/-- A byte memory (R3): the listed addresses, every other address holding 0. -/
abbrev Memory := List Host.Cell

/-- The byte an unlisted address reads as (R23 zeroes a croft's memories; for owner memory a DESIGN CHOICE, log 4). -/
def Memory.unlisted : Byte := 0

/-- Entries from an address on: strictly rising addresses and no entry of the unlisted byte. -/
def Memory.wfFrom (lo : Nat) : Memory → Bool
  | [] => true
  | (a, b) :: m => decide (lo ≤ a) && b != Memory.unlisted && Memory.wfFrom (a + 1) m

/-- The canonical form of a memory. -/
def Memory.wf (m : Memory) : Bool := Memory.wfFrom 0 m

/-- Read one byte. -/
def Memory.read (m : Memory) (a : Nat) : Byte :=
  match m with
  | [] => Memory.unlisted
  | (x, b) :: r => if x == a then b else Memory.read r a

/-- Put a cell at the head of a memory, unless it holds the unlisted byte. -/
def Memory.cons (a : Nat) (b : Byte) (m : Memory) : Memory := if b == Memory.unlisted then m else (a, b) :: m

/-- Write one byte, keeping the canonical form. -/
def Memory.write (m : Memory) (a : Nat) (b : Byte) : Memory :=
  match m with
  | [] => Memory.cons a b []
  | (x, y) :: r =>
    if x < a then (x, y) :: Memory.write r a b
    else if x == a then Memory.cons a b r
    else Memory.cons a b ((x, y) :: r)

/-- Read n bytes from an address upward. -/
def Memory.readN (m : Memory) (a : Nat) : Nat → List Byte
  | 0 => []
  | n + 1 => m.read a :: Memory.readN m (a + 1) n

/-- Write bytes from an address upward. -/
def Memory.writeN (m : Memory) (a : Nat) : List Byte → Memory
  | [] => m
  | b :: bs => Memory.writeN (m.write a b) (a + 1) bs

/-- Forget every byte of [a, a + n): it reads as unlisted again. -/
def Memory.clear (m : Memory) (a n : Nat) : Memory := m.filter fun c => c.1 < a || a + n ≤ c.1

/-- The listed cells of [a, a + n). -/
def Memory.slice (m : Memory) (a n : Nat) : Memory := m.filter fun c => a ≤ c.1 && c.1 < a + n

/-- Every byte of [a, a + n) is the unlisted byte. -/
def Memory.blank (m : Memory) (a n : Nat) : Bool := (m.slice a n).isEmpty

/-- The number a list of bytes stands for, least significant first (R3). -/
def leNat (l : List Byte) : Nat := l.foldr (fun b a => b.toNat + 256 * a) 0

/-- n bytes of a number, least significant first (R3). -/
def leBytes (n v : Nat) : List Byte := (List.range n).map fun i => BitVec.ofNat 8 (v / 2 ^ (8 * i))

/-- The little-endian number of n bytes at an address (R3). -/
def Memory.le (m : Memory) (a n : Nat) : Nat := leNat (m.readN a n)

/-- A table of values by number: strictly rising keys, no entry equal to the default. -/
abbrev Table (α : Type) := List (Nat × α)

/-- Look a key up, the default where it is not listed. -/
def Table.get {α : Type} (t : Table α) (d : α) (k : Nat) : α :=
  match t with
  | [] => d
  | (x, v) :: r => if x == k then v else Table.get r d k

/-- Set a key, keeping keys rising and the default unlisted. -/
def Table.set {α : Type} [DecidableEq α] (t : Table α) (d : α) (k : Nat) (v : α) : Table α :=
  match t with
  | [] => if v = d then [] else [(k, v)]
  | (x, y) :: r =>
    if x < k then (x, y) :: Table.set r d k v
    else
      let rest := if x == k then r else (x, y) :: r
      if v = d then rest else (k, v) :: rest

/-- Set a key of a table without a default: the entry stays listed. -/
def Table.put {α : Type} (t : Table α) (k : Nat) (v : α) : Table α :=
  match t with
  | [] => [(k, v)]
  | (x, y) :: r =>
    if x < k then (x, y) :: Table.put r k v else if x == k then (k, v) :: r else (k, v) :: (x, y) :: r

/-- Look a key up in a table without a default. -/
def Table.find {α : Type} (t : Table α) (k : Nat) : Option α :=
  match t with
  | [] => none
  | (x, v) :: r => if x == k then some v else Table.find r k

/-- Remove a key. -/
def Table.del {α : Type} (t : Table α) (k : Nat) : Table α := t.filter fun p => p.1 != k

end Sys2Proof.Machine
end

