-- ==== Sys2Proof/Machine/Num.lean ====
section
/-! DEFINITION. Number formats, rounding and exact accumulation (R96 to R113): every value is an exact dyadic number until the
one rounding the spec names. -/

namespace Sys2Proof.Machine

/-- Sticky flags as a mask in the places of QSTAT (R105). -/
abbrev Flags := BitVec 7
/-- INV (R105). -/
def fINV : Flags := 1
/-- OVF (R105). -/
def fOVF : Flags := 2
/-- SATB (R105). -/
def fSATB : Flags := 4
/-- ZBLK (R105). -/
def fZBLK : Flags := 8
/-- OUTOVF (R105). -/
def fOUTOVF : Flags := 16
/-- WOVF (R105). -/
def fWOVF : Flags := 32
/-- SLOWROW (R105). -/
def fSLOWROW : Flags := 64

/-- An exact value (R96): NaN, an infinity, or (−1)^s · m · 2^e; m = 0 is a zero of sign s. -/
inductive FV where
  | nan
  | inf (s : Bool)
  | num (s : Bool) (m : Nat) (e : Int)
  deriving DecidableEq, Repr

/-- Which special encodings a floating format has (R96). -/
inductive Specials where
  | ieee | e4m3 | none
  deriving DecidableEq, Repr

/-- A floating-point format (R96). -/
structure Fmt where
  eb   : Nat
  fb   : Nat
  bias : Int
  sp   : Specials
  deriving DecidableEq, Repr

/-- FP32 (R96). -/
def fp32 : Fmt := ⟨8, 23, 127, .ieee⟩
/-- FP16 (R96). -/
def fp16 : Fmt := ⟨5, 10, 15, .ieee⟩
/-- BF16 (R96). -/
def bf16 : Fmt := ⟨8, 7, 127, .ieee⟩
/-- FP8 E4M3 (R96). -/
def e4m3 : Fmt := ⟨4, 3, 7, .e4m3⟩
/-- FP8 E5M2 (R96). -/
def e5m2 : Fmt := ⟨5, 2, 15, .ieee⟩
/-- FP4 E2M1 (R96). -/
def fp4 : Fmt := ⟨2, 1, 1, .none⟩

/-- The exact value of an encoding (R96). -/
def Fmt.value (f : Fmt) (v : Nat) : FV :=
  let s := (v / 2 ^ (f.eb + f.fb)) % 2 == 1
  let e := (v / 2 ^ f.fb) % 2 ^ f.eb
  let m := v % 2 ^ f.fb
  if f.sp == .ieee && e == 2 ^ f.eb - 1 then (if m == 0 then .inf s else .nan)
  else if f.sp == .e4m3 && e == 2 ^ f.eb - 1 && m == 2 ^ f.fb - 1 then .nan
  else if e == 0 then .num s m (1 - f.bias - f.fb)
  else .num s (2 ^ f.fb + m) (e - f.bias - f.fb)

/-- The encoding without its sign of the largest finite value (R96). -/
def Fmt.maxCode (f : Fmt) : Nat :=
  match f.sp with
  | .ieee => (2 ^ f.eb - 1) * 2 ^ f.fb - 1
  | .e4m3 => 2 ^ (f.eb + f.fb) - 2
  | .none => 2 ^ (f.eb + f.fb) - 1

/-- The canonical NaN (R97). FP4 has none, and the code given for it is never used. -/
def Fmt.nanCode (f : Fmt) : Nat :=
  match f.sp with
  | .ieee => (2 ^ f.eb - 1) * 2 ^ f.fb + 2 ^ (f.fb - 1)
  | .e4m3 => 2 ^ (f.eb + f.fb) - 1
  | .none => 0

/-- The infinity's encoding without its sign. -/
def Fmt.infCode (f : Fmt) : Nat := (2 ^ f.eb - 1) * 2 ^ f.fb

/-- A code with its sign bit. -/
def Fmt.signed (f : Fmt) (s : Bool) (c : Nat) : Nat := if s then c + 2 ^ (f.eb + f.fb) else c

/-- Rounding modes by code (R103): 0 RNE, 1 RZ, 2 RUP, 3 RDN, 4 RNA. -/
abbrev RMode := Nat

/-- m · 2^−k rounded to an integer in a mode, for a value of sign s (R103). -/
def roundShift (mode : RMode) (s : Bool) (m k : Nat) : Nat :=
  let q := m / 2 ^ k
  let r := m % 2 ^ k
  if r == 0 then q
  else
    let up := match mode with
      | 0 => decide (2 ^ k < 2 * r) || (2 * r == 2 ^ k && q % 2 == 1)
      | 1 => false
      | 2 => !s
      | 3 => s
      | _ => decide (2 ^ k ≤ 2 * r)
    if up then q + 1 else q

/-- m · 2^e as a multiple of 2^q, rounded in a mode. -/
def roundTo (mode : RMode) (s : Bool) (m : Nat) (e q : Int) : Nat :=
  if q ≤ e then m * 2 ^ (e - q).toNat else roundShift mode s m (q - e).toNat

/-- RND(x, INTEGER, mode) of a number (R104). -/
def rndInt (mode : RMode) (s : Bool) (m : Nat) (e : Int) : Int :=
  let n := roundTo mode s m e 0
  if s then -(n : Int) else n

/-- A mode rounds an overflow to the largest finite value rather than past it (R104). RUP of a positive and RDN of a negative
overflow are not named by the table; the model takes them with the nearest modes (DEDUCED, log 7). -/
def towardMax (mode : RMode) (s : Bool) : Bool :=
  match mode with
  | 1 => true
  | 2 => s
  | 3 => !s
  | _ => false

/-- RND(x, F, mode, sat) for a floating format (R104): the code and the flags. -/
def rnd (f : Fmt) (mode : RMode) (sat : Bool) : FV → Nat × Flags
  | .nan => if f.sp == .none then (0, fINV) else (f.nanCode, 0)
  | .inf s =>
    match f.sp with
    | .ieee => (f.signed s f.infCode, 0)
    | .e4m3 => if sat then (f.signed s f.maxCode, fSATB) else (f.nanCode, fINV)
    | .none => (f.signed s f.maxCode, fSATB)
  | .num s m e =>
    if m == 0 then (f.signed s 0, 0)
    else
      let top := e + Nat.log2 m
      let q := (if top < 1 - f.bias then 1 - f.bias else top) - f.fb
      let n := roundTo mode s m e q
      let c := if n < 2 ^ f.fb then (n : Int) else (q + f.fb + f.bias) * 2 ^ f.fb + (n - 2 ^ f.fb)
      if f.maxCode < c.toNat then
        if sat || towardMax mode s || f.sp == .none then (f.signed s f.maxCode, fSATB)
        else if f.sp == .e4m3 then (f.nanCode, fOVF)
        else (f.signed s f.infCode, fOVF)
      else (f.signed s c.toNat, 0)

/-- RNE32 (R104). -/
def rne32 (v : FV) : Nat × Flags := rnd fp32 0 false v

/-- RND into In or Nn of n bits (R104): the code and the flags. -/
def rndTagInt (n : Nat) (isSigned : Bool) (mode : RMode) : FV → Nat × Flags
  | .nan => (0, fINV)
  | .inf s =>
    if isSigned then (if s then 2 ^ n - (2 ^ (n - 1) - 1) else 2 ^ (n - 1) - 1, fINV) else (if s then 0 else 2 ^ n - 1, fINV)
  | .num s m e =>
    let z := rndInt mode s m e
    if isSigned then
      let hi : Int := 2 ^ (n - 1) - 1
      if hi < z then (hi.toNat, fSATB) else if z < -hi then (2 ^ n - hi.toNat, fSATB) else ((z % (2 ^ n : Int)).toNat, 0)
    else if z < 0 then (0, fSATB) else if (2 ^ n : Int) ≤ z then (2 ^ n - 1, fSATB) else (z.toNat, 0)

/-- The floating format of a tag code, none for the others (R63, R96). -/
def tagFmt : Nat → Option Fmt
  | 0 => some fp32 | 1 => some fp16 | 2 => some bf16 | 3 => some e4m3 | 4 => some e5m2 | 5 => some fp4
  | _ => none

/-- A tag names a two's complement integer type (R98). -/
def tagSigned (t : Nat) : Bool := 6 ≤ t && t ≤ 8
/-- A tag names an integer type (R98). -/
def tagInt (t : Nat) : Bool := 6 ≤ t && t ≤ 11

/-- The exact value of an integer. -/
def FV.ofInt (z : Int) : FV := .num (z < 0) z.natAbs 0

/-- The exact value of an element of a tag (R96, R98). -/
def tagValue (t v : Nat) : FV :=
  match tagFmt t with
  | some f => f.value v
  | none => if tagSigned t then .ofInt (signedOf (tagWidth t) v) else .num false (v % 2 ^ tagWidth t) 0

/-- The conversion of a value into a tag (R347): code and flags. -/
def tagRnd (t : Nat) (mode : RMode) (sat : Bool) (v : FV) : Nat × Flags :=
  match tagFmt t with
  | some f => rnd f mode sat v
  | none =>
    if t == 12 then ((match v with | .num _ m _ => if m == 0 then 0 else 1 | _ => 1), 0)
    else rndTagInt (tagWidth t) (tagSigned t) mode v

/-- The product of two exact values (R109): Inf × 0 is NaN, a zero carries the XOR of the signs. -/
def FV.mul : FV → FV → FV
  | .nan, _ | _, .nan => .nan
  | .inf s, .inf s' => .inf (s != s')
  | .inf s, .num s' m _ | .num s' m _, .inf s => if m == 0 then .nan else .inf (s != s')
  | .num s m e, .num s' m' e' => .num (s != s') (m * m') (e + e')

/-- The value with its sign inverted. -/
def FV.neg : FV → FV
  | .nan => .nan
  | .inf s => .inf !s
  | .num s m e => .num (!s) m e

/-- x · 2^k. -/
def FV.scale (k : Int) : FV → FV
  | .num s m e => .num s m (e + k)
  | v => v

/-- n copies of a value, summed exactly. -/
def FV.times (n : Nat) : FV → FV
  | .num s m e => .num s (m * n) e
  | v => v

/-- An exact sum in progress: NaN seen, +Inf seen, −Inf seen, the finite part (mantissa, exponent), and whether every value so
far is −0. -/
structure Sum where
  nan  : Bool := false
  pinf : Bool := false
  ninf : Bool := false
  m    : Int := 0
  e    : Int := 0
  neg0 : Bool := true
  any  : Bool := false
  deriving DecidableEq, Repr

/-- m · 2^e + m' · 2^e', exactly. -/
def addDy (m e m' e' : Int) : Int × Int :=
  if e ≤ e' then (m + m' * 2 ^ (e' - e).toNat, e) else (m * 2 ^ (e - e').toNat + m', e')

/-- Add one value to a sum. -/
def Sum.add (a : Sum) (v : FV) : Sum :=
  match v with
  | .nan => { a with nan := true, neg0 := false, any := true }
  | .inf false => { a with pinf := true, neg0 := false, any := true }
  | .inf true => { a with ninf := true, neg0 := false, any := true }
  | .num s m e =>
    if m == 0 then { a with neg0 := a.neg0 && s, any := true }
    else
      let p := addDy a.m a.e (if s then -(m : Int) else m) e
      { a with m := p.1, e := p.2, neg0 := false, any := true }

/-- The value of a sum under the NaN, infinity and zero rules of EXACT_DOT (R109): −0 only when every summand is −0. -/
def Sum.value (a : Sum) : FV :=
  if a.nan || (a.pinf && a.ninf) then .nan
  else if a.pinf then .inf false
  else if a.ninf then .inf true
  else if a.m == 0 then .num (a.any && a.neg0) 0 0
  else .num (a.m < 0) a.m.natAbs a.e

/-- The exact sum of values (R109). -/
def exactSum (l : List FV) : FV := (l.foldl Sum.add {}).value

/-- x + y, exactly, under the zero rule of R109. -/
def FV.add (x y : FV) : FV := exactSum [x, y]

/-- EXACT_DOT(a, b) (R109). -/
def exactDot (a b : List FV) : FV := exactSum (List.zipWith FV.mul a b)

/-- One step-mode update RNE32(acc + D) of an FP32 element (R109). -/
def accStep (acc : Nat) (d : FV) : Nat × Flags := rne32 (FV.add (fp32.value acc) d)

/-- The order of two non-NaN values, −0 below +0 when `z` is set: x < y. -/
def FV.lt (z : Bool) : FV → FV → Bool
  | .nan, _ | _, .nan => false
  | .inf s, .inf s' => s && !s'
  | .inf s, .num .. => s
  | .num .., .inf s => !s
  | .num s m e, .num s' m' e' =>
    if m == 0 && m' == 0 then z && s && !s'
    else
      let p := addDy (if s then -(m : Int) else m) e (if s' then (m' : Int) else -(m' : Int)) e'
      p.1 < 0

/-- A value is NaN. -/
def FV.isNan : FV → Bool
  | .nan => true
  | _ => false

/-- A value is finite. -/
def FV.isFin : FV → Bool
  | .num .. => true
  | _ => false

/-- A value is a zero. -/
def FV.isZero : FV → Bool
  | .num _ m _ => m == 0
  | _ => false

/-- GETEXP as an FP32 code (R113). -/
def getExp (v : FV) : Nat :=
  match v with
  | .nan => fp32.nanCode
  | .inf _ => fp32.infCode
  | .num _ m e => if m == 0 then fp32.signed true fp32.infCode else (rne32 (.ofInt (e + Nat.log2 m))).1

/-- GETMAN as an FP32 code (R113). -/
def getMan (v : FV) : Nat :=
  match v with
  | .nan => fp32.nanCode
  | .inf s => fp32.signed s 0x3F800000
  | .num s m _ => if m == 0 then fp32.signed s 0 else (rne32 (.num s m (-(Nat.log2 m : Int)))).1

/-- SCALB as an FP32 code with flags (R113). -/
def scalb (mode : RMode) (sat : Bool) (x y : FV) : Nat × Flags :=
  match x, y with
  | .nan, _ | _, .nan => (fp32.nanCode, 0)
  | .inf _, .inf true => (fp32.nanCode, 0)
  | .inf s, _ => (fp32.signed s fp32.infCode, 0)
  | .num s m _, .inf false => if m == 0 then (fp32.nanCode, 0) else (fp32.signed s fp32.infCode, 0)
  | .num s _ _, .inf true => (fp32.signed s 0, 0)
  | .num s m e, .num ys ym ye =>
    -- beyond 2^±2048 every finite nonzero x overflows or rounds below the smallest subnormal, so the clamp changes no result
    let n := rndInt 1 ys ym ye
    rnd fp32 mode sat (.num s m (e + (if 2048 < n then 2048 else if n < -2048 then -2048 else n)))

/-- An element rounded to an integral value of its own format by a mode (R353); no flag. -/
def roundIntegral (f : Fmt) (mode : RMode) (v : FV) : Nat :=
  match v with
  | .nan => f.nanCode
  | .inf s => f.signed s f.infCode
  | .num s m e => (rnd f mode true (.num s (roundTo mode s m e 0) 0)).1

/-! ### Block formats -/

/-- The stored operand formats of R126, by code 0 to 10. -/
inductive OpFmt where
  | flt (f : Fmt) (mx : Bool)
  | mxint (n : Nat)
  deriving DecidableEq, Repr

/-- The format of an AFMT or BFMT code (R126). -/
def opFmt : Nat → OpFmt
  | 0 => .flt fp16 false | 1 => .flt bf16 false | 2 => .flt e4m3 false | 3 => .flt e5m2 false | 4 => .flt fp4 false
  | 5 => .mxint 8 | 6 => .mxint 6 | 7 => .mxint 4
  | 8 => .flt e4m3 true | 9 => .flt e5m2 true | _ => .flt fp4 true

/-- The width in bits of an element of a floating format. -/
def Fmt.width (f : Fmt) : Nat := 1 + f.eb + f.fb

/-- Element bits of an operand format. -/
def OpFmt.ewidth : OpFmt → Nat
  | .flt f _ => f.width
  | .mxint n => n

/-- The format carries a block scale (R100). -/
def OpFmt.scaled : OpFmt → Bool
  | .flt _ mx => mx
  | .mxint _ => true

/-- Bytes of a row or column of 32 elements (R127). -/
def OpFmt.rowBytes (o : OpFmt) : Nat := 4 * o.ewidth + (if o.scaled then 1 else 0)

/-- The family of a format code: false float, true MXINT (R126). -/
def codeIsMxint (c : Nat) : Bool := 5 ≤ c && c ≤ 7

/-- The grade of a format (R106): 5 FP16, 4 BF16 and MXINT8, 3 MXINT6, 2 FP8 and MXINT4, 1 FP4. -/
def OpFmt.grade : OpFmt → Nat
  | .flt f _ => if f == fp16 then 5 else if f == bf16 then 4 else if f == fp4 then 1 else 2
  | .mxint n => if n == 8 then 4 else if n == 6 then 3 else 2

/-- The slice width of a format (R106). -/
def OpFmt.slices (o : OpFmt) : Nat :=
  match o.grade with
  | 5 => 6 | 4 => 4 | 3 => 3 | 2 => 2 | _ => 1

/-- Cycles of a K-step for two slice widths (R108). -/
def cycFor (sA sB : Nat) : Nat :=
  let p := Nat.min 16 (36 / (sA * sB))
  (32 + p - 1) / p

/-- The effective format of an operand at a grade (R107); the grade's FP8 variant is E5M2 when `f8v` is set. -/
def OpFmt.atGrade (o : OpFmt) (g : Nat) (f8v : Bool) : OpFmt :=
  if o.grade ≤ g then o
  else match o with
    | .flt _ mx => .flt (match g with | 5 => fp16 | 4 => bf16 | 1 => fp4 | _ => if f8v then e5m2 else e4m3) mx
    | .mxint _ => .mxint (match g with | 4 => 8 | 3 => 6 | _ => 4)

/-- n-bit element i of a little-endian packed number (R83, R100). -/
def packedElem (w v i : Nat) : Nat := (v / 2 ^ (w * i)) % 2 ^ w

/-- What narrowing does to the fidelity record beside the flags: NANS, OVFI (R107). -/
structure NarrowOut where
  vals  : List FV
  flags : Flags
  nans  : Bool
  ovfi  : Bool
  deriving DecidableEq, Repr

/-- One row or column of 32 elements, read from its packed bytes, narrowed to the effective format, block scale applied
(R100, R107); a block that had a nonzero element and is now all zeros sets ZBLK (R105, R107). -/
def narrowRow (o e : OpFmt) (sat : Bool) (raw : Nat) : NarrowOut :=
  let scale := raw % 256
  let body := if o.scaled then raw / 256 else raw
  let codes := (List.range 32).map (packedElem o.ewidth body)
  match o, e with
  | .flt f mx, .flt f' _ =>
    let k : Int := if mx then (scale : Int) - 127 else 0
    if f == f' then
      ⟨codes.map fun c => (f.value c).scale k, 0, false, false⟩
    else
      let rs := codes.map fun c => (f.value c, rnd f' 0 sat (f.value c))
      let zb := mx && rs.any (fun r => !r.1.isZero) && rs.all (fun r => (f'.value r.2.1).isZero)
      ⟨rs.map fun r => (f'.value r.2.1).scale k,
        rs.foldl (fun a r => a ||| r.2.2) (if zb then fZBLK else 0),
        rs.any fun r => !r.1.isNan && (f'.value r.2.1).isNan,
        rs.any fun r => r.1.isFin && (match f'.value r.2.1 with | .inf _ => true | _ => false)⟩
  | .mxint n, .mxint n' =>
    let k : Int := (scale : Int) - 127
    if n == n' then
      ⟨codes.map fun c => (FV.ofInt (signedOf n c)).scale (k - (n - 2 : Nat)), 0, false, false⟩
    else
      let hi : Int := 2 ^ (n' - 1) - 1
      let rs := codes.map fun c =>
        let z := signedOf n c
        let r := rndInt 0 (z < 0) z.natAbs (-((n : Int) - n'))
        (z, if hi < r then hi else if r < -hi then -hi else r, decide (hi < r) || decide (r < -hi))
      let zb := rs.any (fun r => r.1 != 0) && rs.all (fun r => r.2.1 == 0)
      ⟨rs.map fun r => (FV.ofInt r.2.1).scale (k - (n' - 2 : Nat)),
        (if rs.any (fun r => r.2.2) then fSATB else 0) ||| (if zb then fZBLK else 0), false, false⟩
  | _, _ => ⟨codes.map fun _ => .nan, 0, false, false⟩

/-- A row or column whose block scale is NaN reads as NaN throughout (R99); narrowing its codes still raises R107's flags (DEDUCED, log 97). -/
def readRow (o e : OpFmt) (sat : Bool) (raw : Nat) : NarrowOut :=
  let r := narrowRow o e sat raw
  if o.scaled && raw % 256 == 0xFF then ⟨List.replicate 32 .nan, r.flags, false, false⟩ else r

/-! ### Quantisation -/

/-- The MX formats a quantiser writes, by the tag codes of R354: 3 and 4 MXFP8, 5 MXFP4, 6 to 8 MXINT8, MXINT6, MXINT4. -/
def mxFmt : Nat → OpFmt
  | 3 => .flt e4m3 true | 4 => .flt e5m2 true | 5 => .flt fp4 true | 6 => .mxint 8 | 7 => .mxint 6 | _ => .mxint 4

/-- fmax of a format as m · 2^e (R101). -/
def OpFmt.fmax : OpFmt → Nat × Int
  | .flt f _ => match f.value f.maxCode with | .num _ m e => (m, e) | _ => (1, 0)
  | .mxint n => (2 ^ (n - 1) - 1, -((n : Int) - 2))

/-- ceil(log2((m · 2^e) / (m' · 2^e'))), for m and m' above 0. -/
def ceilLog2Ratio (m : Nat) (e : Int) (m' : Nat) (e' : Int) : Int :=
  let k := (Nat.log2 m : Int) - Nat.log2 m'
  -- the ratio m/m' lies in (2^(k-1), 2^(k+1))
  let le (j : Int) : Bool := if 0 ≤ j then decide (m ≤ m' * 2 ^ j.toNat) else decide (m * 2 ^ (-j).toNat ≤ m')
  let j := if le (k - 1) then k - 1 else if le k then k else k + 1
  j + e - e'

/-- The magnitude of a number as m · 2^e, zero otherwise. -/
def FV.mag : FV → Nat × Int
  | .num _ m e => (m, e)
  | _ => (0, 0)

/-- The larger of two magnitudes. -/
def magMax (a b : Nat × Int) : Nat × Int := if FV.lt false (.num false a.1 a.2) (.num false b.1 b.2) then b else a

/-- A magnitude exceeds a block's range, fmax · 2^(S−127). -/
def OpFmt.beyond (o : OpFmt) (s : Nat) (x : FV) : Bool :=
  FV.lt false (.num false o.fmax.1 (o.fmax.2 + s - 127)) (.num false x.mag.1 x.mag.2)

/-- QUANT_BLOCK (R101): the scale, the 32 element codes and the flags. The Bool beside an element tells that it is an outlier left in its
block for want of room, which sets OUTOVF in place of SATB where it exceeds the block's range (R102; DEDUCED, log 95). A −0 keeps its sign in a
floating element (R97; DEDUCED, log 96). -/
def quantBlock (o : OpFmt) (mode : RMode) (xs : List (FV × Bool)) : Nat × List Nat × Flags :=
  if xs.any fun x => !x.1.isFin then (0xFF, xs.map fun _ => 0, fINV)
  else
    let amax := xs.foldl (fun a x => magMax a x.1.mag) (0, 0)
    let s0 : Int := if amax.1 == 0 then 0 else ceilLog2Ratio amax.1 amax.2 o.fmax.1 o.fmax.2 + 127
    let big := decide (254 < s0)
    let s : Nat := if big then 254 else s0.toNat
    let k : Int := 127 - (s : Int)
    let qs := xs.map fun x =>
      match o with
      | .flt f _ => let r := rnd f mode true (x.1.scale k); (r.1, r.2, x.2, (f.value r.1).isZero)
      | .mxint n =>
        let hi : Int := 2 ^ (n - 1) - 1
        let z := match x.1.scale (k + (n - 2 : Nat)) with | .num s m e => rndInt mode s m e | _ => 0
        let c := if hi < z then hi else if z < -hi then -hi else z
        ((c % (2 ^ n : Int)).toNat, (if c == z then (0 : Flags) else fSATB), x.2, c == 0)
    let fl := qs.foldl (fun a q => a ||| (if q.2.2.1 then 0 else q.2.1)) 0
    let out := xs.any fun x => x.2 && o.beyond s x.1
    let sat := big && xs.any fun x => !x.2 && o.beyond s x.1
    let zb := xs.any (fun x => !x.1.isZero) && qs.all (fun q => q.2.2.2)
    (s, qs.map fun q => q.1,
      fl ||| (if out then fOUTOVF else 0) ||| (if sat then fSATB else 0) ||| (if zb then fZBLK else 0))

/-- The bytes of a block: scale, then the elements packed from bit 0 upward (R100). -/
def blockBytes (o : OpFmt) (s : Nat) (qs : List Nat) : List Nat :=
  let v := qs.foldr (fun q a => a * 2 ^ o.ewidth + q % 2 ^ o.ewidth) 0
  s :: (List.range (4 * o.ewidth)).map fun i => v / 2 ^ (8 * i) % 256

/-! ### Windows -/

/-- A window (R111): the 96-bit integer, unbounded during a nest, and the special state 0 finite, 1 +Inf, 2 −Inf, 3 NaN. -/
structure Win where
  w  : Int := 0
  st : Nat := 0
  deriving DecidableEq, Repr

/-- Combine special states (R111, R112). -/
def joinState (a b : Nat) : Nat :=
  if a == 0 then b else if b == 0 then a else if a == b then a else 3

/-- Add one product to a window under a reference (R111). -/
def Win.add (ref : Int) (a : Win) (x : FV) : Win :=
  match x with
  | .nan => { a with st := 3 }
  | .inf s => { a with st := joinState a.st (if s then 2 else 1) }
  | .num s m e => { a with w := a.w + rndInt 0 s m (e + (64 - ref)) }

/-- The largest window magnitude. -/
def winMax : Int := 2 ^ 95 - 1

/-- Saturate a window at the end of a nest (R111): the window and whether it saturated. -/
def Win.saturate (a : Win) : Win × Bool :=
  if winMax < a.w then ({ a with w := winMax }, true) else if a.w < -winMax then ({ a with w := -winMax }, true) else (a, false)

/-- The exact value of a window under a reference (R111). -/
def Win.value (ref : Int) (a : Win) : FV :=
  match a.st with
  | 0 => .num (a.w < 0) a.w.natAbs (ref - 64)
  | 1 => .inf false
  | 2 => .inf true
  | _ => .nan

/-- JOIN (R112): the FP32 code of the windows, each with its reference, and the flags; an exact zero gives +0. -/
def joinWins (l : List (Int × Win)) : Nat × Flags :=
  let v := exactSum (l.map fun p => p.2.value p.1)
  if v.isZero then (0, 0) else rne32 v

/-! ### EXP2 -/

/-- The lesser of two FP32 codes (R349): NaN wins, −0 below +0. -/
def minF (f : Fmt) (x y : Nat) : Nat :=
  if (f.value x).isNan || (f.value y).isNan then f.nanCode else if FV.lt true (f.value y) (f.value x) then y else x

/-- The greater of two codes of a format (R349). -/
def maxF (f : Fmt) (x y : Nat) : Nat :=
  if (f.value x).isNan || (f.value y).isNan then f.nanCode else if FV.lt true (f.value x) (f.value y) then y else x

/-- x · y + z with one rounding, FP32, RNE (R349). -/
def fma32 (x y z : Nat) : Nat := (rne32 (FV.add (FV.mul (fp32.value x) (fp32.value y)) (fp32.value z))).1

/-- EXP2 of an FP32 code: the words of R115, one after the other. -/
def exp2 (a : Nat) : Nat :=
  let t2 := maxF fp32 (minF fp32 a 0x43200000) 0xC3200000
  let t3 := roundIntegral fp32 0 (fp32.value t2)
  let f := (rne32 (FV.add (fp32.value t2) (fp32.value t3).neg)).1
  let d := fma32 0x39218489 f 0x3AAEC3FF
  let d := fma32 d f 0x3C1D955B
  let d := fma32 d f 0x3D635847
  let d := fma32 d f 0x3E75FDF0
  let d := fma32 d f 0x3F317218
  let d := fma32 d f 0x3F800000
  (scalb 0 false (fp32.value d) (fp32.value t3)).1

end Sys2Proof.Machine
end

