-- ==== Sys2Proof/Machine/Runs.lean ====
section
/-! DEFINITION. Run registers as lists of runs, and what each vector instruction computes from its operands' runs (R84, R154 to
R164, R343 to R362), apart from where operands come from and when results land. -/

namespace Sys2Proof.Machine

/-- One run: a VALUE repeated COUNT times (R154). -/
structure Run where
  value : BitVec 32
  count : Nat
  deriving DecidableEq, Repr

/-- A vector: its element type (a tag code of R63) and its runs in element order (R154). LEN is the sum of the counts. -/
structure VReg where
  tag  : Nat := 0
  runs : List Run := []
  deriving DecidableEq, Repr

/-- The sum of the counts. -/
def runsLen (l : List Run) : Nat := l.foldl (fun n r => n + r.count) 0

/-- LEN (R154). -/
def VReg.len (v : VReg) : Nat := runsLen v.runs

/-- NRUNS (R154). -/
def VReg.nruns (v : VReg) : Nat := v.runs.length

/-- Put a run before merged runs, joining it with an equal first run. -/
def consRun (r : Run) : List Run → List Run
  | [] => if r.count == 0 then [] else [r]
  | q :: qs =>
    if r.count == 0 then q :: qs
    else if r.value == q.value then ⟨q.value, r.count + q.count⟩ :: qs else r :: q :: qs

/-- MERGE (R156): join adjacent runs whose values are equal bit for bit. -/
def mergeRuns (l : List Run) : List Run := l.foldr consRun []

/-- The elements of a run list, one by one. -/
def elems (l : List Run) : List (BitVec 32) := l.flatMap fun r => List.replicate r.count r.value

/-- The runs of an element list, merged. -/
def ofElems (l : List (BitVec 32)) : List Run := mergeRuns (l.map fun v => ⟨v, 1⟩)

/-- The first n elements of a run list. -/
def takeRuns : Nat → List Run → List Run
  | _, [] => []
  | 0, _ => []
  | n, r :: rs => if n ≤ r.count then [⟨r.value, n⟩] else r :: takeRuns (n - r.count) rs

/-- The elements of a run list from index n on. -/
def dropRuns : Nat → List Run → List Run
  | _, [] => []
  | 0, l => l
  | n, r :: rs => if n < r.count then ⟨r.value, r.count - n⟩ :: rs else dropRuns (n - r.count) rs

/-- One run less m elements, at the head of a run list. -/
def advanceRuns (m : Nat) : List Run → List Run
  | [] => []
  | r :: rs => if r.count ≤ m then rs else ⟨r.value, r.count - m⟩ :: rs

/-- The segments between consecutive cuts of several run lists (R156): the value of each list over the segment, and the
segment's length. The first argument bounds the number of segments. -/
def segments : Nat → List (List Run) → List (List (BitVec 32) × Nat)
  | 0, _ => []
  | k + 1, ls =>
    if ls.isEmpty || ls.any (fun l => l.isEmpty) then []
    else
      let hs := ls.filterMap fun l => l.head?
      let m := hs.foldl (fun n r => Nat.min n r.count) (hs.headD ⟨0, 0⟩).count
      (hs.map fun r => r.value, m) :: segments k (ls.map (advanceRuns m))

/-- ALIGN_AND_APPLY up to MERGE (R156): the merged runs and the union of the flags. -/
def alignApply (ls : List (List Run)) (op : List (BitVec 32) → Nat × Flags) : List Run × Flags :=
  let segs := segments (ls.foldl (fun n l => n + l.length) 0) ls
  let rs := segs.map fun s => (op s.1, s.2)
  (mergeRuns (rs.map fun r => ⟨BitVec.ofNat 32 r.1.1, r.2⟩), rs.foldl (fun a r => a ||| r.1.2) 0)

/-- The two faults a vector instruction takes at its landing (R158). -/
inductive VErr where
  | lenmis | runovf
  deriving DecidableEq, Repr

/-- What a vector instruction gives: Vd (and for VQNT the side list written to Vb), with the flags raised. -/
structure VRes where
  vd    : VReg
  side  : Option VReg := none
  flags : Flags := 0
  deriving DecidableEq, Repr

/-- The most runs a destination holds (R156). -/
def runLimit (w : Bool) : Nat := if w then 128 else 64

/-- RUNOVF above the limit, else the result (R156). -/
def fitRuns (w : Bool) (r : VRes) : Except VErr VRes :=
  if runLimit w < r.vd.nruns then .error .runovf else .ok r

/-- A .W pair read as one register (R155): LENMIS where two non-empty members differ in tag or the sum of LENs passes 4096. Where both members have LEN 0
the tag is Vn's (DESIGN CHOICE, log 109). -/
def readPair (x y : VReg) : Except VErr VReg :=
  if x.runs.isEmpty then (if y.runs.isEmpty then .ok x else .ok y)
  else if y.runs.isEmpty then .ok x
  else if x.tag != y.tag || 4096 < x.len + y.len then .error .lenmis
  else .ok ⟨x.tag, x.runs ++ y.runs⟩

/-- The operands agree in LEN and TAG (R158). -/
def agree (vs : List VReg) : Bool :=
  match vs with
  | [] => true
  | v :: rest => rest.all fun u => u.len == v.len && u.tag == v.tag

/-- The tags of the arithmetic instructions (R158): all but MASK. -/
def arithTag (t : Nat) : Bool := t ≤ 11
/-- The floating tags. -/
def floatTag (t : Nat) : Bool := t ≤ 5

/-- Check and apply an element-wise operation (R156, R158). -/
def elementwise (w : Bool) (vs : List VReg) (okTag : Nat → Bool) (rtag : Nat → Nat)
    (op : Nat → List (BitVec 32) → Nat × Flags) : Except VErr VRes :=
  match vs with
  | [] => .error .lenmis
  | v :: _ =>
    if agree vs && vs.all (fun u => okTag u.tag) then
      let r := alignApply (vs.map fun u => u.runs) (op v.tag)
      fitRuns w { vd := ⟨rtag v.tag, r.1⟩, flags := r.2 }
    else .error .lenmis

/-- An exact integer result under the wrap or clamp of R343: modulo 2^n, or clamped to the tag's range with SATB. -/
def intResult (tag : Nat) (sat : Bool) (z : Int) : Nat × Flags :=
  let n := tagWidth tag
  let lo : Int := if tagSigned tag then -(2 ^ (n - 1)) else 0
  let hi : Int := if tagSigned tag then 2 ^ (n - 1) - 1 else 2 ^ n - 1
  if sat && hi < z then ((hi % (2 ^ n : Int)).toNat, fSATB)
  else if sat && z < lo then ((lo % (2 ^ n : Int)).toNat, fSATB)
  else ((z % (2 ^ n : Int)).toNat, 0)

/-- An integer element's value (R98). -/
def tagIntVal (tag v : Nat) : Int := if tagSigned tag then signedOf (tagWidth tag) v else ((v % 2 ^ tagWidth tag : Nat) : Int)

/-- Arithmetic of one element: x · y + z for floats with one rounding and for integers exactly then wrapped (R343, R349). -/
def arithElem (sat : Bool) (fl : List FV → FV) (it : List Int → Int) (tag : Nat) (xs : List (BitVec 32)) : Nat × Flags :=
  match tagFmt tag with
  | some f => rnd f 0 sat (fl (xs.map fun x => f.value x.toNat))
  | none => intResult tag sat (it (xs.map fun x => tagIntVal tag x.toNat))

/-- x + y of the element lists the arithmetic operations take. -/
def addF : List FV → FV
  | [x, y] => x.add y
  | _ => .nan
/-- x − y. -/
def subF : List FV → FV
  | [x, y] => x.add y.neg
  | _ => .nan
/-- x · y. -/
def mulF : List FV → FV
  | [x, y] => x.mul y
  | _ => .nan
/-- x · y + z. -/
def fmaF : List FV → FV
  | [x, y, z] => (x.mul y).add z
  | _ => .nan
/-- Integer x + y. -/
def addI : List Int → Int
  | [x, y] => x + y
  | _ => 0
/-- Integer x − y. -/
def subI : List Int → Int
  | [x, y] => x - y
  | _ => 0
/-- Integer x · y. -/
def mulI : List Int → Int
  | [x, y] => x * y
  | _ => 0
/-- Integer x · y + z. -/
def fmaI : List Int → Int
  | [x, y, z] => x * y + z
  | _ => 0

/-- The lesser or greater element (R349). -/
def minMaxElem (greater : Bool) (tag : Nat) (x y : Nat) : Nat :=
  match tagFmt tag with
  | some f => if greater then maxF f x y else minF f x y
  | none =>
    let less := decide (tagIntVal tag y < tagIntVal tag x)
    if greater then (if less then x else y) else (if less then y else x)

/-- VABS of an element (R343). -/
def absElem (tag x : Nat) : Nat :=
  match tagFmt tag with
  | some f => if (f.value x).isNan then f.nanCode else x % 2 ^ (f.width - 1)
  | none => (intResult tag false (if tagSigned tag then (tagIntVal tag x).natAbs else tagIntVal tag x)).1

/-- VNEG of an element (R349). -/
def negElem (tag x : Nat) : Nat :=
  match tagFmt tag with
  | some f =>
    if (f.value x).isNan then f.nanCode
    else if x < 2 ^ (f.width - 1) then x + 2 ^ (f.width - 1) else x - 2 ^ (f.width - 1)
  | none => (intResult tag false (-(tagIntVal tag x))).1

/-- The condition of VCMP (R344). -/
def cmpElem (cnd tag x y : Nat) : Bool :=
  match tagFmt tag with
  | some f =>
    let a := f.value x
    let b := f.value y
    let un := a.isNan || b.isNan
    let lt := FV.lt false a b
    let gt := FV.lt false b a
    let eq := !un && !lt && !gt
    match cnd with
    | 0 => eq | 1 => !eq | 2 => lt | 3 => lt || eq | 4 => gt | 5 => gt || eq | 6 => un | _ => !un
  | none =>
    let a := tagIntVal tag x
    let b := tagIntVal tag y
    match cnd with
    | 0 => a == b | 1 => a != b | 2 => a < b | 3 => a ≤ b | 4 => b < a | 5 => b ≤ a | 6 => false | _ => true

/-- One of two results by a condition, as a mask bit. -/
def bit (b : Bool) : Nat := if b then 1 else 0

/-- VSHL and VSHR of an element by a count (R351). -/
def shiftElem (right : Bool) (tag x c : Nat) : Nat :=
  let n := tagWidth tag
  let v := tagIntVal tag x
  if right then
    if n ≤ c then (if v < 0 then 2 ^ n - 1 else 0) else ((v / 2 ^ c) % (2 ^ n : Int)).toNat
  else if n ≤ c then 0 else (x * 2 ^ c) % 2 ^ n

/-! ### The operations -/

/-- First element of an operand tuple, as a number. -/
def el (xs : List (BitVec 32)) (i : Nat) : Nat := (xs.getD i 0).toNat

/-- VADD, VSUB, VMUL, VFMA (R343, R349). -/
def vArith (fl : List FV → FV) (it : List Int → Int) (sat w : Bool) (vs : List VReg) : Except VErr VRes :=
  elementwise w vs arithTag id (arithElem sat fl it)

/-- VMIN and VMAX (R349). -/
def vMinMax (greater w : Bool) (vs : List VReg) : Except VErr VRes :=
  elementwise w vs arithTag id fun t xs => (minMaxElem greater t (el xs 0) (el xs 1), 0)

/-- VABS (R343) and VNEG (R349). -/
def vUnary (f : Nat → Nat → Nat) (w : Bool) (v : VReg) : Except VErr VRes :=
  elementwise w [v] arithTag id fun t xs => (f t (el xs 0), 0)

/-- VAND, VOR, VXOR, VNOT (R343, R351), every tag, over the element's bits. -/
def vLogic (f : Nat → Nat → Nat) (w : Bool) (vs : List VReg) : Except VErr VRes :=
  elementwise w vs (fun _ => true) id fun t xs => (f (el xs 0) (el xs 1) % 2 ^ tagWidth t, 0)

/-- VCMP (R344). -/
def vCmp (cnd : Nat) (w : Bool) (vs : List VReg) : Except VErr VRes :=
  elementwise w vs arithTag (fun _ => 12) fun t xs => (bit (cmpElem cnd t (el xs 0) (el xs 1)), 0)

/-- VSEL (R352): x where the mask is 1, y where it is 0. -/
def vSel (w : Bool) (c x y : VReg) : Except VErr VRes :=
  if c.tag == 12 && c.len == x.len && agree [x, y] then
    let r := alignApply [c.runs, x.runs, y.runs] fun xs => (if el xs 0 == 1 then el xs 1 else el xs 2, 0)
    fitRuns w { vd := ⟨x.tag, r.1⟩ }
  else .error .lenmis

/-- VSHL and VSHR by register (R351). -/
def vShift (right w : Bool) (vs : List VReg) : Except VErr VRes :=
  elementwise w vs tagInt id fun t xs => (shiftElem right t (el xs 0) (el xs 1), 0)

/-- VSHL and VSHR by an immediate count (R351). -/
def vShiftImm (right w : Bool) (c : Nat) (v : VReg) : Except VErr VRes :=
  elementwise w [v] tagInt id fun t xs => (shiftElem right t (el xs 0) c, 0)

/-- VRND (R353). -/
def vRnd (mode : RMode) (w : Bool) (v : VReg) : Except VErr VRes :=
  elementwise w [v] floatTag id fun t xs =>
    (match tagFmt t with | some f => roundIntegral f mode (f.value (el xs 0)) | none => 0, 0)

/-- VGEXP and VGMAN (R353). -/
def vComponent (f : FV → Nat) (w : Bool) (v : VReg) : Except VErr VRes :=
  elementwise w [v] (fun t => t == 0) id fun _ xs => (f (fp32.value (el xs 0)), 0)

/-- VSCALB (R353). -/
def vScalb (mode : RMode) (sat w : Bool) (vs : List VReg) : Except VErr VRes :=
  elementwise w vs (fun t => t == 0) id fun _ xs => scalb mode sat (fp32.value (el xs 0)) (fp32.value (el xs 1))

/-- One element converted to a tag (R347). Between equal tags only a NaN changes. -/
def convElem (src dst : Nat) (mode : RMode) (sat : Bool) (x : Nat) : Nat × Flags :=
  if src == dst then
    (match tagFmt src with
      | some f => if (f.value x).isNan then f.nanCode else x
      | none => x, 0)
  else tagRnd dst mode sat (tagValue src x)

/-- VCVT (R347). -/
def vCvt (dst : Nat) (mode : RMode) (sat w : Bool) (v : VReg) : Except VErr VRes :=
  elementwise w [v] (fun _ => true) (fun _ => dst) fun t xs => convElem t dst mode sat (el xs 0)

/-- VCVP (R348): the FP32 sources converted and packed into N32 elements, the first source lowest. -/
def vCvp (dst : Nat) (mode : RMode) (sat : Bool) (vs : List VReg) : Except VErr VRes :=
  elementwise false vs (fun t => t == 0) (fun _ => 11) fun _ xs =>
    let cs := xs.map fun x => convElem 0 dst mode sat x.toNat
    (cs.foldr (fun c a => a * 2 ^ tagWidth dst + c.1) 0, cs.foldl (fun a c => a ||| c.2) 0)

/-- Indexed elements. -/
def indexed {α : Type} (l : List α) : List (Nat × α) := (List.range l.length).zip l

/-- Cut a list into pieces of n, with a bound on their number. -/
def chunks {α : Type} (n : Nat) : Nat → List α → List (List α)
  | 0, _ => []
  | k + 1, l => if l.isEmpty then [] else l.take n :: chunks n k (l.drop n)

/-- VQNT (R355): the block image, with the outliers above θ diverted to the side list (R102). `cap` is LEN(Vb) at issue. -/
def vQnt (mx : Nat) (mode : RMode) (theta : BitVec 32) (cap : Nat) (w : Bool) (v : VReg) : Except VErr VRes :=
  let o := mxFmt mx
  let n := v.len
  if 2 < v.tag || n % 32 != 0 || 4096 < n / 32 * o.rowBytes then .error .lenmis
  else
    let th := fp32.value theta.toNat
    let xs := (elems v.runs).map fun x => tagValue v.tag x.toNat
    let out (x : FV) : Bool :=
      !th.isZero && FV.lt false th (match x with | .nan => .nan | .inf _ => .inf false | .num _ m e => .num false m e)
    let outs := (indexed xs).filter fun p => out p.2
    let div := outs.take (Nat.min cap 64)
    let isDiv (i : Nat) : Bool := div.any fun p => p.1 == i
    let sides := div.map fun p => (p.1, rnd bf16 0 false p.2)
    let marked := (indexed xs).map fun p => if isDiv p.1 then (FV.num false 0 0, false) else (p.2, out p.2)
    let qs := (chunks 32 (n / 32) marked).map (quantBlock o mode)
    let bytes := qs.flatMap fun q => blockBytes o q.1 q.2.1
    let fl := qs.foldl (fun a q => a ||| q.2.2) 0 ||| sides.foldl (fun a s => a ||| s.2.2) 0
    fitRuns w
      { vd := ⟨9, ofElems (bytes.map fun b => BitVec.ofNat 32 b)⟩
        side := if th.isZero then none
          else some ⟨8, ofElems (sides.map fun s => BitVec.ofNat 32 (s.1 * 2 ^ 16 + s.2.1))⟩
        flags := fl }

/-- The number a list of bytes stands for, least significant first (R3). -/
def natOfBytes (l : List Nat) : Nat := l.foldr (fun b a => b + 256 * a) 0

/-- VDQNT (R356). -/
def vDqnt (mx : Nat) (w : Bool) (v : VReg) : Except VErr VRes :=
  let o := mxFmt mx
  if v.tag != 9 || v.len % o.rowBytes != 0 then .error .lenmis
  else
    let bs := (elems v.runs).map fun x => x.toNat
    let vals := (chunks o.rowBytes (v.len / o.rowBytes) bs).flatMap fun b => (readRow o o false (natOfBytes b)).vals
    if 4096 < vals.length then .error .lenmis
    else
      let rs := vals.map rne32
      fitRuns w { vd := ⟨0, ofElems (rs.map fun r => BitVec.ofNat 32 r.1)⟩, flags := rs.foldl (fun a r => a ||| r.2) 0 }

/-- A reduction in progress over elements (R160). -/
structure Red where
  sum  : Sum := {}
  isum : Int := 0
  best : Option Nat := none
  bits : Nat
  deriving DecidableEq, Repr

/-- The start of a reduction: the identity of AND is all ones of the element width. -/
def Red.start (op tag : Nat) : Red := { bits := if op == 3 then 2 ^ tagWidth tag - 1 else 0 }

/-- Take `count` equal elements into a reduction. -/
def Red.take (op tag : Nat) (r : Red) (x count : Nat) : Red :=
  match op with
  | 0 => if floatTag tag then { r with sum := r.sum.add ((tagValue tag x).times count) }
         else { r with isum := r.isum + tagIntVal tag x * count }
  | 1 => { r with best := some (match r.best with | none => minMaxElem false tag x x | some b => minMaxElem false tag b x) }
  | 2 => { r with best := some (match r.best with | none => minMaxElem true tag x x | some b => minMaxElem true tag b x) }
  | 3 => { r with bits := r.bits &&& x }
  | 4 => { r with bits := r.bits ||| x }
  | _ => { r with bits := if count % 2 == 1 then r.bits ^^^ x else r.bits }

/-- The identity of MIN and MAX (R160): +Inf or the largest finite value, the largest integer, and their opposites. -/
def redIdentity (greater : Bool) (tag : Nat) : Nat :=
  match tagFmt tag with
  | some f => f.signed greater (if f.sp == .ieee then f.infCode else f.maxCode)
  | none =>
    if tagSigned tag then (if greater then 2 ^ (tagWidth tag - 1) else 2 ^ (tagWidth tag - 1) - 1)
    else if greater then 0 else 2 ^ tagWidth tag - 1

/-- The tag of a reduction's result (R357): N32 for SUM of a MASK, else the source's. -/
def redTag (op tag : Nat) : Nat := if op == 0 && tag == 12 then 11 else tag

/-- The value of a reduction (R160): code and flags. -/
def Red.value (op tag : Nat) (r : Red) : Nat × Flags :=
  match op with
  | 0 => (match tagFmt tag with
          | some f => rnd f 0 false r.sum.value
          | none => ((r.isum % (2 ^ tagWidth (redTag op tag) : Int)).toNat, 0))
  | 1 => (r.best.getD (redIdentity false tag), 0)
  | 2 => (r.best.getD (redIdentity true tag), 0)
  | _ => (r.bits, 0)

/-- The operation takes the tag: AND, OR and XOR only integers and MASK (R160). -/
def redTagOk (op tag : Nat) : Bool := op ≤ 2 || 6 ≤ tag

/-- VRED (R160, R357). -/
def vRed (op : Nat) (v : VReg) : Except VErr VRes :=
  if redTagOk op v.tag then
    let r := (v.runs.foldl (fun a x => Red.take op v.tag a x.value.toNat x.count) (Red.start op v.tag)).value op v.tag
    .ok { vd := ⟨redTag op v.tag, [⟨BitVec.ofNat 32 r.1, 1⟩]⟩, flags := r.2 }
  else .error .lenmis

/-- Running values of a reduction over elements, with the flags so far. -/
def scanElems (op tag : Nat) : Red → List (BitVec 32) → List (Nat × Flags)
  | _, [] => []
  | r, x :: xs => let r' := Red.take op tag r x.toNat 1; r'.value op tag :: scanElems op tag r' xs

/-- VSCAN (R160, R357), inclusive. -/
def vScan (op : Nat) (w : Bool) (v : VReg) : Except VErr VRes :=
  if redTagOk op v.tag then
    let rs := scanElems op v.tag (Red.start op v.tag) (elems v.runs)
    fitRuns w { vd := ⟨redTag op v.tag, ofElems (rs.map fun r => BitVec.ofNat 32 r.1)⟩, flags := rs.foldl (fun a r => a ||| r.2) 0 }
  else .error .lenmis

/-- VCOAL and VMOV (R157, R358): the source merged. -/
def vMove (v : VReg) : Except VErr VRes := .ok { vd := ⟨v.tag, mergeRuns v.runs⟩ }

/-- VLEN (R358). -/
def vLen (n : Nat) (w : Bool) (v : VReg) : Except VErr VRes :=
  fitRuns w { vd := ⟨v.tag, mergeRuns (if n ≤ v.len then takeRuns n v.runs else v.runs ++ [⟨0, n - v.len⟩])⟩ }

/-- VSPLAT (R358). -/
def vSplat (tag : Nat) (x : BitVec 32) (v : VReg) : Except VErr VRes :=
  .ok { vd := ⟨tag, if v.len == 0 then [] else [⟨x, v.len⟩]⟩ }

/-- VIOTA (R358). -/
def vIota (tag : Nat) (x : BitVec 32) (w : Bool) (v : VReg) : Except VErr VRes :=
  fitRuns w { vd := ⟨tag, ofElems ((List.range v.len).map fun j => BitVec.ofNat 32 ((x.toNat + j) % 2 ^ tagWidth tag))⟩ }

/-- VCAT (R345). -/
def vCat (w : Bool) (x y : VReg) : Except VErr VRes :=
  if x.tag != y.tag || 4096 < x.len + y.len then .error .lenmis
  else fitRuns w { vd := ⟨x.tag, mergeRuns (x.runs ++ y.runs)⟩ }

/-- VSLICE (R358): cut at the ends and not merged. -/
def vSlice (start n : Nat) (w : Bool) (v : VReg) : Except VErr VRes :=
  if v.len < start + n then .error .lenmis else fitRuns w { vd := ⟨v.tag, takeRuns n (dropRuns start v.runs)⟩ }

/-- VEXT (R358). -/
def vExt (i : Nat) (v : VReg) : Except VErr VRes :=
  if v.len ≤ i then .error .lenmis else .ok { vd := ⟨v.tag, takeRuns 1 (dropRuns i v.runs)⟩ }

/-- VINS (R358): runs neither merged nor joined at the cuts. -/
def vIns (i : Nat) (w : Bool) (x y : VReg) : Except VErr VRes :=
  if x.len < i + y.len || x.tag != y.tag then .error .lenmis
  else fitRuns w { vd := ⟨x.tag, takeRuns i x.runs ++ y.runs ++ dropRuns (i + y.len) x.runs⟩ }

/-- VCNT (R346). -/
def vCnt (v : VReg) : Except VErr VRes :=
  .ok { vd := ⟨11, ofElems [BitVec.ofNat 32 v.nruns, BitVec.ofNat 32 v.len]⟩ }

/-! ### Vectors in memory -/

/-- The dense form of a vector as dwords, the last zero-padded (R163). -/
def denseDwords (v : VReg) : List (BitVec 64) :=
  let w := tagWidth v.tag
  (chunks (64 / w) v.len (elems v.runs)).map fun c =>
    BitVec.ofNat 64 (c.foldr (fun x a => a * 2 ^ w + x.toNat % 2 ^ w) 0)

/-- The run-packed header of a vector (R84). -/
def packedHeader (v : VReg) : BitVec 64 := BitVec.ofNat 64 (v.nruns * 2 ^ 24 + v.tag * 2 ^ 16 + v.len)

/-- The pair dword of a run (R84). -/
def packedPair (r : Run) : BitVec 64 := BitVec.ofNat 64 ((r.count - 1) * 2 ^ 32 + r.value.toNat)

/-- The run-packed form of a vector (R84, R163). -/
def packedDwords (v : VReg) : List (BitVec 64) := packedHeader v :: v.runs.map packedPair

/-- A dense read's elements from its bytes (R161): packed from bit 0 upward, merged. -/
def denseRead (tag len : Nat) (bytes : List Nat) : VReg :=
  let w := tagWidth tag
  let es :=
    if w < 8 then (bytes.flatMap fun b => (List.range (8 / w)).map fun i => packedElem w b i).take len
    else (chunks (w / 8) len bytes).map natOfBytes
  ⟨tag, ofElems (es.map fun e => BitVec.ofNat 32 e)⟩

/-- NPAIRS of a header (R84). -/
def hdrPairs (h : BitVec 64) : Nat := bitsOf h 31 24
/-- LEN of a header (R84). -/
def hdrLen (h : BitVec 64) : Nat := bitsOf h 12 0
/-- TAG of a header (R84). -/
def hdrTag (h : BitVec 64) : Nat := bitsOf h 19 16

/-- A header keeps the header fields of R84: reserved fields 0, NPAIRS at most 128, NPAIRS and LEN zero together. -/
def hdrOk (h : BitVec 64) : Bool :=
  bitsOf h 63 32 == 0 && bitsOf h 23 20 == 0 && bitsOf h 15 13 == 0 && hdrPairs h ≤ 128 && (hdrPairs h == 0) == (hdrLen h == 0)

/-- A header keeps all of R84: its reserved fields and counts, a TAG that R63 has and a LEN of at most 4096 (DEDUCED, log 27). -/
def headerOk (h : BitVec 64) : Bool := hdrOk h && hdrTag h ≤ 12 && hdrLen h ≤ 4096

/-- A run-packed vector keeps the layout of R84 in every way R371 lists, its tag apart. LEN is at most 4096. -/
def packedLayout (h : BitVec 64) (pairs : List (BitVec 64)) : Bool :=
  hdrOk h && hdrLen h ≤ 4096
    && pairs.all (fun p => bitsOf p 63 44 == 0 && (12 < hdrTag h || bitsOf p 31 0 < 2 ^ tagWidth (hdrTag h)))
    && pairs.foldl (fun n p => n + bitsOf p 43 32 + 1) 0 == hdrLen h

/-- A run-packed vector keeps the layout of R84 in every way R371 lists, and TAG is a code of R63. -/
def packedOk (h : BitVec 64) (pairs : List (BitVec 64)) : Bool := packedLayout h pairs && hdrTag h ≤ 12

/-- The vector of a header and its pairs. -/
def packedVector (h : BitVec 64) (pairs : List (BitVec 64)) : VReg :=
  ⟨hdrTag h, pairs.map fun p => ⟨BitVec.ofNat 32 (bitsOf p 31 0), bitsOf p 43 32 + 1⟩⟩

end Sys2Proof.Machine
end

