-- ==== Sys2Proof/Machine/State.lean ====
section
/-! DEFINITION. The state of a ZK1640 module as plain data: every croft with its registers, queues, memories, commands and traps,
the module's owners, granary and boot state, and the model's own schedule; the reasons to stop; the state after reset. -/

namespace Sys2Proof.Machine

/-! ### Codes -/

/-- FIXED or SCORE (R42). -/
inductive Mode where
  | fixed | score
  deriving DecidableEq, Repr

/-- The faults and records of R225. -/
inductive FCode where
  | illop | illext | runovf | lenmis | bankclash | hedge | schedclash | abovf | decodesum | budget | align | bounds | trap
  | transnp | transperm | outofspace | poison | eccfreeze | masklate | breach
  deriving DecidableEq, Repr

/-- The code of a fault or record (R225). -/
def FCode.code : FCode → Nat
  | .illop => 0x01 | .illext => 0x02 | .runovf => 0x03 | .lenmis => 0x04 | .bankclash => 0x05 | .hedge => 0x06
  | .schedclash => 0x07 | .abovf => 0x08 | .decodesum => 0x09 | .budget => 0x0A | .align => 0x0B | .bounds => 0x0C
  | .trap => 0x0D | .transnp => 0x20 | .transperm => 0x21 | .outofspace => 0x22 | .poison => 0x40 | .eccfreeze => 0x41
  | .masklate => 0x42 | .breach => 0x43

/-- The three spaces of an address (R61). -/
inductive Space where
  | owner | sp | acm
  deriving DecidableEq, Repr

/-! ### Pieces of a croft -/

/-- One entry of a queue that A fills in program order (R220): reserved until its access has performed. -/
structure Slot (α : Type) where
  id  : Nat
  val : Option α := none
  deriving DecidableEq, Repr

/-- A byte range of scratchpad: base and length. -/
structure Rng where
  base : Nat
  len  : Nat
  deriving DecidableEq, Repr

/-- An engine's open phase (R48): its read ranges and its write ranges. -/
structure Phase where
  reads  : List Rng := []
  writes : List Rng := []
  deriving DecidableEq, Repr

/-- What stands in an engine queue: an instruction (with operands it has popped and keeps for a retry, R221, R339), a word that
faults when it reaches the head (R55 to R57, R59), or a phase marker, latched once its PHASE has issued (R48, R333). -/
inductive Item where
  | ins (i : Instr) (kept : List Word64)
  | bad (c : FCode) (addr : Nat)
  | marker (ph : Option Phase)
  deriving DecidableEq, Repr

/-- An entry of an engine queue with its place in the stream and its word index (R226). -/
structure QEntry where
  seq  : Nat
  pc   : Nat
  item : Item
  deriving DecidableEq, Repr

/-- The splitter's position (R35, R56, R258): next word, extension words taken, whether it waits, and the place in the stream of the
word behind which it does. -/
structure Split where
  pc      : Nat := 0
  ext     : Ext := .none
  stopped : Bool := false
  seq     : Nat := 0
  deriving DecidableEq, Repr

/-- The gate of a scratchpad bank (R138): up, waking, going down with its power still on, down. -/
inductive Gate where
  | up | waking | falling | down
  deriving DecidableEq, Repr

/-- A change of a bank's gate that has landed while an earlier one is still under way (R138, R280): the bank, its direction, and the accesses
issued before it landed. -/
structure GateTurn where
  bank : Nat
  up   : Bool
  accs : List Nat
  deriving DecidableEq, Repr

/-- A Mill K-step's kind of nest (R129). -/
inductive NestKind where
  | run (w z : Bool) | runb (isAnd z : Bool) | lowr (rank : Nat)
  deriving DecidableEq, Repr

/-- The kind of the live tile (R123). -/
inductive LiveKind where
  | fp32 | int32 | window
  deriving DecidableEq, Repr

/-- A landing's effect (R44, R74). -/
inductive LandOp where
  | nothing
  | setS (d : Nat) (v : Word64)
  | setB (d : Nat) (v : Word64)
  | pushA (v : Word64)
  | pushS (v : Word64)
  | setCr (k : Nat) (v : Word64)
  | setV (w : Bool) (d : Nat) (b : Nat) (r : VRes)
  | vfault (c : FCode)
  | vpop (d q : Nat) (r : Option VReg)
  | fill (q : Nat) (id : Nat) (v : Word64)
  | fillV (q : Nat) (id : Nat) (v : VReg)
  | fillG (id : Nat) (v : BitVec 512)
  | store (space : Space) (addr : Nat) (bytes : List Byte)
  | atomSp (addr size op : Nat) (c v : Word64) (reply : Option Nat)
  | zflags (block count : Nat) (dirty : List Nat)
  | gates (lo hi : Nat) (up : Bool)
  | abInit (k n : Nat)
  | abExp (k n : Nat)
  | abArv (k n : Nat)
  | shadow (n : Nat) (v : BitVec 58)
  | armReplay (record : Word64)
  | zeroLive (replay : Bool)
  | zeroTile (t : Nat)
  | tile (t : Nat) (rows : List (BitVec 32)) (record : Word64) (flags : Flags)
  | pushR (vs : List Word64)
  | map (addr : Nat) (bytes : List Byte) (replies : List Word64)
  | wrow (t r : Nat) (add : Option Nat) (vals : List (BitVec 32))
  | nest
  deriving DecidableEq, Repr

/-- A fixed-latency result in flight (R44, R231): when it lands, which word issued it, its signal token, its effect, and the
instruction, which is set aside again where its own fault at landing is not the one taken (R224). -/
structure Pending where
  due  : Nat
  seq  : Nat
  pc   : Nat
  eng  : Eng
  sig  : Nat
  op   : LandOp
  ins  : Instr
  deriving DecidableEq, Repr

/-- The live tile (R123, R111, R149): kind, elements and windows by 64·row + column (all zero
where the list is empty), window reference, fidelity record,
graded-step count. -/
structure Live where
  kind : LiveKind := .fp32
  vals : List (BitVec 32) := []
  wins : List Win := []
  tref : Int := 0
  lrec : Word64 := 0
  gi   : Nat := 0
  deriving DecidableEq, Repr

/-- Where a falling plan stands on a croft (R144): installed, armed at a round boundary, its grade changed. -/
inductive PlanSt where
  | installed | armed | changed
  deriving DecidableEq, Repr

/-- A running nest (R125, R147): its operands as read at issue, the live tile it adds into, the step it stands at and what that
step costs still, the rounds begun since issue, and how it lands. -/
structure Nest where
  kind    : NestKind
  live    : Live
  fa      : Nat
  fb      : Nat
  abase   : Nat
  bbase   : Nat
  packed  : Bool
  chain   : List Nat
  table   : List (BitVec 58)
  steps   : Nat
  k       : Nat := 0
  walk    : Nat := 0
  begun   : Bool := false
  grade   : Nat := 0
  cost    : Nat := 0
  len     : Nat
  rounds  : Nat := 0
  closed  : Bool := false
  breach  : Bool := false
  replay  : Bool := false
  flags   : Flags := 0
  deriving DecidableEq, Repr

/-- A barrier object (R168): idle where INIT is 0. -/
structure Barrier where
  ini   : Nat := 0
  pend  : Nat := 0
  phase : Nat := 0
  deriving DecidableEq, Repr

/-- What a copy-path command does (R240). -/
inductive CopyKind where
  | copy (src : Nat) (srcSp : Bool) (dst : Nat) (space : Space) (addw : Bool) (units : Nat)
  | copyd (src : Nat) (dst : Nat) (space : Space) (addw : Bool) (blocks : Nat)
  | coll (base op nf rid cnum parts region n : Nat)
  | glsend (gen ref : Nat) (wbase wstr ks wfmt : Nat) (gbase : Nat) (plc : List Nat) (acts : List VReg)
  deriving DecidableEq, Repr

/-- The ordering of a command's accesses (R203, R213). -/
structure Order where
  cls   : Nat := 0
  sem   : Nat := 0
  scope : Nat := 0
  deriving DecidableEq, Repr

/-- Why an accepted command is stopped at its restart point (R223, R232): a program fault taken, a system fault awaiting Sillu. -/
inductive Halt where
  | no
  | faulted
  | sillu
  deriving DecidableEq, Repr

/-- A weight block whose last decoded bytes have not been written yet: its number in the chain, its address, and the decoded bytes before it
and up to its end (R191). -/
structure BlockMark where
  num   : Nat
  addr  : Nat
  start : Nat
  stop  : Nat
  deriving DecidableEq, Repr

/-- A command of the copy queue with its progress (R240): units or blocks done, bytes written, address and place of a COPYD's next block, its
decoded bytes that fill no unit of 64 yet, and the blocks they come from. -/
structure CopyCmd where
  seq    : Nat
  pc     : Nat
  launch : Nat
  arv    : Nat
  ab     : Option Nat := none
  ord    : Order := {}
  kind   : CopyKind
  done   : Nat := 0
  out    : Nat := 0
  next   : Nat := 0
  pos    : Nat := 0
  tail   : List Byte := []
  marks  : List BlockMark := []
  halt   : Halt := .no
  flags  : Flags := 0
  fin    : Bool := false
  deriving DecidableEq, Repr

/-- An index command (R366, R368): its operation, its 64-byte descriptor as read at issue, its progress, the flags it has raised (R335). -/
structure IndexCmd where
  seq    : Nat
  pc     : Nat
  launch : Nat
  arv    : Nat
  op     : Nat
  desc   : BitVec 512
  done   : Nat := 0
  halt   : Halt := .no
  reply  : Option Word64 := none
  flags  : Flags := 0
  deriving DecidableEq, Repr

/-- A generation command (R242): opcode, slot field, word (R257), block, x0, issue vc, the banks that were down at issue, progress, the block base of
GCOMP's entry, the mask delivered to GMASK, and what its start fixed of its replies. -/
structure GenCmd where
  seq    : Nat
  pc     : Nat
  launch : Nat
  arv    : Nat
  op     : Nat
  k      : Nat
  word   : Nat := 0
  x0     : Nat := 0
  block  : BitVec 512 := 0
  vc     : Nat := 0
  shut   : List Nat := []
  done   : Nat := 0
  base   : Nat := 0
  mask   : Option (List (Bool × Nat)) := none
  halt   : Halt := .no
  fin    : Option (List Word64) := none
  deriving DecidableEq, Repr

/-- The states of a row slot (R242). -/
inductive SlotState where
  | idle | fast | slow | resolved | withheld
  deriving DecidableEq, Repr

/-- A sampled element: index and z, an FP32 code (R245). -/
structure Cand where
  idx : Nat
  z   : Nat
  deriving DecidableEq, Repr

/-- A grammar mask as runs of (bit, count) (R249). -/
abbrev Mask := List (Bool × Nat)

/-- A row slot (R242, R257, R299): state, STEP, token, mask, the mask that its GSHORT took, the block fields of its GSHORT, row sum, sheaf,
candidates. -/
structure RowSlot where
  st    : SlotState := .idle
  step  : Nat := 0
  tokv  : Bool := false
  token : Nat := 0
  mask  : Option Mask := none
  rowMask : Option Mask := none
  lbase : Nat := 0
  v     : Nat := 0
  ks    : Nat := 0
  thr   : Nat := 0
  topp  : Nat := 0
  shb   : Nat := 0
  row   : Nat := 0
  z     : Nat := 0
  s     : Nat := 0
  sm    : Nat := 0
  sheaf : List (Option Cand) := []
  cands : List Cand := []
  deriving DecidableEq, Repr

/-- A drafter stage (R254). -/
structure Stage where
  prop  : Nat := 0
  acc   : Nat := 0
  depth : Nat := 4
  dmin  : Nat := 1
  dmax  : Nat := 8
  deriving DecidableEq, Repr

/-- The staging region and the last acceptance (R253, R255). -/
structure Staging where
  base  : Nat := 0
  cap   : Nat := 0
  esz   : Nat := 0
  fill  : Nat := 0
  last  : Nat := 0
  valid : Bool := false
  deriving DecidableEq, Repr

/-- An armed budget (R251): slot, deadline vc, continuation, STEP, the GBUDG's word. -/
structure Budget where
  slot   : Nat
  due    : Nat
  resume : Nat
  step   : Nat
  pc     : Nat
  seq    : Nat
  deriving DecidableEq, Repr

/-- An STQ taking its entries from QS one by one (R339): where it writes, how many entries it needs, the vc of its next pop. -/
structure StqRun where
  seq    : Nat
  pc     : Nat
  sig    : Nat
  ord    : Order
  ins    : Instr
  addr   : Nat
  space  : Space
  need   : Nat
  packed : Bool
  at_    : Nat
  got    : List Word64 := []
  deriving DecidableEq, Repr

/-- The trap frame (R229, R231): set-aside entries, splitter, resume vc, the landing list counted from it, an STQ
that still takes its entries, the vc from the resume vc to the next packet, and after BUDGET the
word at which fetch restarts (R252); `seq` is the number of the handler's first word in the stream. `drain` holds in SCORE mode until every
result issued before the fault has landed (R223); `auto` where no handler stands and the entry's ERET follows at once (R252). -/
structure Frame where
  queues : Vector (List QEntry) 6
  split  : Split
  resume : Nat
  land   : List Pending
  after  : Option Nat := none
  stq    : Option StqRun := none
  hold   : Nat := 0
  drain  : Bool := false
  auto   : Bool := false
  seq    : Nat := 0
  deriving DecidableEq, Repr

/-- A system fault awaiting Sillu (R225, R232, R372): code, address, walk level, restart point, the stack of OUTOFSPACE, what raised it, and the
address whose walk failed where FAULTADDR names another (a GLSEND's chunk, R372). -/
structure SysFault where
  code  : FCode
  addr  : Nat
  aux   : Nat
  eng   : Eng
  pc    : Nat
  seq   : Nat
  write : Bool
  async : Option Path := none
  entry : Option QEntry := none
  access : Option Nat := none
  missing : Option Nat := none
  deriving DecidableEq, Repr

/-- A level of a field record (R26). -/
structure Level where
  kind  : Nat
  count : Nat
  deriving DecidableEq, Repr

/-- A furrow on a croft (R31, R370): its launch, overlay, levels with their current indices, ARG, whether a temporal point of it
has issued. -/
structure Furrow where
  launch : Nat
  handle : Nat
  levels : List Level
  point  : List Nat
  arg    : Nat
  issued : Bool := false
  bars   : Vector Nat 16 := Vector.replicate 16 0
  barTry : Option Nat := none
  deriving DecidableEq, Repr

/-- The overlay in place (R32, R91): handle, length in words, header fields. -/
structure Overlay where
  handle  : Nat := 0
  len     : Nat := 0
  entry   : Nat := 0
  mode    : Mode := .fixed
  trailer : Nat := 0
  tokens  : Nat := 0
  hedge   : List Word64 := []
  edges   : List (Nat × Nat) := []
  frags   : List (Nat × List Nat) := []
  deriving DecidableEq, Repr

/-- A pending access of A to owner memory (R206, R214): what it is, its ordering, the units it touches at their physical place, and
its signal token. -/
inductive AccKind where
  | ldq (q id : Nat) (form : Payload)
  | stq
  | atom (size op : Nat) (c v : Word64) (reply : Option Nat)
  | probe (id : Nat)
  deriving DecidableEq, Repr

/-- A pending access (R206), stopped where its own fault has gone to Sillu or to the handler (R232). -/
structure Access where
  id     : Nat
  seq    : Nat
  pc     : Nat
  launch : Nat
  kind   : AccKind
  ord    : Order
  va     : Nat
  len    : Nat
  bytes  : List Byte := []
  sig    : Nat
  ins    : Instr
  halt   : Halt := .no
  deriving DecidableEq, Repr

/-- A fence's hold (R210, R296): the mask of its classes, scope, the accesses, scratchpad writes in flight and commands that must have
performed, and its signal token, pushed when they have (R39, R75). -/
structure Fence where
  seq   : Nat
  mask  : Nat
  scope : Nat
  accs  : List Nat
  lands : List Nat := []
  cmds  : List Nat
  sig   : Nat := 0
  deriving DecidableEq, Repr

/-- A cached translation (R187, R189): page number and size code, and the leaf. -/
structure TlbEntry where
  vpage : Nat
  size  : Nat
  leaf  : BitVec 64
  deriving DecidableEq, Repr

/-- An entry of a die hub's walk caches (R189): a level 1 to 3 entry of the page tables, with the address bits above its index. -/
structure HubEntry where
  level : Nat
  pfx   : Nat
  entry : BitVec 64
  deriving DecidableEq, Repr

/-- A walk under way (R189): address, whether for a write, whether it is PGPROBE's, the place in the stream of what it serves. -/
structure Walk where
  va    : Nat
  write : Bool
  probe : Bool
  seq   : Nat
  deriving DecidableEq, Repr

/-- A VPUSH's transfer into QS (R163): the dwords left. -/
structure Transfer where
  left : List Word64
  deriving DecidableEq, Repr

/-- A monitor (R271): minimum, maximum and 32 bins; before its first sample minimum and maximum are 0 (DESIGN CHOICE, log 48). -/
structure Monitor where
  lo   : Nat := 0
  hi   : Nat := 0
  bins : Table Nat := []
  any  : Bool := false
  deriving DecidableEq, Repr

/-- The four monitors kept per croft, in the order of R271 without the Granary's. -/
structure Monitors where
  copy : Monitor := {}
  walk : Monitor := {}
  mill : Monitor := {}
  slow : Monitor := {}
  deriving DecidableEq, Repr

/-- Whose write the Granary holds (R195): a pending access by its id, or a path's front command. -/
inductive Writer where
  | access (id : Nat)
  | command (p : Path)
  deriving DecidableEq, Repr

/-- A write that the Granary holds (R195, R198): whose it is, the stacks that lack sectors, the sectors it has obtained on others, its address,
and the cy at which it was first held. -/
structure Hold where
  who     : Writer
  lacking : List Nat
  got     : List (Nat × Nat) := []
  addr    : Nat
  since   : Nat := 0
  deriving DecidableEq, Repr

/-- Why a croft's clock stands still (R45, R47). -/
structure Freeze where
  ecc   : Bool := false
  sys   : Option SysFault := none
  svc   : Option (Nat × Nat × Word64 × Nat) := none
  held  : Option Hold := none
  deriving DecidableEq, Repr

/-- One croft (R13). -/
structure Croft where
  s        : Vector Word64 32 := Vector.replicate 32 0
  shadow   : Vector Word64 5 := Vector.replicate 5 0
  b        : Vector Word64 16 := Vector.replicate 16 0
  v        : Vector VReg 32 := Vector.replicate 32 {}
  mode     : Mode := .fixed
  vclock   : Nat := 0
  nextVc   : Nat := 0
  atVc     : Nat := 0
  contract : Word64 := 0
  qstat    : Flags := 0
  fcode    : Word64 := 0
  faddr    : Word64 := 0
  fpc      : Word64 := 0
  handler  : Word64 := 0
  landing  : Word64 := 0
  rngseed  : Word64 := 0
  owner    : Option Nat := none
  qc       : List (Slot Word64) := []
  qa       : List Word64 := []
  qs       : List Word64 := []
  qr       : List Word64 := []
  qv       : Vector (List (Slot VReg)) 4 := Vector.replicate 4 []
  qg       : List (Slot (BitVec 512)) := []
  tok      : Vector Nat 36 := Vector.replicate 36 0
  arv      : Vector Nat 6 := Vector.replicate 6 0
  arvRes   : Vector Nat 6 := Vector.replicate 6 0
  sigWait  : Vector (List Nat) 6 := Vector.replicate 6 []
  queues   : Vector (List QEntry) 6 := Vector.replicate 6 []
  split    : Split := {}
  seq      : Nat := 0
  imem     : Memory := []
  overlay  : Overlay := {}
  lands    : List Pending := []
  phases   : Vector Phase 6 := Vector.replicate 6 {}
  sp       : Memory := []
  acm      : Memory := []
  zclear   : Table Bool := []
  gates    : Vector Gate 32 := Vector.replicate 32 .up
  gateAcc  : Vector (List Nat) 32 := Vector.replicate 32 []
  gateq    : List GateTurn := []
  records  : Vector Word64 16 := Vector.replicate 16 0
  mtab     : Vector (BitVec 58) 6 := Vector.replicate 6 0
  active   : Vector (BitVec 58) 6 := Vector.replicate 6 0
  live     : Live := {}
  nest     : Option Nest := none
  armed    : Option Word64 := none
  governs  : Option Word64 := none
  grade    : Nat := 0
  want     : Nat := 0
  share    : Nat := 0
  plan     : Option (Nat × Nat) := none
  planSt   : PlanSt := .installed
  rise     : Option (Nat × Nat) := none
  riseOn   : Bool := false
  slots    : Nat := 0
  slot     : Nat := 0
  stand    : Nat := 0
  used     : Nat := 0
  abs      : Vector Barrier 16 := Vector.replicate 16 {}
  copyq    : List CopyCmd := []
  indexq   : List IndexCmd := []
  genq     : List GenCmd := []
  rows     : Vector RowSlot 16 := Vector.replicate 16 {}
  stages   : Vector Stage 3 := Vector.replicate 3 {}
  staging  : Staging := {}
  budget   : Option Budget := none
  collValid : Vector Bool 16 := Vector.replicate 16 false
  frame    : Option Frame := none
  draining : Option QEntry := none
  freeze   : Freeze := {}
  furrow   : Option Furrow := none
  nextFur  : Option Furrow := none
  lastLaunch : Nat := 0
  reissue  : Bool := false
  preload  : Bool := false
  ended    : Bool := false
  released : Bool := true
  vacated  : Bool := false
  zeroing  : Bool := false
  vpush    : Option Transfer := none
  stq      : Option StqRun := none
  accs     : List Access := []
  fences   : List Fence := []
  tlb      : List TlbEntry := []
  walks    : List Walk := []
  mons     : Monitors := {}
  snapO    : Monitors := {}
  snapS    : Monitors := {}
  shorts   : Nat := 0
  slows    : Nat := 0
  bells    : Nat := 0
  eccs     : Nat := 0
  eccTold  : Option Nat := none
  now      : Nat := 0
  issuePc  : Nat := 0
  issueSeq : Nat := 0
  kept     : List Word64 := []
  waited   : Bool := false
  turn     : Bool := false
  spin     : Nat := 0
  faulted  : Bool := false
  qrLate   : Nat × Nat := (0, 0)
  pressed  : Bool := false
  deriving DecidableEq, Repr

/-! ### The module -/

/-- A record that Sillu delivers (R227): code word, address, croft, owner, pc, vc. -/
structure Record where
  codew : Word64
  addr  : Word64
  croft : Nat
  owner : Nat
  pc    : Nat
  vc    : Nat
  deriving DecidableEq, Repr

/-- What Sillu has sent (R266, R267): a reply with its status and payload, a RECORD, a FIELDDONE, a SERVICE event with code, die, owner and
VC or real cy. -/
inductive Sent where
  | reply (fn : Option Nat) (op status : Nat) (tag : Word64) (payload : List Byte)
  | record (owner : Nat) (r : Record)
  | fieldDone (owner launch : Nat)
  | service (code die owner time : Nat)
  deriving DecidableEq, Repr

/-- A launched field (R25, R370): its record, how many furrows each die has still to get, how many there are in all, and how many
have ended. -/
structure Launch where
  num    : Nat
  owner  : Nat
  handle : Nat
  rank   : Nat
  dies   : Nat
  arg    : Nat
  levels : List Level
  left   : Table Nat := []
  parts  : Nat := 0
  ended  : Nat := 0
  told   : Bool := false
  deriving DecidableEq, Repr

/-- A loaded overlay (R91, R95): the image that a swap writes, and the contract it asks. -/
structure Loaded where
  ov   : Overlay
  code : List Byte
  deriving DecidableEq, Repr

/-- A grammar (R270): vocabulary, start state, and for each state its transitions (FIRST, LAST, NEXT). -/
structure Grammar where
  v      : Nat
  start  : Nat
  states : List (List (Nat × Nat × Nat))
  deriving DecidableEq, Repr

/-- A context (R270): its grammar and state, none once dead. -/
structure Context where
  grammar : Nat
  state   : Option Nat
  deriving DecidableEq, Repr

/-- A mask asked for by SVC 1 and not delivered yet (R250, R270, R341): as runs of allowed and barred tokens. -/
structure MaskReq where
  croft : Nat
  slot  : Nat
  step  : Nat
  mbase : Nat
  mask  : Mask
  deriving DecidableEq, Repr

/-- An owner (R22, R265). -/
structure Owner where
  crofts    : List Nat := []
  space     : Nat := 0
  mapped    : Nat := 0
  res       : Vector Nat 16 := Vector.replicate 16 0
  ftbase    : Nat := 0
  ftlen     : Nat := 0
  signKey   : Option (List Byte) := none
  memKey    : List Byte := []
  root      : Option Nat := none
  contract  : Option Word64 := none
  overlays  : Table Loaded := []
  fields    : List (List Byte × List Byte) := []
  objects   : List (List Byte × List Nat) := []
  queue     : List Nat := []
  held      : List (Nat × Word64) := []
  grammars  : Table Grammar := []
  contexts  : Table Context := []
  masks     : List MaskReq := []
  granLive  : Table Monitor := []
  granSnap  : Table Monitor := []
  granSillu : Table Monitor := []
  deriving DecidableEq, Repr

/-- A stack's granary (R193, R195): pages allocated, pages stored with the slow codec, and pages with the round of their last write,
least recently written first. -/
structure Stack where
  nextPage : Nat := 0
  slow     : List Nat := []
  order    : List (Nat × Nat) := []
  deriving DecidableEq, Repr

/-- A context saved at pre-emption (R235, R237): the owner, the source croft and what it held, and the words of its unissued entries by word index. -/
structure Saved where
  owner  : Nat
  source : Nat
  croft  : Croft
  words  : Table Nat := []
  deriving DecidableEq, Repr

/-- A COLL of a croft in one of the owner's peer packages (R199, R288), as that package registers it with the collective unit: owner and CNUM, the
package's peer index, the croft's number there, OP, NF, whether its RID carries a residual, P and n, its X and its residual. -/
structure PeerColl where
  owner : Nat
  cnum  : Nat
  index : Nat
  croft : Nat
  op    : Nat
  nf    : Nat
  carry : Bool
  parts : Nat
  n     : Nat
  x     : List Nat
  res   : List Nat
  deriving DecidableEq, Repr

/-- A page spilled to a peer package (R195): owner, the addresses that map it with their leaves, its bytes and its poisoned units (R234). -/
structure Spilled where
  owner : Nat
  maps  : List (Nat × BitVec 64)
  bytes : Memory
  bad   : List Nat := []
  deriving DecidableEq, Repr

/-- Boot (R260): before the boot ROM has run, Sillu running, both images refused. -/
inductive Boot where
  | before | running | refused
  deriving DecidableEq, Repr

/-- The state of the module, with the model's own fields: the croft that acts, the cy it acts at, the agenda of events and inputs to
come, and a counter for free values. -/
structure State where
  me       : Nat := 0
  time     : Nat := 0
  crofts   : List (Nat × Croft) := []
  agenda   : List Instr := []
  fresh    : Nat := 0
  boot     : Boot := .before
  power    : Bool := true
  hot      : Bool := false
  flash0   : List Byte := []
  flash1   : List Byte := []
  minVer   : Nat := 0
  opKeys   : List (List Byte) := [leBytes 32 Config.operatorKey.toNat]
  msillu   : List Byte := []
  seqs     : Table Nat := []
  dropped  : Nat := 0
  dropSnap : Nat := 0
  poolLive : Vector Monitor 16 := Vector.replicate 16 {}
  poolSnap : Vector Monitor 16 := Vector.replicate 16 {}
  outSeqs  : Table Nat := []
  round    : Nat := 0
  owners   : Table Owner := []
  launches : List Launch := []
  nextLaunch : Nat := 1
  nextHandle : Nat := 1
  served   : Table Nat := []
  granaries : Vector Stack 16 := Vector.replicate 16 {}
  hbm      : Memory := []
  hbmPoison : List Nat := []
  hamlet   : Table (List TlbEntry) := []
  hub      : Table (List HubEntry) := []
  holds    : List Nat := []
  coll     : List (Nat × Nat × List (Nat × Nat)) := []
  peers    : Table PeerColl := []
  peer     : Nat := 0
  saved    : Table Saved := []
  nextSaved : Nat := 0
  spilled  : List Spilled := []
  sent     : List (Nat × Sent) := []
  told     : List Record := []
  deriving DecidableEq, Repr

/-- A croft after a change of owner and after reset (R23, R40, R122, R136, R154, R242, R254): every field at its default. -/
def Croft.reset : Croft := {}

/-- The module right after reset (R260). -/
def State.reset : State := {}

/-! ### Reasons to stop -/

/-- Why a step may stop with a fault. -/
inductive Fault where
  /-- Raised by `step` and by every event once the hardware has removed power from the whole module at 120 °C (R21). Safe: the
  spec gives the module no behaviour without power. -/
  | noPower
  deriving DecidableEq, Repr

/-- Why a step may be refused. -/
inductive Refusal where
  /-- Raised by the arms of `exec` that have no meaning yet. Safe. -/
  | notModelled (mnemonic : String)
  deriving DecidableEq, Repr

/-- A croft by its number (R6): 64·die + 4·core + croft. -/
def State.croft (s : State) (n : Nat) : Croft := (Table.find s.crofts n).getD Croft.reset

/-- Put a croft's new state in place. -/
def State.setCroft (s : State) (n : Nat) (c : Croft) : State := { s with crofts := Table.put s.crofts n c }

/-- The croft that acts. -/
def State.cur (s : State) : Croft := s.croft s.me

/-- Put the acting croft's new state in place. -/
def State.setCur (s : State) (c : Croft) : State := s.setCroft s.me c

end Sys2Proof.Machine
end

