-- ==== Sys2Proof/Machine/Flags.lean ====
section
/-! DEFINITION. QSTAT (R105): raising flags, writing it, and the code word of a fault (R226). -/

namespace Sys2Proof.Machine

/-- OR flags into QSTAT (R105). -/
def Croft.raise (c : Croft) (f : Flags) : Croft := { c with qstat := c.qstat ||| f }

/-- QSTAT as a 64-bit word: bits [63:7] read 0 (R105). -/
def Croft.qstatWord (c : Croft) : Word64 := c.qstat.setWidth 64

/-- What a WRCR of QSTAT writes: bits [63:7] are ignored (R105, R364). -/
def qstatOf (v : Word64) : Flags := v.setWidth 7

/-- FAULTCODE (R226): AUX in [63:32], NEST [23], ENG [22:20], LAND [19], ASYNC [18], CODE [7:0]. -/
def faultWord (code : FCode) (aux : Nat) (nest : Bool) (e : Eng) (land async : Bool) : Word64 :=
  BitVec.ofNat 64 (aux % 2 ^ 32 * 2 ^ 32 + bit nest * 2 ^ 23 + e.code * 2 ^ 20 + bit land * 2 ^ 19 + bit async * 2 ^ 18 + code.code)

/-- The code word of a record that no engine raised (R227): AUX and CODE, every other field 0. -/
def recordWord (code : FCode) (aux : Nat) : Word64 := BitVec.ofNat 64 (aux % 2 ^ 32 * 2 ^ 32 + code.code)

/-- The flags of the fidelity record that a narrowing raises (R149): SATB in bit 1, ZBLK in bit 0. -/
def recordFlags (f : Flags) (nans ovfi : Bool) : Nat :=
  bit (f &&& fZBLK != 0) + 2 * bit (f &&& fSATB != 0) + 4 * bit ovfi + 8 * bit nans

end Sys2Proof.Machine
end

