-- ==== Sys2Proof/Machine/Ops.lean ====
section
/-! DEFINITION. The named operations over a croft's registers, queues, tokens and landing list, and taking a fault, ending an
issue and returning from a handler, each once. -/

namespace Sys2Proof

/-- The index of an engine in the croft's per-engine tables. -/
def Eng.ix (e : Eng) : Nat := e.code - 1

/-- The depth of an engine's queue in instructions (R35). -/
def Eng.depth : Eng → Nat
  | .C => 16 | .A => 32 | .M => 16 | .V => 32 | .X => 16 | .G => 16

/-- An instruction's engine. -/
def Instr.engC (i : Instr) : Eng := i.eng.getD .C

end Sys2Proof

namespace Sys2Proof.Machine

/-! ### Fixed-size tables -/

/-- Entry i of a table, a default outside it. -/
def vget {α : Type} {n : Nat} (v : Vector α n) (d : α) (i : Nat) : α := v[i]?.getD d

/-- Set entry i of a table; nothing outside it. -/
def vset {α : Type} {n : Nat} (v : Vector α n) (i : Nat) (a : α) : Vector α n := v.setIfInBounds i a

/-! ### Why an instruction does not complete -/

/-- The parts of a fault its raiser knows (R225): code, AUX, FAULTADDR, and the owner addresses of poisoned units that it read before (R234). -/
structure Flt where
  code : FCode
  aux  : Nat := 0
  addr : Nat := 0
  seen : List Nat := []
  deriving DecidableEq, Repr

/-- Why an instruction at the head of its queue does not issue: it waits (R37, R41, R45), its translation misses and a walk starts
(R189), it is a BAR that waits for other participants (R281), it waits while the clock runs on (R294), or waits with its wait token or arrival popped (R363), a program fault (R223), a system fault (R188). -/
inductive Stop where
  | wait
  | walk (w : Walk)
  | bar (k : Nat)
  | tick
  | popped
  | fault (f : Flt)
  | sys (f : SysFault)
  deriving DecidableEq, Repr

/-- A program fault without AUX and FAULTADDR. -/
def Stop.flt (c : FCode) : Stop := .fault { code := c }

/-- A program fault after reads of some poisoned units. -/
def Stop.after (l : List Nat) : Stop → Stop
  | .fault f => .fault { f with seen := l }
  | e => e

/-- Raise a program fault where a condition fails. -/
def need (ok : Bool) (s : Stop) : Except Stop Unit := if ok then .ok () else .error s

/-! ### Engine queues and the splitter -/

/-- An engine's queue (R35). -/
def Croft.queue (c : Croft) (e : Eng) : List QEntry := vget c.queues [] e.ix

/-- Replace an engine's queue. -/
def Croft.setQueue (c : Croft) (e : Eng) (q : List QEntry) : Croft := { c with queues := vset c.queues e.ix q }

/-- A queue entry that counts toward the depth: markers are no instructions (R35, R48; DEDUCED, log 8). -/
def QEntry.counts (q : QEntry) : Bool :=
  match q.item with
  | .marker _ => false
  | _ => true

/-- Every engine queue is empty. -/
def Croft.queuesEmpty (c : Croft) : Bool := Eng.all.all fun e => (c.queue e).isEmpty

/-! ### Tokens and arrivals -/

/-- The index of the token FIFO from X to Y: 6·(X−1) + (Y−1) (R37, R85). -/
def tokIx (x y : Nat) : Nat := 6 * (x - 1) + (y - 1)

/-- Tokens in the FIFO from engine code x to engine code y. -/
def Croft.tokens (c : Croft) (x y : Nat) : Nat := vget c.tok 0 (tokIx x y)

/-- Pop what the wait field names (R54), none where it is empty. -/
def Croft.popWait (c : Croft) (w : Nat) (e : Eng) : Option Croft :=
  if w == 0 then some c
  else if w == 7 then
    let n := vget c.arv 0 e.ix
    if n == 0 then none else some { c with arv := vset c.arv e.ix (n - 1) }
  else
    let n := c.tokens w e.code
    if n == 0 then none else some { c with tok := vset c.tok (tokIx w e.code) (n - 1) }

/-- The pushes of an engine that wait for room, first to wait first (R37). -/
def Croft.waiting (c : Croft) (e : Eng) : List Nat := vget c.sigWait [] e.ix

/-- Push what the signal field names (R54). A push into a full FIFO waits, and the engine issues nothing meanwhile (R37). -/
def Croft.pushSig (c : Croft) (e : Eng) (sig : Nat) : Croft :=
  if sig == 0 then c
  else
    let n := c.tokens e.code sig
    if n < 8 && !(c.waiting e).contains sig then { c with tok := vset c.tok (tokIx e.code sig) (n + 1) }
    else { c with sigWait := vset c.sigWait e.ix (c.waiting e ++ [sig]) }

/-- Make the pushes of an engine that waited and find room now (R37). -/
def Croft.retrySig (c : Croft) (e : Eng) : Croft :=
  (c.waiting e).foldl (fun c sig => c.pushSig e sig) { c with sigWait := vset c.sigWait e.ix [] }

/-- Pop the wait field and make any push that now finds room. -/
def Croft.takeWait (c : Croft) (w : Nat) (e : Eng) : Option Croft :=
  (c.popWait w e).map fun c => Eng.all.foldl Croft.retrySig c

/-- Room for a completion arrival at a target (R39): arrivals held and reserved number fewer than 8. -/
def Croft.arvRoom (c : Croft) (target : Nat) : Bool :=
  target == 0 || vget c.arv 0 (target - 1) + vget c.arvRes 0 (target - 1) < 8

/-- Reserve a completion arrival (R39). -/
def Croft.arvReserve (c : Croft) (target : Nat) : Croft :=
  if target == 0 then c else { c with arvRes := vset c.arvRes (target - 1) (vget c.arvRes 0 (target - 1) + 1) }

/-- Give a reservation back without an arrival (R230). -/
def Croft.arvRelease (c : Croft) (target : Nat) : Croft :=
  if target == 0 then c else { c with arvRes := vset c.arvRes (target - 1) (vget c.arvRes 0 (target - 1) - 1) }

/-- Make a reserved arrival (R39). -/
def Croft.arrive (c : Croft) (target : Nat) : Croft :=
  if target == 0 then c
  else { c.arvRelease target with arv := vset c.arv (target - 1) (vget c.arv 0 (target - 1) + 1) }

/-! ### The landing list -/

/-- A WRCR of QSTAT lands before the other results of its vc, so that their flags are ORed into the value it writes (R105, R364). -/
def Pending.first (p : Pending) : Bool :=
  match p.op with
  | .setCr 3 _ => true
  | _ => false

/-- A landing stands before another: earlier due, or due together and earlier in the stream (R44, R105). -/
def Pending.before (p q : Pending) : Bool :=
  p.due < q.due || (p.due == q.due && (p.first || (!q.first && p.seq ≤ q.seq)))

/-- Put a result into the landing list, in the order in which results land. -/
def insertPending (p : Pending) : List Pending → List Pending
  | [] => [p]
  | q :: qs => if q.before p then q :: insertPending p qs else p :: q :: qs

/-- Issue a fixed-latency result (R44): it lands L vc after issue and then pushes its signal token (R39). -/
def Croft.land (c : Croft) (e : Eng) (i : Instr) (sig lat : Nat) (op : LandOp) : Croft :=
  { c with lands := insertPending ⟨c.vclock + lat, c.issueSeq, c.issuePc, e, sig, op, i⟩ c.lands }

/-- Every result in flight, those that stand in a handler's landing list first (R231). -/
def Croft.inFlight (c : Croft) : List Pending := (match c.frame with | some f => f.land | none => []) ++ c.lands

/-- Pushes into QA in flight (R273). -/
def Croft.pendA (c : Croft) : Nat := (c.inFlight.filter fun p => match p.op with | .pushA _ => true | _ => false).length
/-- Pushes into QS in flight (R273). -/
def Croft.pendS (c : Croft) : Nat := (c.inFlight.filter fun p => match p.op with | .pushS _ => true | _ => false).length
/-- Entries of QR reserved by landings in flight (R174, R323). -/
def Croft.pendR (c : Croft) : Nat :=
  c.inFlight.foldl (fun n p => match p.op with | .pushR vs => n + vs.length | .map _ _ vs => n + vs.length | _ => n) 0
/-- An MPLACE in flight holds all of QR (R174). -/
def Croft.placing (c : Croft) : Bool := c.inFlight.any fun p => match p.op with | .map _ _ (_ :: _) => true | _ => false

/-! ### Fences (R210, R211, R296) -/

/-- A write of A to scratchpad in flight, an ATOM's among them (R278, R339): its first byte and length. -/
def Pending.spWrite (p : Pending) : Option (Nat × Nat) :=
  match p.eng, p.op with
  | .A, .store .sp a bytes => some (a, bytes.length)
  | .A, .atomSp a size _ _ _ _ => some (a, size)
  | _, _ => none

/-- Every STQ that still takes its entries, one that a handler set aside first (R229, R339). -/
def Croft.stqs (c : Croft) : List StqRun := (c.frame.bind fun f => f.stq).toList ++ c.stq.toList

/-- What a fence orders has performed (R210): its accesses, its scratchpad writes, none of which stands among some results in flight or still
takes its entries, and its commands. -/
def Croft.fenceOver (c : Croft) (l : List Pending) (q : List StqRun) (f : Fence) : Bool :=
  f.accs.all (fun id => !c.accs.any fun a => a.id == id) && f.cmds.all (fun n => !c.copyq.any fun k => k.seq == n)
    && f.lands.all fun n => !(l.any fun p => p.seq == n && p.spWrite.isSome) && !q.any fun r => r.seq == n

/-- A fence's hold is over: everything before it that it orders has performed (R210, R296). -/
def Croft.fenceDone (c : Croft) (f : Fence) : Bool := c.fenceOver c.inFlight c.stqs f

/-- Fences whose hold is over go: each finishes, and its signal token is pushed (R39, R75; DEDUCED, log 41). -/
def Croft.pruneFences (c : Croft) : Croft :=
  (c.fences.filter c.fenceDone).foldl (fun c f => c.pushSig .A f.sig) { c with fences := c.fences.filter fun f => !c.fenceDone f }

/-! ### Scalar registers -/

/-- READ(x) of R273: S0 and S30 read 0, S29 pops QR, S31 pops QC. -/
def Croft.readS (c : Croft) (x : Nat) : Except Stop (Word64 × Croft) :=
  if x == 0 || x == 30 then .ok (0, c)
  else if x == 29 then
    match c.qr with
    | [] => .error .wait
    | v :: q => .ok (v, { c with qr := q })
  else if x == 31 then
    match c.qc with
    | ⟨_, some v⟩ :: q => .ok (v, { c with qc := q })
    | _ => .error .wait
  else .ok (vget c.s 0 x, c)

/-- WRITE(d, v) of R273, landing lat vc after issue: S0 and S29 discard, S30 pushes QA and S31 pushes QS where there is room. -/
def Croft.writeS (c : Croft) (i : Instr) (sig lat d : Nat) (v : Word64) : Except Stop Croft :=
  if d == 0 || d == 29 then .ok (c.land .C i sig lat .nothing)
  else if d == 30 then
    if c.qa.length + c.pendA < 16 then .ok (c.land .C i sig lat (.pushA v)) else .error .wait
  else if d == 31 then
    if c.vpush.isNone && c.qs.length + c.pendS < 16 then .ok (c.land .C i sig lat (.pushS v)) else .error .wait
  else .ok (c.land .C i sig lat (.setS d v))

/-- Read a B register; B0 reads 0 (R40). -/
def Croft.readB (c : Croft) (x : Nat) : Word64 := if x == 0 then 0 else vget c.b 0 x

/-- Pop one entry of QA (R41). -/
def Croft.popA (c : Croft) : Except Stop (Word64 × Croft) :=
  match c.qa with
  | [] => .error .wait
  | v :: q => .ok (v, { c with qa := q })

/-! ### Records -/

/-- The function that a message goes out on (R24, R266): an owner's number, 128 for the management function. -/
def Sent.endpoint : Sent → Nat
  | .reply fn _ _ _ _ => fn.getD 128
  | .record o _ => o
  | .fieldDone o _ => o
  | .service .. => 128

/-- A message with the SEQ of its endpoint's outbound direction (R266). -/
def State.stamp (s : State) (m : Sent) : Nat × Sent := (s.outSeqs.get 0 m.endpoint, m)

/-- Sillu sends a message, where it runs (R260, R266). -/
def State.send (s : State) (m : Sent) : State :=
  { s with
    sent := if s.boot == .running then s.sent ++ [s.stamp m] else s.sent
    outSeqs := if s.boot == .running then s.outSeqs.put m.endpoint (s.outSeqs.get 0 m.endpoint + 1) else s.outSeqs }

/-- Sillu, where it runs, receives a record that names the croft and its owner, 0xFF for none (R148, R225, R260). -/
def State.tell (s : State) (r : Record) : State := { s with told := if s.boot == .running then s.told ++ [r] else s.told }

/-- A record concerning croft n goes to Sillu, and to its owner where it has one (R24, R148, R225, R227); Sillu reports it as a SERVICE event with
code, die, owner and VC (R267). -/
def State.record (s : State) (n : Nat) (toOwner : Bool) (codew : Word64) (addr pc : Nat) : State :=
  let c := s.croft n
  let r : Record := ⟨codew, BitVec.ofNat 64 addr, n, c.owner.getD 0xFF, pc, c.vclock⟩
  let s := (s.tell r).send (.service (codew.toNat % 256) (n / 64) r.owner c.vclock)
  match c.owner with
  | some o => if toOwner then s.send (.record o r) else s
  | none => s

/-- The POISON records of units an owner's access met (R234). -/
def State.poisonRecords (s : State) (n : Nat) (l : List Nat) : State :=
  l.foldl (fun s a => s.record n true (recordWord .poison 0) a 0) s

/-! ### Monitors (R271) -/

/-- A sample enters a monitor (R271). -/
def Monitor.sample (m : Monitor) (v : Nat) : Monitor :=
  let b := Nat.min 31 (Nat.log2 (v + 1))
  { lo := if m.any then Nat.min m.lo v else v
    hi := Nat.max m.hi v
    bins := Table.set m.bins 0 b (Nat.min (2 ^ 32 - 1) (m.bins.get 0 b + 1))
    any := true }

/-- k equal samples enter a monitor (R271). -/
def Monitor.sampleN (m : Monitor) (v k : Nat) : Monitor :=
  if k == 0 then m
  else
    let b := Nat.min 31 (Nat.log2 (v + 1))
    let m := m.sample v
    { m with bins := Table.set m.bins 0 b (Nat.min (2 ^ 32 - 1) (m.bins.get 0 b + (k - 1))) }

/-! ### Launches -/

/-- Change one launch. -/
def State.mapLaunch (s : State) (num : Nat) (f : Launch → Launch) : State :=
  { s with launches := s.launches.map fun l => if l.num == num then f l else l }

/-- Commands of a launch still held by a croft (R267). -/
def Croft.holdsLaunch (c : Croft) (num : Nat) : Bool :=
  c.copyq.any (fun k => k.launch == num) || c.indexq.any (fun k => k.launch == num) || c.genq.any (fun k => k.launch == num)

/-- Every croft, and every croft's context saved at pre-emption. -/
def State.contexts (s : State) : List Croft := s.crofts.map (·.2) ++ s.saved.map fun (p : Nat × Saved) => p.2.croft

/-- Send FIELDDONE for every launch whose furrows have all ended and whose commands have all gone (R267). -/
def State.fieldsDone (s : State) : State :=
  let dones := s.launches.filter fun l => !l.told && l.ended == l.parts && !(s.contexts.any fun c => c.holdsLaunch l.num)
  dones.foldl (fun s l => (s.mapLaunch l.num fun l => { l with told := true }).send (.fieldDone l.owner l.num)) s

/-- A furrow of a launch has ended (R281, R267). -/
def State.furrowEnded (s : State) (num : Nat) : State :=
  (s.mapLaunch num fun l => { l with ended := l.ended + 1 }).fieldsDone

/-! ### The clock -/

/-- In SCORE mode the clock of a croft that waits has run on to cy e, unless the croft is frozen (R47). -/
def Croft.catchUp (c : Croft) (e : Nat) : Croft :=
  match c.mode with
  | .fixed => c
  | .score => if c.freeze == {} then { c with vclock := c.vclock + (e - c.now), nextVc := c.nextVc + (e - c.now), now := Nat.max e c.now } else c

/-- The vc up to which results may land: in FIXED mode the vc that the clock has reached, in SCORE mode that of the next cycle (R44). While a
croft drains in FIXED mode, the former counts on in real cy (R322). -/
def Croft.landLimit (c : Croft) : Nat := match c.mode with | .fixed => c.atVc | .score => c.nextVc

/-! ### Bank gates (R138) -/

/-- The gate of a bank. -/
def Croft.gate (c : Croft) (b : Nat) : Gate := vget c.gates .up b

/-- The last change of a bank's gate that has landed takes it up (R138, R280). -/
def Croft.turnUp (c : Croft) (b : Nat) (now : Bool) : Bool :=
  c.gateq.foldl (fun u g => if g.bank == b then g.up else u) now

/-- A bank is up for an access that issues now, or will be (R138). -/
def Croft.gateUp (c : Croft) (b : Nat) : Bool :=
  match c.gate b with
  | .up => true
  | .waking => c.turnUp b true
  | .falling => c.turnUp b false
  | .down => false

/-- The banks that are down or going down (R138). -/
def Croft.shutBanks (c : Croft) : List Nat := (List.range 32).filter fun k => !c.gateUp k

/-! ### Ending an issue -/

/-- Drop the commands and accesses stopped at their own fault (R230): queue entries and reservations are freed, no arrival is made. -/
def Croft.dropStopped (c : Croft) : Croft :=
  let c := (c.copyq.filter fun k => k.halt != .no).foldl (fun c k => c.arvRelease k.arv) c
  let c := (c.indexq.filter fun k => k.halt != .no).foldl (fun c k => c.arvRelease k.arv) c
  let c := (c.genq.filter fun k => k.halt != .no).foldl (fun c k => c.arvRelease k.arv) c
  { c with copyq := c.copyq.filter fun k => k.halt == .no
           indexq := c.indexq.filter fun k => k.halt == .no
           genq := c.genq.filter fun k => k.halt == .no
           accs := c.accs.filter fun a => a.halt == .no }

/-- The operand queue slot that a result in flight fills. -/
def LandOp.slot : LandOp → Option Nat
  | .fill _ id _ => some id
  | .fillV _ id _ => some id
  | .fillG id _ => some id
  | .atomSp _ _ _ _ _ reply => reply
  | _ => none

/-- A queue without the reserved slots that nothing will fill. -/
def backed {α : Type} (ids : List Nat) (q : List (Slot α)) : List (Slot α) := q.filter fun s => s.val.isSome || ids.contains s.id

/-- Reservations of operand queues whose result has been discarded are freed (R230). -/
def Croft.dropSlots (c : Croft) : Croft :=
  let ids := c.inFlight.filterMap (fun p => p.op.slot) ++ c.accs.map (fun a => a.id)
  { c with qc := backed ids c.qc, qg := backed ids c.qg, qv := c.qv.map (backed ids) }

/-- Sillu ends the issue (R230): unissued entries, the landing list and the trap frame are discarded, remaining temporal points are
abandoned, stopped commands are dropped, and the croft is free. A push that still waits for room stays (DEDUCED, log 36). -/
def State.endIssue (s : State) (n : Nat) : State :=
  let c := s.croft n
  let c' := { c.dropStopped with
    queues := Vector.replicate 6 [], lands := [], frame := none, split := { stopped := true }, furrow := none, reissue := false
    preload := false
    freeze := { c.freeze with sys := none, svc := none, held := none }, stq := none, walks := [], budget := none
    nest := none, draining := none, waited := false, ended := true }
  let s := s.setCroft n c'.dropSlots.pruneFences
  match c.furrow with
  | some f => s.furrowEnded f.launch
  | none => s.fieldsDone

/-! ### Taking a fault -/

/-- A fault as it is taken (R223): its parts, the word that raised it, whether at landing or by an accepted command, the entry
that stands again at the head of its queue where the fault retries, and the vc from the fault vc to the next packet, where the clock
stood between packets. -/
structure Raised where
  flt   : Flt
  eng   : Eng
  pc    : Nat
  seq   : Nat
  land  : Bool := false
  async : Bool := false
  retry : Option QEntry := none
  hold  : Nat := 0
  deriving DecidableEq, Repr

/-- HANDLER's EN (R228). -/
def Croft.handlerEn (c : Croft) : Bool := bitOf c.handler 16
/-- HANDLER's ENTRY (R228). -/
def Croft.handlerEntry (c : Croft) : Nat := bitsOf c.handler 15 0
/-- Program faults enter the owner's handler (R229): EN = 1 and ENTRY inside the overlay. -/
def Croft.handlerOk (c : Croft) : Bool := c.handlerEn && c.handlerEntry < c.overlay.len

/-- The queues with an entry put back at the head of its engine's queue. -/
def Croft.putBack (c : Croft) (e : Eng) (q : QEntry) : Croft := c.setQueue e (q :: c.queue e)

/-- S24 to S28 (R229). -/
def Croft.copyShadow (c : Croft) : Vector Word64 5 := #v[vget c.s 0 24, vget c.s 0 25, vget c.s 0 26, vget c.s 0 27, vget c.s 0 28]

/-- The landing list as LANDING reports it (R231): its entries counted and the largest remaining vc, 0 in SCORE mode. -/
def landingWord (mode : Mode) (l : List Pending) : Word64 :=
  match mode with
  | .score => 0
  | .fixed => BitVec.ofNat 64 (Nat.min 65535 (l.foldl (fun n p => Nat.max n p.due) 0) * 2 ^ 16 + Nat.min 255 l.length)

/-- Handler entry (R229, R231) at the vc the clock stands at: the fault registers and the shadow are written, every unissued entry is
set aside with the splitter's position, the landing list is formed, and fetch starts at ENTRY. -/
def Croft.enterHandler (c : Croft) (f : Raised) (after : Option Nat) : Croft :=
  let t := c.vclock
  let resume := if f.flt.code == .trap then t + 1 else t
  let aside := match f.retry with | some q => (c.putBack f.eng q).queues | none => c.queues
  let land := match c.mode with | .fixed => c.lands.map (fun p => { p with due := p.due - resume }) | .score => []
  let stq := c.stq.map fun (q : StqRun) => { q with at_ := q.at_ - resume }
  { c with
    fcode := faultWord f.flt.code f.flt.aux false f.eng f.land f.async
    faddr := BitVec.ofNat 64 f.flt.addr
    fpc := BitVec.ofNat 64 f.pc
    shadow := c.copyShadow
    landing := landingWord c.mode land
    frame := some { queues := aside, split := c.split, resume := resume, land := land, after := after, stq := stq, hold := f.hold
                    drain := c.mode == .score && !c.lands.isEmpty, seq := c.seq }
    queues := Vector.replicate 6 []
    lands := match c.mode with | .fixed => [] | .score => c.lands
    split := { pc := c.handlerEntry }
    stq := none
    furrow := c.furrow.map fun (u : Furrow) => { u with barTry := none }
    nextVc := t + 1
    atVc := t
    waited := false }

/-- A word that ends the issue with its record (R230). -/
def State.faultToSillu (s : State) (n : Nat) (f : Raised) (nest : Bool) : State :=
  (s.record n true (faultWord f.flt.code f.flt.aux nest f.eng f.land f.async) f.flt.addr f.pc).endIssue n

/-- The effect of BUDGET on its slot and the budget itself (R251, R299): WITHHELD with the GBUDG block's STEP, disarmed. -/
def Croft.budgetSlot (c : Croft) (b : Budget) : Croft :=
  { c with rows := vset c.rows b.slot { vget c.rows {} b.slot with st := .withheld, step := b.step }, budget := none }

/-- A halt that ERET lifts (R232). -/
def Halt.unstop (h : Halt) : Halt := if h == .faulted then .no else h

/-- ERET lets the commands and accesses go on that stopped at their own fault (R232). -/
def Croft.unstop (c : Croft) : Croft :=
  { c with
    copyq := c.copyq.map fun (k : CopyCmd) => { k with halt := k.halt.unstop }
    indexq := c.indexq.map fun (k : IndexCmd) => { k with halt := k.halt.unstop }
    genq := c.genq.map fun (k : GenCmd) => { k with halt := k.halt.unstop }
    accs := c.accs.map fun (a : Access) => { a with halt := a.halt.unstop } }

/-- A MODE whose drain a fault cuts short stands again at the head of C's queue (R322). -/
def Croft.undrain (c : Croft) : Croft :=
  match c.draining with
  | none => c
  | some q => { c.putBack .C q with draining := none }

/-- An entry put back behind the n words that the stream had numbered when its handler returned (R232). -/
def QEntry.behind (n : Nat) (q : QEntry) : QEntry := { q with seq := q.seq + n }

/-- Return from a handler (R232, R252): S24 to S28 from the shadow, VCLOCK to the resume vc, set-aside entries, splitter and
landing list back; after BUDGET fetch restarts at RESUME instead. The entries put back issue after the handler's words, and are numbered
behind them, so that numbers keep the program order of an engine (R202). -/
def Croft.leaveHandler (c : Croft) (f : Frame) : Croft :=
  let lands := f.land.map fun p => { p with due := p.due + f.resume }
  let c := { c.unstop with
    s := (List.range 5).foldl (fun v k => vset v (24 + k) (vget c.shadow 0 k)) c.s
    vclock := f.resume
    nextVc := f.resume + f.hold
    atVc := f.resume
    qrLate := (0, 0)
    lands := lands
    stq := f.stq.map fun (q : StqRun) => { q with at_ := q.at_ + f.resume }
    frame := none }
  match f.after with
  | some r => { c with queues := Vector.replicate 6 [], split := { pc := r } }
  | none =>
    { c with
      queues := f.queues.map (fun (l : List QEntry) => l.map (QEntry.behind c.seq))
      split := { f.split with seq := f.split.seq + c.seq }
      seq := c.seq + c.seq }

/-- The ERET that no handler has to execute is due (R252): it follows the entry once every result issued before the fault has landed (R223). -/
def Croft.autoDue (c : Croft) : Bool := match c.frame with | some f => f.auto && (!f.drain || c.lands.isEmpty) | none => false

/-- The croft after that ERET. -/
def Croft.autoEret (c : Croft) : Croft := match c.frame with | some f => c.leaveHandler f | none => c

/-- BUDGET with EN = 0 (R252): the entry and its handler's ERET at once, fetch restarting at RESUME. -/
def Croft.budgetResume (c : Croft) (f : Raised) (resume : Nat) : Croft :=
  let d := c.enterHandler f (some resume)
  let d : Croft := { d with split := { pc := resume, stopped := true }, frame := d.frame.map fun (r : Frame) => { r with auto := true } }
  if d.autoDue then d.autoEret else d

/-- Taking a program fault on croft n (R223, R229, R230, R251). A budget that is armed makes it BUDGET. Inside a handler it is a
nested fault; without a handler Sillu ends the issue. -/
def State.takeFault (s : State) (n : Nat) (f : Raised) : State :=
  let c0 := (s.croft n).undrain
  let isBudget := c0.budget.isSome || f.flt.code == .budget
  let after := c0.budget.map fun b => b.resume
  let f := match c0.budget with | some b => { f with flt := { code := .budget, aux := b.slot } } | none => f
  let c := match c0.budget with | some b => c0.budgetSlot b | none => c0
  let c := { c with faulted := true }
  let s := s.setCroft n c
  if c.frame.isSome then s.faultToSillu n f true
  else if c.handlerOk then s.setCroft n (c.enterHandler f after)
  else if isBudget && !c.handlerEn then s.setCroft n (c.budgetResume f (after.getD 0))
  else s.faultToSillu n f false

/-- A system fault freezes the croft and goes to Sillu (R232). -/
def Croft.awaitSillu (c : Croft) (f : SysFault) : Croft := { c with freeze := { c.freeze with sys := some f } }

/-! ### Issuing -/

/-- How an instruction that issues finishes (R39): at once, with its signal pushed now, or at a landing or later. -/
inductive Fin where
  | now
  | later
  deriving DecidableEq, Repr

/-- The instruction is set aside unissued at the head of its queue, and the croft waits (R37, R45). -/
def State.holdBack (s : State) (e : Eng) (i : Instr) : State :=
  let c := s.cur
  s.setCur { c.putBack e ⟨c.issueSeq, c.issuePc, .ins i c.kept⟩ with waited := true }

/-- Why the croft's clock or a nest of a handler stops an M word (R230): inside a handler no M instruction may touch the live tile
or an ACM tile with a pending landing buffer; `tile` names the tile, 0xFF the live tile. -/
def nestedTile (c : Croft) (i : Instr) : Option Nat :=
  match c.frame with
  | none => none
  | some f =>
    let pend (t : Nat) : Bool := f.land.any fun p => match p.op with | .tile t' _ _ _ => t == t' | _ => false
    let tile (o : MF) : Option Nat := if pend o.t.toNat then some o.t.toNat else none
    match i with
    | .mrun .. | .mrunb .. | .mlowr .. | .mdrain .. | .mjoin .. => some 0xFF
    | .mzero _ o _ => if o.f == 0 then some 0xFF else tile o
    | .mrec _ o _ | .mreplay _ o _ => tile o
    | _ => none

/-- A miss takes one of the croft's eight walk slots, or waits for one (R189). -/
def Croft.startWalk (c : Croft) (w : Walk) : Croft :=
  if c.walks.contains w || 8 ≤ c.walks.length then c else { c with walks := c.walks ++ [w] }

/-- Issue an instruction at the head of its queue on the acting croft: its encoding is checked first (R66), the engine waits for a
push of its own that found no room and for its wait token (R37), then the body runs; a fault is taken, a wait puts the instruction
back, and an instruction that finishes at once pushes its signal (R39). -/
def issue (i : Instr) (t : Tok) (body : State → Except Stop (State × Fin)) (s : State) :
    Host.Outcome State Fault Refusal :=
  let c := s.cur
  let e := i.engC
  let entry : QEntry := ⟨c.issueSeq, c.issuePc, .ins i c.kept⟩
  let raise (f : Flt) (retry : Option QEntry) : State :=
    (s.poisonRecords s.me f.seen).takeFault s.me { flt := f, eng := e, pc := c.issuePc, seq := c.issueSeq, retry := retry }
  if !s.power then .fault .noPower
  else match i.encErr with
  | some .illop => .next (raise { code := .illop } (some entry))
  | some .illext => .next (raise { code := .illext } (some entry))
  | none =>
    if !(c.waiting e).isEmpty then .next (s.holdBack e i)
    else match nestedTile c i with
    | some x => .next (raise { code := .schedclash, aux := x } (some entry))
    | none =>
      match c.takeWait t.wait.toNat e with
      | none => .next (s.holdBack e i)
      | some c1 =>
        match body (s.setCur c1) with
        | .ok (s', .later) => .next s'
        | .ok (s', .now) => .next (s'.setCur (s'.cur.pushSig e t.sig.toNat))
        | .error .wait => .next (s.holdBack e i)
        | .error .tick =>
          let s' := s.holdBack e i
          .next (s'.setCur { s'.cur with waited := false })
        | .error .popped => .next ((s.setCur { c1 with kept := [0] }).holdBack e i)
        | .error (.bar k) =>
          let s' := s.holdBack e i
          .next (s'.setCur { s'.cur with furrow := s'.cur.furrow.map fun (u : Furrow) => { u with barTry := some k } })
        | .error (.walk w) =>
          let s' := s.holdBack e i
          .next (s'.setCur (s'.cur.startWalk w))
        | .error (.fault f) => .next (raise f (if f.code == .trap then none else some entry))
        | .error (.sys f) =>
          let s' := s.holdBack e i
          .next (s'.setCur (s'.cur.awaitSillu { f with entry := some entry }))

/-- Issue an instruction whose body acts on the croft alone and finishes at its landing. -/
def issueC (i : Instr) (t : Tok) (body : Croft → Except Stop Croft) (s : State) : Host.Outcome State Fault Refusal :=
  issue i t (fun s => match body s.cur with | .ok c => .ok (s.setCur c, .later) | .error e => .error e) s

/-- Issue an instruction whose body acts on the croft alone and finishes at once. -/
def issueNow (i : Instr) (t : Tok) (body : Croft → Except Stop Croft) (s : State) : Host.Outcome State Fault Refusal :=
  issue i t (fun s => match body s.cur with | .ok c => .ok (s.setCur c, .now) | .error e => .error e) s

/-- An event of the device: nothing happens without power. -/
def event (f : State → State) (s : State) : Host.Outcome State Fault Refusal :=
  if s.power then .next (f s) else .fault .noPower

/-- An event of one croft, as a change of that croft. -/
def croftEvent (n : Nat) (f : Croft → Croft) (s : State) : Host.Outcome State Fault Refusal :=
  event (fun s => s.setCroft n (f (s.croft n))) s

end Sys2Proof.Machine
end

