-- ==== Sys2Proof/Machine/Operands.lean ====
section
/-! DEFINITION. The operand forms of an instruction word: immediates, effective addresses, vector modifiers, and the registers that
an instruction reads and writes, for the scoreboard. -/

namespace Sys2Proof

/-- A payload sign-extended to 64 bits (R59, R61). -/
def Payload.sext (p : Payload) : Word64 := p.signExtend 64

/-- x0 : x1 as a 58-bit value (R59, R68, R124). -/
def Ext.wide (x : Ext) : BitVec 58 := x.x0 ++ x.x1

/-- The signed immediate of R59 that the extension words hold. -/
def Ext.simm (x : Ext) : Word64 :=
  match x with
  | .none => 0
  | .one x0 => x0.sext
  | .two _ _ => x.wide.signExtend 64

/-- The unsigned value of BLI (R68, R279). -/
def Ext.uimm (x : Ext) : Word64 :=
  match x with
  | .none => 0
  | .one x0 => x0.setWidth 64
  | .two _ _ => x.wide.setWidth 64

/-- The immediate of form CR (R59). -/
def CR.imm (o : CR) (x : Ext) : Word64 := if x.count == 0 then o.b.signExtend 64 else x.simm

/-- The offset of form CB in words (R58, R59). -/
def CB.offset (o : CB) (x : Ext) : Int := if x.count == 0 then o.off.toInt else x.x0.toInt

/-- The third source of a vector word (R63). -/
def Ext.vc (x : Ext) : Nat := fld x.x0 28 24
/-- The tag modifier (R63). -/
def Ext.vtag (x : Ext) : Nat := fld x.x0 23 20
/-- The rounding mode modifier (R63). -/
def Ext.vrnd (x : Ext) : Nat := fld x.x0 19 17
/-- The comparison modifier (R63). -/
def Ext.vcnd (x : Ext) : Nat := fld x.x0 16 14
/-- The saturation modifier (R63). -/
def Ext.vsat (x : Ext) : Bool := fld x.x0 13 13 == 1
/-- The immediate as a number (R63). -/
def Ext.vimm (x : Ext) : Nat := x.imm32.toNat

end Sys2Proof

namespace Sys2Proof.Machine

/-- The space and byte address a B register or EA holds, none where it breaks R61. -/
def splitAddr (w : Word64) : Option (Space × Nat) :=
  match bitsOf w 63 58, bitsOf w 57 56 with
  | 0, 0 => if bitsOf w 55 53 == 0 then some (.owner, bitsOf w 52 0) else none
  | 0, 1 => if bitsOf w 55 21 == 0 then some (.sp, bitsOf w 20 0) else none
  | 0, 2 => if bitsOf w 55 18 == 0 then some (.acm, bitsOf w 17 0) else none
  | _, _ => none

/-- The size in bytes of a space (R61). -/
def Space.size : Space → Nat
  | .owner => 2 ^ 53 | .sp => 2 ^ 21 | .acm => 2 ^ 18

/-- The address register form of a space and byte address (R61). -/
def joinAddr (space : Space) (a : Nat) : Word64 :=
  BitVec.ofNat 64 (a + (match space with | .owner => 0 | .sp => 1 | .acm => 2) * 2 ^ 56)

/-- EA = B[b] + SignExtend(x0) (R61). -/
def Croft.ea (c : Croft) (b : BitVec 4) (x : Ext) : Word64 := c.readB b.toNat + x.x0.sext

/-- BOUNDS on A with the effective address in FAULTADDR (R226). -/
def boundsAt (w : Word64) : Stop := .fault { code := .bounds, addr := w.toNat }

/-- A second operand of form CR (R277): Sb, or the immediate. -/
def Croft.operand2 (c : Croft) (o : CR) (x : Ext) : Except Stop (Word64 × Croft) :=
  if o.i then .ok (o.imm x, c) else c.readS o.b.toNat

/-- A second operand of form AB (R279): the immediate where an extension word is attached, a QA entry where qa = 1, else B[b]. -/
def Croft.operandAB (c : Croft) (o : AB) (x : Ext) : Except Stop (Word64 × Croft) :=
  if x.count != 0 then .ok (x.simm, c) else if o.qa then c.popA else .ok (c.readB o.b.toNat, c)

/-! ### The scoreboard (R46, R259, R276, R316, R335, R364) -/

/-- What the scoreboard holds an instruction for. -/
inductive Res where
  | s (n : Nat)
  | b (n : Nat)
  | v (n : Nat)
  | cr (k : Nat)
  | tile (t : Nat)
  | shadow
  | armed
  | live
  | abs
  | maps
  deriving DecidableEq, Repr

/-- A S field as a register of the scoreboard: S0, S29, S30 and S31 hold no value (R40). -/
def resS (n : Nat) : List Res := if 1 ≤ n && n ≤ 28 then [.s n] else []
/-- A B field as a register of the scoreboard (R40). -/
def resB (n : Nat) : List Res := if n == 0 then [] else [.b n]
/-- A V field, or the pair it names in a .W form (R63). -/
def resV (w : Bool) (n : Nat) : List Res := if w then [.v n, .v (n + 1)] else [.v n]

/-- What a landing writes. -/
def LandOp.writes : LandOp → List Res
  | .setS d _ => [.s d]
  | .setB d _ => [.b d]
  | .setCr k _ => [.cr k]
  | .setV w d b _ => resV w d ++ (if b < 32 then [.v b] else [])
  | .vpop d _ _ => [.v d]
  | .abInit .. | .abExp .. | .abArv .. => [.abs]
  | .shadow .. => [.shadow]
  | .armReplay _ => [.armed]
  | .zeroLive _ => [.live]
  | .zeroTile t => [.tile t]
  | .tile t _ _ _ => [.tile t]
  | .map .. => [.maps]
  | .nest => [.live]
  | .nothing | .pushA _ | .pushS _ | .vfault _ | .fill .. | .fillV .. | .fillG .. | .store .. | .atomSp .. | .zflags ..
  | .gates .. | .pushR _ | .wrow .. => []

/-- A command of A names a barrier object in its command words (R169, R239, R183). -/
def namesBarrier : Instr → Bool
  | .copy _ _ x => fld x.x1 28 28 == 1
  | .copyd _ _ _ => false
  | _ => false

/-- What an instruction reads or writes. -/
def usesOf : Instr → List Res
  | .add _ o _ | .sub _ o _ | .mul _ o _ | .mulh _ o _ | .divn _ o _ | .remn _ o _ | .and _ o _ | .or _ o _ | .xor _ o _
  | .shl _ o _ | .shr _ o _ | .sha _ o _ | .min _ o _ | .max _ o _ | .minn _ o _ | .maxn _ o _ | .slt _ o _ | .sltn _ o _
  | .clz _ o _ | .popc _ o _ | .li _ o _ =>
    resS o.d.toNat ++ resS o.a.toNat ++ (if o.i then [] else resS o.b.toNat)
  | .beq _ o _ | .bne _ o _ | .blt _ o _ | .bge _ o _ | .bltn _ o _ | .bgen _ o _ => resS o.a.toNat ++ resS o.b.toNat
  | .call _ o _ => resS o.a.toNat
  | .ret _ o _ | .jtab _ o _ | .abwait _ o _ | .grammarMaskRequest _ o _ | .monitorSnapshotRead _ o _ | .svcNone _ o _
  | .svcUnassigned _ o _ => resS o.a.toNat
  | .phase _ o _ => (List.range o.k.toNat).flatMap fun j => resS (o.a.toNat + j)
  | .rdcr _ o _ => .cr o.k.toNat :: resS o.d.toNat
  | .wrcrQstat _ o _ | .wrcrHandler _ o _ | .wrcrRngseed _ o _ => .cr o.k.toNat :: resS o.a.toNat
  | .bli _ o _ => resB o.d.toNat
  | .badd _ o x | .bmad _ o x =>
    resB o.d.toNat ++ resB o.a.toNat ++ (if x.count == 0 && !o.qa then resB o.b.toNat else [])
  | .bmov _ o _ => resB o.d.toNat ++ resB o.a.toNat
  | .ldq _ o _ | .stq _ o _ | .atom _ o _ | .copyd _ o _ | .coll _ o _ | .zflag _ o _ | .pginv _ o _
  | .pgprobe _ o _ => resB o.b.toNat
  | .copy t o x => resB o.b.toNat ++ (if namesBarrier (.copy t o x) then [.abs] else [])
  | .abinit .. | .abexp .. | .abarv .. => [.abs]
  | .mtab .. => [.shadow]
  | .mrun .. => [.shadow, .armed, .live]
  | .mrunb .. => [.shadow, .live]
  | .mlowr .. => [.live]
  | .mzero _ o _ => if o.f == 0 then [.live] else [.tile o.t.toNat]
  | .mdrain _ o _ | .mjoin _ o _ => [.tile o.t.toNat, .live]
  | .mrec _ o _ => [.tile o.t.toNat]
  | .mreplay _ o _ => [.tile o.t.toNat, .armed]
  | .mfire .. | .mage .. | .mplace .. => [.maps]
  | .vfma _ o x | .vsel _ o x => resV o.w o.d.toNat ++ resV o.w o.a.toNat ++ resV o.w o.b.toNat ++ resV o.w x.vc
  | .vcvp _ o x => resV false o.d.toNat ++ ((List.range (if tagWidth x.vtag == 8 then 4 else 2)).map fun j => .v (o.a.toNat + j))
  | .vadd _ o _ | .vsub _ o _ | .vmul _ o _ | .vmin _ o _ | .vmax _ o _ | .vcmp _ o _ | .vand _ o _ | .vor _ o _ | .vxor _ o _
  | .vshl _ o _ | .vshr _ o _ | .vscalb _ o _ | .vqnt _ o _ | .vcat _ o _ | .vins _ o _ =>
    resV o.w o.d.toNat ++ resV o.w o.a.toNat ++ resV o.w o.b.toNat
  | .vabs _ o _ | .vneg _ o _ | .vnot _ o _ | .vrnd _ o _ | .vgexp _ o _ | .vgman _ o _ | .vcvt _ o _ | .vdqnt _ o _
  | .vred _ o _ | .vscan _ o _ | .vcoal _ o _ | .vmov _ o _ | .vlen _ o _ | .vsplat _ o _ | .vslice _ o _ | .vext _ o _
  | .vcnt _ o _ | .viota _ o _ => resV o.w o.d.toNat ++ resV o.w o.a.toNat
  | .vpop _ o _ | .vrda _ o _ => resV false o.d.toNat
  | .vpush _ o _ | .vwra _ o _ => resV false o.a.toNat
  | .boot | .thermalWarning _ | .thermalShutdown | .admission _ | .revoke _ | .opkey _ | .image _ | .floor _ | .load _
  | .launch _ | .launchQueueEntry _ | .unload _ | .quote _ | .cert _ | .grammar _ | .context _ | .drop _
  | .unsupportedPacket | .furrowDispatch _ | .overlaySwap _ | .splitWord _ | .resultLanding _
  | .phaseMarkerEffect _ _ | .roundBoundary | .risingPlanInstall _ | .millKstep _ | .nestLanding _ | .nestBreach _
  | .copyQueueStart _ | .collGenerationForm _ _ | .blockDecode _ | .genQueueStart _ | .indexQueueStart _
  | .commandCompletion _ _ | .walkComplete _ _ | .ownerAccessComplete _ _ | .heldWriteGrant _ | .holdTimeout _
  | .silluFaultService _ | .eccCorrectable _ | .eccFreezeEnd _ | .sramUncorrectable _ _ | .preempt _ | .restore _ _
  | .budgetExpiry _ | .maskDeadline _ | .maskDelivery _ | .svcServiceDone _ | .bellRing _ | .bankWakeEnd _ _
  | .bankPowerOff _ _ | .vpushTransfer _ | .stqEntryPop _ | .unassignedOpcode _ | .zeroingComplete _
  | .junctionTemperatureFall => []
  | .jmp .. | .trap .. | .eret .. | .waite .. | .bar .. | .mode .. | .gap .. | .done .. | .snap .. | .glsend .. | .fence ..
  | .fencesc .. | .bankgate .. | .xgath .. | .xscat .. | .xscadd .. | .xbag .. | .gseed .. | .gshort .. | .gslow ..
  | .gsamp .. | .gmask .. | .gbudg .. | .gacpt .. | .gdraft .. | .gstage .. | .gcomp .. => []

end Sys2Proof.Machine
end

