-- ==== Sys2Proof/Machine/Scratch.lean ====
section
/-! DEFINITION. The croft's own memories: scratchpad banks and their gates, the Hayward's checks, zero flags, ACM tiles and the
copies that hold them. -/

namespace Sys2Proof.Machine

/-! ### Banks and gates (R120, R138) -/

/-- The size of the scratchpad in bytes (R61, R120). -/
def spSize : Nat := 2 ^ 21

/-- The bank of a scratchpad byte (R120). -/
def bankOf (a : Nat) : Nat := a / 65536
/-- The bank group of a scratchpad byte (R120). -/
def groupOf (a : Nat) : Nat := a / 524288

/-- A scratchpad access: its first byte, its length, whether it writes. -/
structure SpAcc where
  a : Nat
  n : Nat
  w : Bool
  deriving DecidableEq, Repr

/-- The banks a byte range touches. -/
def banksOf (a n : Nat) : List Nat :=
  if n == 0 then [] else (List.range (bankOf (a + n - 1) + 1 - bankOf a)).map (bankOf a + ·)

/-- An access starts and stays in the scratchpad and touches no bank that is down (R61, R138). -/
def Croft.spReach (c : Croft) (x : SpAcc) : Bool :=
  x.a < spSize && x.a + x.n ≤ spSize && (banksOf x.a x.n).all c.gateUp

/-- BOUNDS for the first access of a list that leaves the scratchpad or touches a bank that is down (R129, R138). -/
def Croft.spBounds (c : Croft) (l : List SpAcc) : Except Stop Unit :=
  match l.find? fun x => !c.spReach x with
  | none => .ok ()
  | some x => .error (.fault { code := .bounds, addr := (joinAddr .sp x.a).toNat })

/-- A bank that comes up has not come up yet: it wakes, or has still to lose its power and then wake (R138). -/
def Croft.gateWaits (c : Croft) (b : Nat) : Bool := c.gateUp b && c.gate b != .up

/-- An access to a waking bank waits until the wake ends (R138, R45). -/
def Croft.spAwake (c : Croft) (l : List SpAcc) : Except Stop Unit :=
  need (l.all fun x => (banksOf x.a x.n).all fun b => !c.gateWaits b) .wait

/-- A bank lets the accesses of an accepted command perform (R138, R280): one that wakes does not, and one that goes down lets only those
that issued before. -/
def Croft.gateLets (c : Croft) (seq b : Nat) : Bool :=
  match c.gate b with
  | .waking => false
  | .falling => (vget c.gateAcc [] b).contains seq
  | _ => true

/-- An accepted command, or one at its perform, may touch some ranges now (R138, R280). -/
def Croft.cmdAwake (c : Croft) (seq : Nat) (l : List SpAcc) : Bool := l.all fun x => (banksOf x.a x.n).all (c.gateLets seq)

/-- A result in flight accesses scratchpad at its landing. -/
def LandOp.onSp : LandOp → Bool
  | .store .sp _ _ | .atomSp .. | .zflags .. | .gates .. | .map .. => true
  | _ => false

/-- A nest's landing. -/
def LandOp.isNest : LandOp → Bool
  | .nest => true
  | _ => false

/-- The scratchpad accesses that have issued and not performed, by their places in the stream (R138, R280): commands, results in flight, a
nest's, and those of an STQ that still takes its entries. -/
def Croft.spIssued (c : Croft) : List Nat :=
  c.copyq.map (·.seq) ++ c.indexq.map (·.seq) ++ c.genq.map (·.seq) ++ (c.inFlight.filter fun p => p.op.onSp || p.op.isNest).map (·.seq)
    ++ (c.stq.toList ++ (c.frame.bind fun f => f.stq).toList).map fun (r : StqRun) => r.seq

/-- A change of a bank's gate begins (R138): down keeps the power for the accesses issued before it landed, up starts a wake. -/
def Croft.beginTurn (c : Croft) (g : GateTurn) : Croft :=
  if g.up then { c with gates := vset c.gates g.bank .waking }
  else { c with gates := vset c.gates g.bank .falling, gateAcc := vset c.gateAcc g.bank g.accs }

/-- Once a change of a bank's gate has ended, the next that has landed begins (R280). -/
def Croft.nextTurn (c : Croft) (b : Nat) : Croft :=
  match c.gateq.find? fun g => g.bank == b with
  | none => c
  | some g => ({ c with gateq := c.gateq.erase g } : Croft).beginTurn g

/-- BANKGATE lands on one bank (R138, R280): nothing where the bank is as it asks; else the change begins now, or after the one under way. -/
def Croft.turnBank (up : Bool) (c : Croft) (b : Nat) : Croft :=
  if c.gateUp b == up then c
  else
    let g : GateTurn := ⟨b, up, c.spIssued⟩
    match c.gate b with
    | .up | .down => c.beginTurn g
    | _ => { c with gateq := c.gateq ++ [g] }

/-- BANKGATE lands (R138, R280). -/
def Croft.landGates (c : Croft) (lo hi : Nat) (up : Bool) : Croft := ((List.range (hi + 1 - lo)).map (lo + ·)).foldl (Croft.turnBank up) c

/-! ### The Hayward (R48 to R50) -/

/-- The lowest byte of [a, e) outside the union of some ranges; the first argument bounds the ranges used. -/
def uncovered : Nat → List Rng → Nat → Nat → Option Nat
  | 0, _, a, e => if a < e then some a else none
  | n + 1, rs, a, e =>
    if e ≤ a then none
    else match rs.find? fun r => r.base ≤ a && a < r.base + r.len with
      | none => some a
      | some r => uncovered n rs (r.base + r.len) e

/-- The open phase of an engine (R48). -/
def Croft.phaseOf (c : Croft) (e : Eng) : Phase := vget c.phases {} e.ix

/-- The lowest byte of an access that the engine's open phase does not allow (R50). -/
def Phase.outside (p : Phase) (x : SpAcc) : Option Nat :=
  let rs := if x.w then p.writes else p.reads ++ p.writes
  uncovered (rs.length + 1) rs x.a (x.a + x.n)

/-- The smaller of two optional addresses. -/
def lowest (a b : Option Nat) : Option Nat :=
  match a, b with
  | none, y => y
  | x, none => x
  | some x, some y => some (Nat.min x y)

/-- HEDGE where an access of engine e breaks its open phase, at the lowest byte outside (R50, R225). -/
def Croft.spHedge (c : Croft) (e : Eng) (l : List SpAcc) : Except Stop Unit :=
  match l.foldl (fun o x => lowest o ((c.phaseOf e).outside x)) none with
  | none => .ok ()
  | some a => .error (.fault { code := .hedge, addr := (joinAddr .sp a).toNat })

/-- BOUNDS, then HEDGE, then the wait for a waking bank. -/
def Croft.spCheck (c : Croft) (e : Eng) (l : List SpAcc) : Except Stop Unit := do
  c.spBounds l
  c.spHedge e l
  c.spAwake l

/-- Two byte ranges overlap. -/
def overlap (a n b m : Nat) : Bool := decide (0 < n) && decide (0 < m) && decide (a < b + m) && decide (b < a + n)

/-- The lowest byte that two sets of ranges share. -/
def sharedByte (p q : List Rng) : Option Nat :=
  p.foldl (fun o r => q.foldl (fun o s => if overlap r.base r.len s.base s.len then lowest o (some (Nat.max r.base s.base)) else o) o) none

/-- The lowest byte at which a new phase of engine e clashes with another engine's open phase (R49, R334). -/
def Croft.phaseClash (c : Croft) (e : Eng) (p : Phase) : Option Nat :=
  (Eng.all.filter fun f => f != e && f != .C && f != .V).foldl
    (fun o f =>
      let q := c.phaseOf f
      lowest o (lowest (sharedByte p.writes (q.reads ++ q.writes)) (sharedByte p.reads q.writes))) none

/-! ### Scratchpad bytes and zero flags (R136) -/

/-- The 1 KiB blocks a byte range touches. -/
def blocksOf (a n : Nat) : List Nat :=
  if n == 0 then [] else (List.range ((a + n - 1) / 1024 + 1 - a / 1024)).map (a / 1024 + ·)

/-- The zero flag of a block (R136). -/
def Croft.zflag (c : Croft) (b : Nat) : Bool := !c.zclear.get false b

/-- A pending ZFLAG sees a write into its blocks (R136). -/
def Pending.dirty (bs : List Nat) (p : Pending) : Pending :=
  match p.op with
  | .zflags b n d => { p with op := .zflags b n (d ++ bs.filter fun x => b ≤ x && x < b + n) }
  | _ => p

/-- Write scratchpad bytes: the flags of the blocks are cleared first, also for a ZFLAG in flight (R136). -/
def Croft.spWrite (c : Croft) (a : Nat) (bytes : List Byte) : Croft :=
  let bs := blocksOf a bytes.length
  { c with
    sp := c.sp.writeN a bytes
    zclear := bs.foldl (fun (t : Table Bool) b => Table.set t false b true) c.zclear
    lands := c.lands.map (Pending.dirty bs)
    frame := c.frame.map fun f => { f with land := f.land.map (Pending.dirty bs) } }

/-- A ZFLAG lands: each of its blocks is flagged if it holds only zeros and no write came meanwhile (R136). -/
def Croft.zflagLand (c : Croft) (b n : Nat) (dirty : List Nat) : Croft :=
  let clear (i : Nat) : Bool := dirty.contains (b + i) || !c.sp.blank (1024 * (b + i)) 1024
  { c with zclear := (List.range n).foldl (fun (t : Table Bool) i => Table.set t false (b + i) (clear i)) c.zclear }

/-! ### ACM (R122, R135) -/

/-- The ACM byte address of element 64·row + column of a tile (R61, R122). -/
def acmAddr (t i : Nat) : Nat := t * 16384 + i * 4

/-- An element of an ACM tile. -/
def Croft.acmElem (c : Croft) (t i : Nat) : BitVec 32 := BitVec.ofNat 32 (c.acm.le (acmAddr t i) 4)

/-- The elements of a tile from index i, n of them. -/
def Croft.acmElems (c : Croft) (t i n : Nat) : List (BitVec 32) := (List.range n).map fun k => c.acmElem t (i + k)

/-- The bytes of 32-bit values, least significant first (R3). -/
def wordsBytes (l : List (BitVec 32)) : List Byte := l.flatMap fun v => leBytes 4 v.toNat

/-- Write a tile's elements from index i. -/
def Croft.acmPut (c : Croft) (t i : Nat) (vs : List (BitVec 32)) : Croft :=
  { c with acm := c.acm.writeN (acmAddr t i) (wordsBytes vs) }

/-- The tiles that bytes [a, a + n) of ACM touch. -/
def tilesOf (a n : Nat) : List Nat :=
  if n == 0 then [] else (List.range ((a + n - 1) / 16384 + 1 - a / 16384)).map (a / 16384 + ·)

/-- The ACM tiles a command of the copy path writes (R135). -/
def CopyKind.tiles : CopyKind → List Nat
  | .copy _ _ dst .acm _ units => tilesOf dst (64 * units)
  | .copyd _ dst .acm _ blocks => tilesOf dst (4096 * blocks)
  | _ => []

/-- A tile is held by an accepted copy until its completion (R135). -/
def Croft.heldTile (c : Croft) (t : Nat) : Bool := c.copyq.any fun k => k.kind.tiles.contains t

/-- SCHEDCLASH for the lowest held tile of a list (R135). -/
def Croft.tilesFree (c : Croft) (ts : List Nat) : Except Stop Unit :=
  match ts.find? c.heldTile with
  | none => .ok ()
  | some t => .error (.fault { code := .schedclash, aux := t })

/-- The ACM tiles a landing in flight writes (R135). -/
def LandOp.acmTiles : LandOp → List Nat
  | .store .acm a bytes => tilesOf a bytes.length
  | .wrow t _ _ _ => [t]
  | .zeroTile t => [t]
  | .tile t _ _ _ => [t]
  | _ => []

/-- The ACM tiles that a result in flight names: those it writes, and the tile of a VWRA that faults at its landing (R362). -/
def Pending.acmTiles (p : Pending) : List Nat :=
  match p.op, p.ins with
  | .vfault _, .vwra _ _ x => [bitsOf x.imm32 9 6]
  | op, _ => op.acmTiles

/-- The ACM tiles of an STQ that still takes its entries (R339). -/
def StqRun.acmTiles (r : StqRun) : List Nat := match r.space with | .acm => tilesOf r.addr (8 * r.need) | _ => []

/-- A tile has a write that has issued and not landed (R135), a handler's landing list and set-aside STQ included (R231). -/
def Croft.tilePending (c : Croft) (t : Nat) : Bool :=
  c.inFlight.any (fun p => p.acmTiles.contains t)
    || (c.stq.toList ++ (c.frame.bind fun f => f.stq).toList).any fun r => r.acmTiles.contains t

/-! ### Byte reads over the three spaces -/

/-- Read bytes of scratchpad or ACM. -/
def Croft.localRead (c : Croft) (space : Space) (a n : Nat) : List Byte :=
  match space with
  | .acm => c.acm.readN a n
  | _ => c.sp.readN a n

/-- Write bytes of scratchpad or ACM. -/
def Croft.localWrite (c : Croft) (space : Space) (a : Nat) (bytes : List Byte) : Croft :=
  match space with
  | .acm => { c with acm := c.acm.writeN a bytes }
  | _ => c.spWrite a bytes

end Sys2Proof.Machine
end

