-- ==== Sys2Proof/Machine/Mill.lean ====
section
/-! DEFINITION. The Mill and the Reeve: loop-nest tables, contracts, grades, the checks at the start of a nest, K-steps in the
croft's slots, the fidelity record, contention plans at a round boundary, and the live tile's drain. -/

namespace Sys2Proof.Machine

/-! ### The contract (R139) -/

/-- KSTEPS of CONTRACT. -/
def conKsteps (w : Word64) : Nat := bitsOf w 63 48
/-- LAT of CONTRACT. -/
def conLat (w : Word64) : Nat := bitsOf w 47 32
/-- SHARE of CONTRACT. -/
def conShare (w : Word64) : Nat := bitsOf w 21 14
/-- SAT of CONTRACT. -/
def conSat (w : Word64) : Bool := bitOf w 13
/-- F8V of CONTRACT. -/
def conF8v (w : Word64) : Bool := bitOf w 12
/-- FLOOR of CONTRACT. -/
def conFloor (w : Word64) : Nat := bitsOf w 11 9
/-- CEIL of CONTRACT. -/
def conCeil (w : Word64) : Nat := bitsOf w 8 6
/-- FAMB of CONTRACT. -/
def conFamB (w : Word64) : Bool := bitOf w 5
/-- FAMA of CONTRACT. -/
def conFamA (w : Word64) : Bool := bitOf w 4
/-- RANK of CONTRACT. -/
def conRank (w : Word64) : Nat := bitsOf w 3 0

/-- Division rounding up. -/
def ceilDiv (a b : Nat) : Nat := (a + b - 1) / b

/-- The contracted length in rounds of a nest of n K-steps (R147). -/
def conRounds (w : Word64) (n : Nat) : Nat := ceilDiv (n * conLat w) (conKsteps w)

/-- cyc(g) of R142. -/
def gradeCyc : Nat → Nat
  | 5 => 32 | 4 => 16 | 3 => 8 | 2 => 4 | _ => 2

/-- D(g), a contract's demand in slots per round at a grade (R142). -/
def demand (w : Word64) (g : Nat) : Nat := ceilDiv (conKsteps w * gradeCyc g) (conLat w)

/-- A grade stands on the ladder of a family (R106). -/
def onLadder (mxint : Bool) (g : Nat) : Bool := if mxint then g == 4 || g == 3 || g == 2 else g == 5 || g == 4 || g == 2 || g == 1

/-- A grade stands on the ladders of both families of a contract (R106). -/
def onLadders (w : Word64) (g : Nat) : Bool := onLadder (conFamA w) g && onLadder (conFamB w) g

/-! ### The fidelity record (R149) -/

/-- G0. -/
def recG0 (w : Word64) : Nat := bitsOf w 63 61
/-- NCP. -/
def recNcp (w : Word64) : Nat := bitsOf w 60 59
/-- The change points in use: step and grade. -/
def recPoints (w : Word64) : List (Nat × Nat) :=
  [(bitsOf w 58 47, bitsOf w 46 44), (bitsOf w 43 32, bitsOf w 31 29), (bitsOf w 28 17, bitsOf w 16 14)].take (recNcp w)
/-- The grade a record gives for a graded step index (R150). -/
def recGrade (w : Word64) (i : Nat) : Nat := (recPoints w).foldl (fun g p => if p.1 ≤ i then p.2 else g) (recG0 w)
/-- The grade after the last change point. -/
def recLast (w : Word64) : Nat := (recPoints w).foldl (fun _ p => p.2) (recG0 w)
/-- The grades a record names. -/
def recGrades (w : Word64) : List Nat := recG0 w :: (recPoints w).map (·.2)
/-- The grade fields G0, NCP and the change points. -/
def recGradeMask : Word64 := 0xFFFFFFFFFFFFC000#64
/-- The flag bits REPLAY to ZBLK. -/
def recFlagMask : Word64 := 0x7F#64
/-- REPLAY. -/
def recREPLAY : Word64 := 0x40#64
/-- DEFER. -/
def recDEFER : Word64 := 0x20#64
/-- BREACH. -/
def recBREACH : Word64 := 0x10#64

/-- Enter the grade of graded step 0. -/
def recSetG0 (w : Word64) (g : Nat) : Word64 := w ||| BitVec.ofNat 64 (g * 2 ^ 61)

/-- Enter a change point: graded step i runs at grade g. -/
def recAddPoint (w : Word64) (i g : Nat) : Word64 :=
  let n := recNcp w
  let pos := if n == 0 then (47, 44) else if n == 1 then (32, 29) else (17, 14)
  (w + BitVec.ofNat 64 (2 ^ 59)) ||| BitVec.ofNat 64 (i * 2 ^ pos.1 + g * 2 ^ pos.2)

/-- KIND of a live tile (R149). -/
def LiveKind.code : LiveKind → Nat
  | .fp32 => 0 | .int32 => 1 | .window => 2

/-- A new live tile (R153, R324): all zero, a zero record with its KIND, and REPLAY where a sequence governs it. -/
def Live.start (kind : LiveKind) (ref : Int) (replay : Bool) : Live :=
  { kind := kind, tref := ref, lrec := BitVec.ofNat 64 (kind.code * 2 ^ 12) ||| (if replay then recREPLAY else 0) }

/-- An element of the live tile. -/
def Live.elem (l : Live) (i : Nat) : BitVec 32 := l.vals.getD i 0
/-- A window of the live tile. -/
def Live.win (l : Live) (i : Nat) : Win := l.wins.getD i {}

/-- A list cut or filled up to the 4,096 elements of a tile. -/
def pad4096 {α : Type} (d : α) (l : List α) : List α := l.take 4096 ++ List.replicate (4096 - l.length) d

/-! ### Loop-nest tables (R124, R125) -/

/-- ROLE of a level entry. -/
def lvRole (l : BitVec 58) : Nat := bitsOf l 57 56
/-- PACK of a level entry. -/
def lvPack (l : BitVec 58) : Bool := bitOf l 55
/-- The count of a level entry. -/
def lvCount (l : BitVec 58) : Nat := if lvRole l == 1 then bitsOf l 54 39 + 1 else 1
/-- ASTR of a level entry. -/
def lvA (l : BitVec 58) : Int := signedOf 16 (bitsOf l 38 23)
/-- BSTR of a level entry. -/
def lvB (l : BitVec 58) : Int := signedOf 16 (bitsOf l 22 7)

/-- The number of K-steps of a table (R125). -/
def tableSteps (t : List (BitVec 58)) : Nat := t.foldl (fun n l => n * lvCount l) 1

/-- A table keeps R124 and R125. -/
def tableOk (t : List (BitVec 58)) : Bool :=
  t.all (fun l => lvRole l ≤ 1 && bitsOf l 6 0 == 0 && (lvRole l == 1 || bitsOf l 54 39 == 0)) && tableSteps t ≤ 65536

/-- A table keeps R128's rules for PACK: none without APK; with it, PACK on the innermost present level alone and no A stride. -/
def packOk (apk : Bool) (t : List (BitVec 58)) : Bool :=
  if apk then
    t.all (fun l => lvA l == 0)
      && (match (t.reverse.dropWhile fun l => lvRole l != 1) with
          | [] => false
          | l :: out => lvPack l && out.all (fun m => !lvPack m))
      && (t.reverse.takeWhile fun l => lvRole l != 1).all (fun m => !lvPack m)
  else t.all fun l => !lvPack l

/-- The sum Σ i_l · stride_l at step k, levels given innermost first (R125). -/
def strideSum (f : BitVec 58 → Int) : List (BitVec 58) → Nat → Int
  | [], _ => 0
  | l :: ls, k => (k % lvCount l : Nat) * f l + strideSum f ls (k / lvCount l)

/-- The address of step k from a base and a table's strides (R125). -/
def stepAddr (f : BitVec 58 → Int) (t : List (BitVec 58)) (base k : Nat) : Int := base + 64 * strideSum f t.reverse k

/-! ### Chains of run-packed tiles (R128) -/

/-- The tiles of a walked chain, each with its stored length, whether a tile breaks the checks of LENMIS, and the lines read. -/
structure Chain where
  tiles  : List (Nat × Nat) := []
  broken : Bool := false
  lines  : Nat := 0
  deriving DecidableEq, Repr

/-- The pair dwords of a run-packed vector. -/
def Memory.pairs (m : Memory) (a n : Nat) : List Word64 := (List.range n).map fun i => BitVec.ofNat 64 (m.le (a + 8 + 8 * i) 8)

/-- The header dword of a run-packed vector. -/
def Memory.header (m : Memory) (a : Nat) : Word64 := BitVec.ofNat 64 (m.le a 8)

/-- Walk n tiles from an address (R128): each takes the bytes that its NPAIRS gives and starts where the one before ended, rounded up to 64 bytes. A
tile that breaks R371, LEN 2,048 or the tag test does not end the walk, since its range is checked before it is (R129, R310); one that runs past the
scratchpad, or whose NPAIRS is above 128 (DEDUCED, log 27), does. -/
def chainWalk (m : Memory) (tagOk : Nat → Bool) : Nat → Nat → Chain
  | 0, _ => {}
  | n + 1, a =>
    if spSize < a + 8 then { tiles := [(a, 8)] }
    else
      let h := m.header a
      if 128 < hdrPairs h then { tiles := [(a, 8)], broken := true, lines := 1 }
      else
        let len := 8 + 8 * hdrPairs h
        let lines := ceilDiv len 64
        if spSize < a + len then { tiles := [(a, len)], lines := lines }
        else
          let bad := hdrLen h != 2048 || !tagOk (hdrTag h) || !packedLayout h (m.pairs a (hdrPairs h))
          let r := chainWalk m tagOk n (a + 64 * lines)
          { tiles := (a, len) :: r.tiles, broken := bad || r.broken, lines := lines + r.lines }

/-- Entry i of a list of chain tiles. -/
def chainAt (l : List Nat) (i : Nat) : Nat := l.getD i 0

/-! ### Checks at the start of a nest (R129) -/

/-- The byte ranges of a nest: for each step its A tile and its B tile, as first byte and length. A chain that ends early gives no tile to the
steps after its end. -/
abbrev StepRanges := List (Option (Int × Nat) × (Int × Nat))

/-- A range in one bank group (R129). -/
def oneGroup (r : Int × Nat) : Bool := groupOf (r.1.toNat + r.2 - 1) == groupOf r.1.toNat

/-- A step's ranges keep check 5 of R129. -/
def groupsOk (p : Option (Int × Nat) × (Int × Nat)) : Bool :=
  oneGroup p.2 && (match p.1 with | some a => oneGroup a && groupOf a.1.toNat != groupOf p.2.1.toNat | none => true)

/-- A range stays inside the scratchpad and touches no bank that is down. -/
def Croft.rangeOk (c : Croft) (r : Int × Nat) : Bool := decide (0 ≤ r.1) && c.spReach ⟨r.1.toNat, r.2, false⟩

/-- The lowest byte of some reads outside the union of M's open read and write sets (R50), as which R129, R177 and R317 name M's read set
(DEDUCED, log 17). -/
def Croft.outsideReads (c : Croft) (l : List (Nat × Nat)) : Option Nat :=
  let p := c.phaseOf .M
  let rs := p.reads ++ p.writes
  l.foldl (fun o r => lowest o (uncovered (rs.length + 1) rs r.1 (r.1 + r.2))) none

/-- Checks 3 to 6 of R129 over a nest's ranges, then the wait for a waking bank (R138). A range that starts below 0 has its
address reported modulo 2^64 (DEDUCED, log 9). -/
def Croft.checkNest (c : Croft) (rs : StepRanges) (broken : Bool) : Except Stop Unit := do
  let all := rs.flatMap fun p => p.1.toList ++ [p.2]
  match all.find? fun r => !c.rangeOk r with
  | some r => .error (.fault { code := .bounds, addr := (BitVec.ofInt 64 (r.1 + 2 ^ 56)).toNat })
  | none => .ok ()
  match c.outsideReads (all.map fun r => (r.1.toNat, r.2)) with
  | some a => .error (.fault { code := .hedge, addr := (joinAddr .sp a).toNat })
  | none => .ok ()
  need (rs.all groupsOk) (.flt .bankclash)
  need (!broken) (.flt .lenmis)
  c.spAwake (all.map fun r => ⟨r.1.toNat, r.2, false⟩)

/-- An M instruction that reads or writes the live tile meets a running nest: SCHEDCLASH in FIXED mode, a wait in SCORE mode
(R130). -/
def Croft.liveFree (c : Croft) : Except Stop Unit :=
  need c.nest.isNone (match c.mode with | .fixed => .fault { code := .schedclash, aux := 0xFF } | .score => .wait)

/-- An M instruction meets a map instruction in flight (R182): SCHEDCLASH in FIXED mode, a wait in SCORE mode. -/
def Croft.mapFree (c : Croft) : Except Stop Unit :=
  need (!c.inFlight.any fun p => match p.op with | .map .. => true | _ => false)
    (match c.mode with | .fixed => .fault { code := .schedclash, aux := 0xFF } | .score => .wait)

/-- Start a nest (R325, R147, R150): a start with acc = 0 makes a new live tile and consumes the armed sequence; the landing stands
at t + 128 · (L + 1), and where a sequence governs, the landing waits for a round boundary alone. -/
def Croft.startNest (c : Croft) (i : Instr) (sig : Nat) (acc : Bool) (kind : LiveKind) (ref : Int) (n : Nest) : Croft :=
  let governs := if acc then c.governs else c.armed
  let armed := if acc then c.armed else none
  let live := if acc then c.live else Live.start kind ref governs.isSome
  let n := { n with live := live, replay := governs.isSome }
  let c := { c with governs := governs, armed := armed, nest := some n }
  c.land .M i sig (if n.replay then 0 else 128 * (n.len + 1)) .nest

/-- The tiles of an MRUN or MRUNB: one A and one B tile for each step. -/
def nestRanges (t : List (BitVec 58)) (abase bbase asz bsz : Nat) : StepRanges :=
  (List.range (tableSteps t)).map fun k => (some (stepAddr lvA t abase k, asz), (stepAddr lvB t bbase k, bsz))

/-- The ranges of a packed nest (R129): step by step the walked tile, while the chain lasts, and B's tile. -/
def packedRanges (ch : Chain) (t : List (BitVec 58)) (bbase bsz : Nat) : StepRanges :=
  (List.range (tableSteps t)).map fun k => ((ch.tiles[k]?).map fun r => ((r.1 : Int), r.2), (stepAddr lvB t bbase k, bsz))

/-! ### K-steps (R125, R137, R145, R146, R325) -/

/-- Every block that bytes [a, a + n) overlap is flagged (R137). -/
def Croft.flagged (c : Croft) (a n : Nat) : Bool := (blocksOf a n).all c.zflag

/-- The A tile of a step: first byte and stored length. -/
def Croft.stepA (c : Croft) (n : Nest) : Nat × Nat :=
  match n.kind with
  | .lowr r => (n.abase, 128 * r)
  | .runb .. => ((stepAddr lvA n.table n.abase n.k).toNat, 1024)
  | .run .. =>
    if n.packed then
      let a := chainAt n.chain n.k
      (a, 8 + 8 * hdrPairs (c.sp.header a))
    else ((stepAddr lvA n.table n.abase n.k).toNat, 64 * (opFmt n.fa).rowBytes)

/-- The B tile of a step. -/
def Croft.stepB (_c : Croft) (n : Nest) : Nat × Nat :=
  match n.kind with
  | .lowr r => (n.bbase, 128 * r)
  | .runb .. => ((stepAddr lvB n.table n.bbase n.k).toNat, 1024)
  | .run .. => ((stepAddr lvB n.table n.bbase n.k).toNat, 64 * (opFmt n.fb).rowBytes)

/-- A step is skipped under its zero flags (R137). -/
def Croft.skips (c : Croft) (n : Nest) : Bool :=
  let z := match n.kind with | .run _ z => z | .runb _ z => z | .lowr _ => false
  z && (c.flagged (c.stepA n).1 (c.stepA n).2 || c.flagged (c.stepB n).1 (c.stepB n).2)

/-- The nest still has graded steps (R145): a K-step of an MRUN with w = 0. -/
def Nest.graded (n : Nest) : Bool :=
  match n.kind with
  | .run w _ => !w
  | _ => false

/-- The next step of the nest is graded and has not started. -/
def Nest.gradedToStart (n : Nest) : Bool := n.graded && (if n.begun then n.k + 1 < n.steps else n.k < n.steps)

/-- The grade of the graded step that starts now, with the record it leaves and the croft's grade in force (R145, R146, R150). -/
def Croft.startGrade (c : Croft) (l : Live) : Nat × Word64 × Nat :=
  let last := recLast l.lrec
  match c.governs with
  | some q =>
    let g := recGrade q l.gi
    let r := l.lrec ||| recREPLAY
    (g, if l.gi == 0 then recSetG0 r g else if g == last then r else recAddPoint r l.gi g, c.grade)
  | none =>
    let g := c.want
    if l.gi == 0 then (g, recSetG0 l.lrec g, g)
    else if g == last then (g, l.lrec, g)
    else if recNcp l.lrec == 3 || 4096 ≤ l.gi then (last, l.lrec ||| recDEFER, last)
    else (g, recAddPoint l.lrec l.gi g, g)

/-- The effective formats of a step at a grade (R107); a window step keeps its stored formats (R145). -/
def stepFmts (w : Word64) (n : Nest) : OpFmt × OpFmt :=
  if n.graded then ((opFmt n.fa).atGrade n.grade (conF8v w), (opFmt n.fb).atGrade n.grade (conF8v w))
  else (opFmt n.fa, opFmt n.fb)

/-- The Mill cycles of a step that is not skipped (R108, R131, R132). -/
def stepCost (w : Word64) (n : Nest) : Nat :=
  match n.kind with
  | .run .. => cycFor (stepFmts w n).1.slices (stepFmts w n).2.slices
  | .runb .. => 1
  | .lowr _ => 16

/-- A step starts: a graded step takes its grade and its plan's change is made (R144, R145). -/
def Croft.beginStep (c : Croft) (n : Nest) : Croft × Nest :=
  let (c, n) :=
    if n.graded then
      let (g, r, force) := c.startGrade n.live
      ({ c with grade := force, planSt := if c.planSt == .armed then .changed else c.planSt },
       { n with grade := g, live := { n.live with lrec := r } })
    else (c, n)
  (c, { n with begun := true, cost := if c.skips n then 0 else stepCost c.contract n })

/-- 64 rows or columns of a step tile, read and narrowed, with what the narrowing raised (R127, R107). -/
def readRows (m : Memory) (o e : OpFmt) (sat : Bool) (a : Nat) : List NarrowOut :=
  (List.range 64).map fun i => readRow o e sat (m.le (a + i * o.rowBytes) o.rowBytes)

/-- 64 rows of an expanded run-packed tile (R128), narrowed. -/
def packedRows (m : Memory) (o e : OpFmt) (sat : Bool) (a : Nat) : List NarrowOut :=
  let h := m.header a
  let es := elems (packedVector h (m.pairs a (hdrPairs h))).runs
  (chunks 32 64 es).map fun row => readRow o e sat (row.foldr (fun x n => n * 2 ^ o.ewidth + x.toNat) 0)

/-- Rows of r BF16 values (R132). -/
def factorRows (m : Memory) (r a : Nat) : List (List FV) :=
  (List.range 64).map fun i => (List.range r).map fun k => bf16.value (m.le (a + 2 * r * i + 2 * k) 2)

/-- The 128-bit rows of a binary step tile (R127). -/
def binaryRows (m : Memory) (a : Nat) : List Nat := (List.range 64).map fun i => m.le (a + 16 * i) 16

/-- The number of ones of a 128-bit number. -/
def popcount (n v : Nat) : Nat := ((List.range n).filter fun i => v.testBit i).length

/-- Every pair of a row and a column, in the order of the tile's elements. -/
def rowsByCols {α : Type} (xs ys : List α) : List (α × α) := xs.flatMap fun x => ys.map fun y => (x, y)

/-- Step-mode accumulation over a whole tile (R109): the new elements and the flags. -/
def stepAcc (vals : List (BitVec 32)) (xs ys : List (List FV)) : List (BitVec 32) × Flags :=
  let rs := ((pad4096 0 vals).zip (rowsByCols xs ys)).map fun p => accStep p.1.toNat (exactDot p.2.1 p.2.2)
  (rs.map fun r => BitVec.ofNat 32 r.1, rs.foldl (fun f r => f ||| r.2) 0)

/-- Window accumulation over a whole tile (R111). -/
def windowAcc (ref : Int) (wins : List Win) (xs ys : List (List FV)) : List Win :=
  ((pad4096 {} wins).zip (rowsByCols xs ys)).map fun p => (List.zipWith FV.mul p.2.1 p.2.2).foldl (Win.add ref) p.1

/-- Binary accumulation over a whole tile (R110). -/
def binaryAcc (isAnd : Bool) (vals : List (BitVec 32)) (xs ys : List Nat) : List (BitVec 32) :=
  ((pad4096 0 vals).zip (rowsByCols xs ys)).map fun p =>
    p.1 + BitVec.ofNat 32 (popcount 128 (if isAnd then p.2.1 &&& p.2.2 else p.2.1 ^^^ p.2.2))

/-- The rows of a step's A tile and columns of its B tile, narrowed to the step's formats (R107, R325). -/
def Croft.stepRows (c : Croft) (n : Nest) : List NarrowOut × List NarrowOut :=
  let a := (c.stepA n).1
  let (ea, eb) := stepFmts c.contract n
  let sat := conSat c.contract
  (if n.packed then packedRows c.sp (opFmt n.fa) ea sat a else readRows c.sp (opFmt n.fa) ea sat a,
    readRows c.sp (opFmt n.fb) eb sat (c.stepB n).1)

/-- What narrowing raised enters the record and the nest's flags (R107, R149, R325). -/
def Nest.fold (n : Nest) (l : List NarrowOut) : Nest :=
  let nf := l.foldl (fun f r => f ||| r.flags) 0
  let rf := recordFlags nf (l.any (·.nans)) (l.any (·.ovfi))
  { n with live := { n.live with lrec := n.live.lrec ||| BitVec.ofNat 64 rf }, flags := n.flags ||| nf }

/-- What a step adds to the live tile (R109 to R111, R132). -/
def Croft.accumulate (c : Croft) (n : Nest) (rows : List NarrowOut × List NarrowOut) : Nest :=
  let a := (c.stepA n).1
  let b := (c.stepB n).1
  match n.kind with
  | .run w _ =>
    let xv := rows.1.map (·.vals)
    let yv := rows.2.map (·.vals)
    if w then { n with live := { n.live with wins := windowAcc n.live.tref n.live.wins xv yv } }
    else
      let (vs, f) := stepAcc n.live.vals xv yv
      { n with live := { n.live with vals := vs }, flags := n.flags ||| f }
  | .runb isAnd _ =>
    { n with live := { n.live with vals := binaryAcc isAnd n.live.vals (binaryRows c.sp a) (binaryRows c.sp b) } }
  | .lowr r =>
    let xv := factorRows c.sp r a
    let yv := factorRows c.sp r b
    match n.live.kind with
    | .window => { n with live := { n.live with wins := windowAcc n.live.tref n.live.wins xv yv } }
    | _ =>
      -- the 32 − r products the factors lack are taken as +0 (R132)
      let more := List.replicate (32 - r) (FV.num false 0 0)
      let (vs, f) := stepAcc n.live.vals (xv.map (· ++ more)) (yv.map (· ++ more))
      { n with live := { n.live with vals := vs }, flags := n.flags ||| f }

/-- The effect of a step on the live tile and the nest's flags (R325): a step of an MRUN narrows its tiles, skipped or not, and one that is not
skipped adds to the live tile. -/
def Croft.performStep (c : Croft) (n : Nest) (skip : Bool) : Nest :=
  match n.kind with
  | .run .. =>
    let rows := c.stepRows n
    let n := n.fold (rows.1 ++ rows.2)
    if skip then n else c.accumulate n rows
  | _ => if skip then n else c.accumulate n ([], [])

/-- Saturation at the end of a window nest (R111, R325). -/
def Nest.finish (n : Nest) : Nest :=
  match n.live.kind with
  | .window =>
    let rs := n.live.wins.map Win.saturate
    { n with live := { n.live with wins := rs.map (·.1) }, flags := if rs.any (·.2) then n.flags ||| fWOVF else n.flags }
  | _ => n

/-- A step has performed, or is skipped: the next one stands. -/
def Nest.advance (n : Nest) : Nest :=
  let n := { n with k := n.k + 1, begun := false, cost := 0
                    live := if n.graded then { n.live with gi := n.live.gi + 1 } else n.live }
  if n.k == n.steps then n.finish else n

/-- The nest at its next K-step boundary (R235): a step that has started performs. -/
def Croft.stepEnd (c : Croft) : Croft :=
  match c.nest with
  | some n => if n.begun then { c with nest := some (c.performStep n (n.cost == 0)).advance } else c
  | none => c

/-- The croft's own slots of the round that have come by a cy and are not spent (R141). -/
def Croft.slotsAt (c : Croft) (t : Nat) : Nat := Nat.min c.slots (t - c.slot)

/-- The first u of the slots left in the round pass (R141). -/
def Croft.passSlots (c : Croft) (u : Nat) : Croft := { c with slots := c.slots - u, slot := c.slot + u }

/-- Slots that have come by a cy pass idle: the Mill stands (R147, R233). -/
def Croft.idleTo (c : Croft) (t : Nat) : Croft := c.passSlots (c.slotsAt t)

/-- The first u of the slots left in the round are used (R141, R271). -/
def Croft.useSlots (c : Croft) (u : Nat) : Croft := { c.passSlots u with used := c.used + u }

/-- MILL_KSTEP: what the croft's Mill does next in its own slots that have come by cy t (R141): a packed nest's chain walk goes first (R128),
then the step at hand starts, spends its cycles and performs. None where nothing can be done. -/
def Croft.kstep (c : Croft) (t : Nat) : Option Croft :=
  match c.nest with
  | none => none
  | some n =>
    if n.rounds == 0 || n.steps ≤ n.k then none
    else if 0 < n.walk then
      if c.slotsAt t == 0 then none
      else
        let u := Nat.min (c.slotsAt t) n.walk
        some { c.useSlots u with nest := some { n with walk := n.walk - u } }
    else if !n.begun && c.slotsAt t == 0 && !c.skips n then none
    else
      let (c, n) := if n.begun then (c, n) else c.beginStep n
      if n.cost == 0 then some { c with nest := some (c.performStep n true).advance }
      else if c.slotsAt t == 0 then none
      else
        let u := Nat.min (c.slotsAt t) n.cost
        let c := c.useSlots u
        if u < n.cost then some { c with nest := some { n with cost := n.cost - u } }
        else some { c with nest := some (c.performStep n false).advance }

/-- Perform K-steps until the slots that have come by cy t give no more. -/
def Croft.millRun (t : Nat) : Nat → Croft → Croft
  | 0, c => c
  | f + 1, c => match c.kstep t with | none => c | some c => Croft.millRun t f c

/-- The K-steps a croft has made by cy t. -/
def Croft.millTo (c : Croft) (t : Nat) : Croft :=
  match c.nest with
  | none => c
  | some n => c.millRun t (n.steps - n.k + 2)

/-- The K-steps a croft can still make in this round. -/
def Croft.finishRound (c : Croft) : Croft := c.millTo (c.slot + c.slots)

/-- The cy up to which the Mill's slots count before the nest's landing is looked at (R147, R148): that of the contracted landing vc, once the
clock has reached it and no breach stands. -/
def Croft.millCy (c : Croft) (t : Nat) : Nat :=
  match c.nest, c.lands.find? fun p => p.op.isNest with
  | some n, some p => if n.replay || n.breach then t else t - (c.landLimit - p.due)
  | _, _ => t

/-! ### Round boundaries and plans (R141, R144) -/

/-- A falling plan at a round boundary (R144). A croft without a graded step to start changes grade and share at once, one whose steps a replay
sequence governs among them (DEDUCED, log 22); so does one whose graded step starts at this boundary, in slot 0 (`now`); any other keeps its
share until a boundary after the change. -/
def Croft.fallAt (c : Croft) (now : Bool) : Croft :=
  match c.plan with
  | none => c
  | some (g, sh) =>
    let toStart := match c.nest with | some n => n.gradedToStart && c.governs.isNone | none => false
    let atRest := match c.nest with | some n => !n.begun && n.walk == 0 | none => true
    match c.planSt with
    | .changed => { c with share := sh, plan := none, planSt := .installed }
    | _ =>
      if !toStart || c.grade ≤ g then { c with want := g, grade := g, share := sh, plan := none, planSt := .installed }
      else if atRest && now && 0 < sh then { c with want := g, share := sh, plan := none, planSt := .installed }
      else { c with want := g, planSt := .armed }

/-- A rising plan that Sillu has installed takes effect (R144). -/
def Croft.riseAt (c : Croft) : Croft :=
  match c.rise, c.riseOn with
  | some (g, sh), true => { c with want := g, share := sh, rise := none, riseOn := false, released := true }
  | _, _ => c

/-- A round boundary on one croft (R141, R144), at cy t: the old round's slots are used up, the plans are applied, the new round's slots are laid
out from slot `start` of its core's round, but for those in which an ECC freeze stops the Mill (R147), a nest that issued before counts one more
round, and the slots used enter the croft's monitor (R271). -/
def Croft.roundStart (c : Croft) (t start : Nat) : Croft :=
  let c := c.finishRound
  let c := { c with nest := c.nest.map fun (n : Nest) => { n with rounds := n.rounds + 1, closed := n.steps ≤ n.k } }
  let c := (c.fallAt (start == 0 && c.stand ≤ t)).riseAt
  ({ c with slots := c.share, slot := t + start, used := 0, mons := { c.mons with mill := c.mons.mill.sample c.used } } : Croft).idleTo c.stand

/-! ### Landing and draining -/

/-- A nest may land now (R147, R148, R150): its steps have all performed, and where it is late or replayed a round boundary has
passed since. -/
def Nest.canLand (n : Nest) : Bool := n.steps ≤ n.k && (n.closed || !(n.breach || n.replay))

/-- The nest's landing: the live tile takes its new values, QSTAT its flags (R147, R325). -/
def Croft.landNest (c : Croft) : Croft :=
  match c.nest with
  | none => c
  | some n =>
    let l := { n.live with lrec := n.live.lrec ||| (if n.breach && !n.replay then recBREACH else 0) }
    { c.raise n.flags with live := l, nest := none }

/-- The values and flags that MDRAIN gives tile t (R134). -/
def Croft.drainValues (c : Croft) (t : Nat) (add : Bool) : List (BitVec 32) × Flags :=
  let old := if add then c.acmElems t 0 4096 else []
  let rs : List (Nat × Flags) :=
    match c.live.kind with
    | .fp32 =>
      let vs := pad4096 0 c.live.vals
      if add then (old.zip vs).map fun p => accStep p.1.toNat (fp32.value p.2.toNat) else vs.map fun v => (v.toNat, 0)
    | .int32 =>
      let vs := pad4096 0 c.live.vals
      if add then (old.zip vs).map fun p => ((p.1 + p.2).toNat, 0) else vs.map fun v => (v.toNat, 0)
    | .window =>
      let ws := pad4096 {} c.live.wins
      if add then (old.zip ws).map fun p => accStep p.1.toNat (p.2.value c.live.tref)
      else ws.map fun w => joinWins [(c.live.tref, w)]
  (rs.map fun r => BitVec.ofNat 32 r.1, rs.foldl (fun f r => f ||| r.2) 0)

/-- The live record with KIND 0 where the live kind is WINDOW (R134, R177). -/
def Live.drainRec (l : Live) : Word64 := match l.kind with | .window => l.lrec &&& ~~~0x3000#64 | _ => l.lrec

/-- The record MDRAIN gives a tile whose record is `old` (R134). -/
def drainRecord (l : Live) (add : Bool) (old : Word64) : Word64 :=
  if add then l.drainRec ||| (old &&& recFlagMask) else l.drainRec

end Sys2Proof.Machine
end

