-- ==== Sys2Proof/Machine/RowMap.lean ====
section
/-! DEFINITION. Row maps: their layout, the map unit's counting, ageing and migration instant, Gleaner partial entries and the join
of a split product. -/

namespace Sys2Proof.Machine

/-- A row map as its header and entries give it (R171, R172). -/
structure RowMap where
  nrows : Nat
  h     : Nat
  wfmt  : Nat
  ks    : Nat
  age   : Nat
  wbase : Nat
  wstr  : Nat
  gbase : Nat
  gen   : Nat
  cnt   : List Nat
  plc   : List Nat
  deriving DecidableEq, Repr

/-- The bytes of a map: its header and its entries (R171). -/
def RowMap.size (m : RowMap) : Nat := 64 + 4 * m.nrows
/-- The map's extent under R50: rounded up to 64 bytes (R317). -/
def RowMap.extent (m : RowMap) : Nat := 64 * ceilDiv m.size 64

/-- No number stands twice in a list. -/
def distinct : List Nat → Bool
  | [] => true
  | x :: xs => !xs.contains x && distinct xs

/-- Read a map (R171, R172): none where the header or an entry breaks its layout or the map runs past the scratchpad. -/
def readMap (m : Memory) (a : Nat) : Option RowMap :=
  let f (o n : Nat) : Nat := m.le (a + o) n
  let n := f 0 2
  let ents := (List.range n).map fun k => f (64 + 4 * k) 4
  let mp : RowMap :=
    { nrows := n, h := f 2 1, wfmt := f 3 1, ks := f 4 2, age := f 6 1, wbase := f 8 8, wstr := f 16 4, gbase := f 20 4, gen := f 24 2
      cnt := ents.map (· / 2 ^ 16), plc := ents.map fun e => e / 256 % 256 }
  if spSize < a + 64 || !(1 ≤ n && n ≤ 64) || spSize < a + mp.size then none
  else if !(1 ≤ mp.h && mp.h ≤ n && mp.wfmt ≤ 10 && 1 ≤ mp.ks && mp.ks ≤ 512 && mp.age ≤ 15 && f 7 1 == 0
      && mp.wbase < 2 ^ 53 && mp.wbase % 64 == 0 && mp.wstr % 64 == 0 && mp.ks * (opFmt mp.wfmt).rowBytes ≤ mp.wstr
      && mp.gbase % 65536 == 0 && mp.gbase < spSize && f 26 38 == 0) then none
  else if !(ents.all fun e => e % 256 == 0 && (e / 256 % 256 == 0xFF || e / 256 % 256 < mp.h)) then none
  else if !distinct (mp.plc.filter (· != 0xFF)) then none
  else some mp

/-- The map's bytes after a change of counters, placements and generation. -/
def RowMap.bytes (mp : RowMap) (header : List Byte) : List Byte :=
  header.take 24 ++ leBytes 2 mp.gen ++ header.drop 26
    ++ (mp.cnt.zip mp.plc).flatMap fun p => leBytes 4 (p.1 * 2 ^ 16 + p.2 * 256)

/-- An element fires (R173): a bit of it other than a float's sign is 1. -/
def fires (tag : Nat) (v : BitVec 32) : Bool :=
  if floatTag tag then v.toNat % 2 ^ (tagWidth tag - 1) != 0 else v.toNat % 2 ^ tagWidth tag != 0

/-- MFIRE's effect on the counters (R173). -/
def RowMap.fire (mp : RowMap) (v : VReg) : RowMap :=
  { mp with cnt := (mp.cnt.zip (elems v.runs)).map fun p => if fires v.tag p.2 then Nat.min (p.1 + 1) 65535 else p.1 }

/-- MAGE's effect on the counters (R173). -/
def RowMap.ageing (mp : RowMap) : RowMap := { mp with cnt := mp.cnt.map fun c => c / 2 ^ mp.age }

/-- The state of the migration instant (R174): placements, the slots changed so far, whether promotion has stopped. -/
structure Place where
  plc     : List Nat
  changed : List Nat := []
  stop    : Bool := false
  deriving DecidableEq, Repr

/-- Row j stands above row k in rank order: CNT descending, then row index ascending (R174). -/
def ranksAbove (cnt : List Nat) (j k : Nat) : Bool :=
  cnt.getD k 0 < cnt.getD j 0 || (cnt.getD k 0 == cnt.getD j 0 && j < k)

/-- Insert a row into a list in rank order. -/
def insertRank (cnt : List Nat) (k : Nat) : List Nat → List Nat
  | [] => [k]
  | j :: js => if ranksAbove cnt j k then j :: insertRank cnt k js else k :: j :: js

/-- Rows sorted into rank order. -/
def rankSort (cnt : List Nat) (rows : List Nat) : List Nat := rows.foldr (insertRank cnt) []

/-- Note a slot as changed. -/
def Place.touch (p : Place) (j : Nat) : Place := if p.changed.contains j then p else { p with changed := j :: p.changed }

/-- Demotion of hot row k (R174). -/
def Place.demote (cnt : List Nat) (demo : Nat) (p : Place) (k : Nat) : Place :=
  let j := p.plc.getD k 0xFF
  if j != 0xFF && cnt.getD k 0 < demo && p.changed.length < 15 then ({ p with plc := p.plc.set k 0xFF }).touch j else p

/-- Promotion of cold row c (R174). -/
def Place.promote (cnt : List Nat) (h : Nat) (p : Place) (c : Nat) : Place :=
  if p.stop then p
  else
    let free := (List.range h).find? fun j => !p.plc.contains j
    let hot := rankSort cnt ((List.range p.plc.length).filter fun k => p.plc.getD k 0xFF != 0xFF)
    let v := hot.getLast?
    match free, v with
    | some j, _ =>
      if !p.changed.contains j && p.changed.length == 15 then { p with stop := true }
      else ({ p with plc := p.plc.set c j }).touch j
    | none, some v =>
      let j := p.plc.getD v 0xFF
      if cnt.getD c 0 ≤ cnt.getD v 0 then { p with stop := true }
      else if !p.changed.contains j && p.changed.length == 15 then { p with stop := true }
      else ({ p with plc := (p.plc.set v 0xFF).set c j }).touch j
    | none, none => { p with stop := true }

/-- The row in a slot, 0xFFFF for none. -/
def rowIn (plc : List Nat) (j : Nat) : Nat :=
  match (List.range plc.length).find? fun k => plc.getD k 0xFF == j with
  | some k => k
  | none => 0xFFFF

/-- The migration instant (R174): the map after it and the QR entries, summary first. -/
def RowMap.place (mp : RowMap) (prom demo : Nat) : RowMap × List Word64 :=
  let p := (List.range mp.nrows).foldl (Place.demote mp.cnt demo) { plc := mp.plc }
  let cold := rankSort mp.cnt ((List.range mp.nrows).filter fun k => p.plc.getD k 0xFF == 0xFF && prom ≤ mp.cnt.getD k 0)
  let p := cold.foldl (Place.promote mp.cnt mp.h) p
  let slots := (List.range mp.h).filter p.changed.contains
  let gen := if slots.isEmpty then mp.gen else (mp.gen + 1) % 2 ^ 16
  let hot := (p.plc.filter (· != 0xFF)).length
  let summary := 2 * 2 ^ 56 + gen * 2 ^ 40 + hot * 2 ^ 16 + slots.length
  let move (j : Nat) : Nat := 2 ^ 56 + rowIn p.plc j * 2 ^ 32 + rowIn mp.plc j * 2 ^ 16 + j
  ({ mp with plc := p.plc, gen := gen }, (summary :: slots.map move).map (BitVec.ofNat 64))

/-! ### Map instructions (R173, R317) -/

/-- The address in units of 64 bytes that stands in bits [28:14] of an operand word. -/
def base64 (p : Payload) : Nat := 64 * fld p 28 14

/-- MFIRE's vector (R173): none where it breaks R371 or its LEN differs from NROWS. -/
def fireVector (m : Memory) (a nrows : Nat) : Option VReg :=
  let h := m.header a
  let ps := m.pairs a (hdrPairs h)
  if hdrOk h && packedOk h ps && hdrLen h == nrows then some (packedVector h ps) else none

/-- The stored length of MFIRE's vector: its header and pairs, the header alone where it is broken (DEDUCED, log 27). -/
def fireLen (m : Memory) (a : Nat) : Nat := if hdrOk (m.header a) then 8 + 8 * hdrPairs (m.header a) else 8

/-- The bytes of a map at an address: its header and the entries that the header counts (R171). -/
def mapReach (m : Memory) (a : Nat) : SpAcc := ⟨a, 64 + 4 * Nat.min 64 (m.le a 2), false⟩

/-- The map at an address, once its banks are awake (R138): BOUNDS where it breaks R171 or R172 or touches a bank that is down (R317). -/
def Croft.mapAt (c : Croft) (a : Nat) : Except Stop RowMap := do
  c.spAwake [mapReach c.sp a]
  match readMap c.sp a with
  | none => .error (.fault { code := .bounds, addr := (joinAddr .sp a).toNat })
  | some mp => do
    c.spBounds [⟨a, mp.extent, false⟩]
    .ok mp

/-- The checks of a map instruction in R317's order, with MFIRE's vector where there is one. -/
def Croft.mapChecks (c : Croft) (a : Nat) (vec : Option Nat) : Except Stop (RowMap × VReg) := do
  c.mapFree
  let mp ← c.mapAt a
  let vecs : List (Nat × Nat) := match vec with | some v => [(v, fireLen c.sp v)] | none => []
  let reads : List SpAcc := vecs.map fun r => ⟨r.1, r.2, false⟩
  c.spAwake reads
  c.spBounds reads
  match lowest ((c.phaseOf .M).outside ⟨a, mp.extent, true⟩) (c.outsideReads vecs) with
  | some x => .error (.fault { code := .hedge, addr := (joinAddr .sp x).toNat })
  | none => .ok ()
  let r ← match vec with
    | none => .ok {}
    | some v => match fireVector c.sp v mp.nrows with
      | none => .error (.flt .lenmis)
      | some r => .ok r
  .ok (mp, r)

/-- Land a changed map (R173, R174). -/
def Croft.landMap (c : Croft) (i : Instr) (sig lat a : Nat) (mp : RowMap) (replies : List Word64) : Croft :=
  c.land .M i sig lat (.map a (mp.bytes (c.sp.readN a 64)) replies)

/-! ### Partial entries and MJOIN (R112, R176, R177) -/

/-- The Gleaners' partial entry (m, k) as 16 bytes (R176). -/
def partialBytes (gen : Nat) (ref : Int) (w : Win) : List Byte :=
  leBytes 16 (gen % 2 ^ 16 * 2 ^ 107 + (ref % 512).toNat * 2 ^ 98 + w.st * 2 ^ 96 + (w.w % 2 ^ 96).toNat)

/-- A partial entry as its reference and window (R176). -/
def partialOf (n : Nat) : Int × Win := (signedOf 9 (n / 2 ^ 98 % 512), ⟨signedOf 96 (n % 2 ^ 96), n / 2 ^ 96 % 4⟩)

/-- The GEN of a partial entry. -/
def partialGen (n : Nat) : Nat := n / 2 ^ 107 % 2 ^ 16

/-- MJOIN's checks of R177 in the order written there. -/
def Croft.joinChecks (c : Croft) (a : Nat) : Except Stop RowMap := do
  need (c.live.kind == .window) (.flt .illop)
  let mp ← c.mapAt a
  c.spBounds [⟨mp.gbase, 65536, false⟩]
  need (partialGen (c.sp.le mp.gbase 16) == mp.gen) (.fault { code := .schedclash, aux := 0xFF })
  match c.outsideReads [(a, mp.extent), (mp.gbase, 65536)] with
  | some x => .error (.fault { code := .hedge, addr := (joinAddr .sp x).toNat })
  | none => .ok ()
  c.spAwake [⟨a, mp.extent, false⟩, ⟨mp.gbase, 65536, false⟩]
  .ok mp

/-- The values MJOIN gives a tile (R177). -/
def Croft.joinValues (c : Croft) (mp : RowMap) : List (BitVec 32) × Flags :=
  let rs := (List.range 4096).map fun i =>
    let m := i / 64
    let k := i % 64
    if mp.nrows ≤ k then (0, 0)
    else
      let p := partialOf (c.sp.le (mp.gbase + (64 * m + k) * 16) 16)
      let j := mp.plc.getD k 0xFF
      if j == 0xFF then joinWins [p] else joinWins [(c.live.tref, c.live.win (64 * m + j)), p]
  (rs.map fun r => BitVec.ofNat 32 r.1, rs.foldl (fun f r => f ||| r.2) 0)

/-- A Gleaner's window of activation row and weight chunk products (R176): runs of zero activations add nothing, whatever they stand against, an
infinity or a NaN too (DEDUCED, log 111). -/
def gleanRow (ref : Int) (acts : List FV) (ws : List FV) (w : Win) : Win :=
  (acts.zip ws).foldl (fun w p => if p.1.isZero then w else w.add ref (FV.mul p.1 p.2)) w

end Sys2Proof.Machine
end

