-- ==== Sys2Proof/Machine/Matrix.lean ====
section
/-! DEFINITION. The meanings of the matrix engine's instructions (R69, R316 to R330). -/

namespace Sys2Proof.Machine

/-- MTAB (R124, R328): writes x0 : x1 into a shadow level, landing at 1 vc. -/
def execMtab (t : Tok) (o : MF) (x : Ext) : State → Host.Outcome State Fault Refusal :=
  issueC (.mtab t o x) t fun c => .ok (c.land .M (.mtab t o x) t.sig.toNat 1 (.shadow o.n.toNat x.wide))

/-- The loop-nest table that an MRUN or MRUNB copies (R124). -/
def Croft.shadowTable (c : Croft) : List (BitVec 58) := c.mtab.toList

/-- The live tile that an M instruction continues: that of a nest that still runs, since its kind is set as the nest starts (R123, R325). -/
def Croft.liveNow (c : Croft) : Live := match c.nest with | some n => n.live | none => c.live

/-- An MRUN's table, formats and live kind keep R123 to R128 and R326. -/
def Croft.mrunOk (c : Croft) (o : MF) (x : Ext) : Bool :=
  let fa := fld x.x0 13 10
  let fb := fld x.x0 9 6
  let t := c.shadowTable
  let ref := signedOf 9 (fld x.x1 13 5)
  tableOk t && packOk (fld x.x0 5 5 == 1) t
    && codeIsMxint fa == conFamA c.contract && codeIsMxint fb == conFamB c.contract
    && (!o.fb 3 || (if o.fb 5 then c.liveNow.kind == .window && c.liveNow.tref == ref else c.liveNow.kind == .fp32))

/-- MRUN (R325): the checks of R129, then a nest of K-steps into the live tile. -/
def Croft.mrun (c : Croft) (t : Tok) (o : MF) (x : Ext) : Except Stop Croft := do
  need (c.mrunOk o x) (.flt .illop)
  c.liveFree
  let tab := c.shadowTable
  let n := tableSteps tab
  let fa := fld x.x0 13 10
  let fb := fld x.x0 9 6
  let packed := fld x.x0 5 5 == 1
  let abase := base64 x.x0
  let bbase := base64 x.x1
  let bsz := 64 * (opFmt fb).rowBytes
  let ch := if packed then chainWalk c.sp (· == fa + 1) n abase else {}
  c.spAwake (ch.tiles.map fun r => ⟨r.1, r.2, false⟩)
  let rs := if packed then packedRanges ch tab bbase bsz else nestRanges tab abase bbase (64 * (opFmt fa).rowBytes) bsz
  c.checkNest rs ch.broken
  let w := o.fb 5
  let ref := signedOf 9 (fld x.x1 13 5)
  let nest : Nest :=
    { kind := .run w (o.fb 4), live := c.live, fa := fa, fb := fb, abase := abase, bbase := bbase, packed := packed
      chain := ch.tiles.map (·.1), table := tab, steps := n, walk := ch.lines, len := conRounds c.contract n }
  .ok ({ c with active := c.mtab }.startNest (.mrun t o x) t.sig.toNat (o.fb 3) (if w then .window else .fp32) ref nest)

/-- MRUN (R325). -/
def execMrun (t : Tok) (o : MF) (x : Ext) : State → Host.Outcome State Fault Refusal :=
  issueC (.mrun t o x) t fun c => c.mrun t o x

/-- MRUNB (R131, R327): a nest of binary K-steps into an INT32 live tile. -/
def Croft.mrunb (c : Croft) (t : Tok) (o : MF) (x : Ext) : Except Stop Croft := do
  let tab := c.shadowTable
  need (tableOk tab && packOk false tab && (!o.fb 3 || c.liveNow.kind == .int32)) (.flt .illop)
  c.liveFree
  let n := tableSteps tab
  let abase := base64 x.x0
  let bbase := base64 x.x1
  c.checkNest (nestRanges tab abase bbase 1024 1024) false
  let nest : Nest :=
    { kind := .runb (o.fb 5) (o.fb 4), live := c.live, fa := 0, fb := 0, abase := abase, bbase := bbase, packed := false
      chain := [], table := tab, steps := n, len := conRounds c.contract n }
  .ok ({ c with active := c.mtab }.startNest (.mrunb t o x) t.sig.toNat (o.fb 3) .int32 0 nest)

/-- MRUNB (R327). -/
def execMrunb (t : Tok) (o : MF) (x : Ext) : State → Host.Outcome State Fault Refusal :=
  issueC (.mrunb t o x) t fun c => c.mrunb t o x

/-- The rank of an MLOWR (R69). -/
def lowRank (n : BitVec 3) : Nat := 8 * 2 ^ n.toNat

/-- MLOWR (R132, R321): one K-step of a low-rank correction. -/
def Croft.mlowr (c : Croft) (t : Tok) (o : MF) (x : Ext) : Except Stop Croft := do
  need (!o.fb 3 || c.liveNow.kind != .int32) (.flt .illop)
  c.liveFree
  let r := lowRank o.n
  let u := base64 x.x0
  let v := base64 x.x1
  c.checkNest [(some ((u : Int), 128 * r), ((v : Int), 128 * r))] false
  let nest : Nest :=
    { kind := .lowr r, live := c.live, fa := 1, fb := 1, abase := u, bbase := v, packed := false
      chain := [], table := [], steps := 1, len := conRounds c.contract 1 }
  .ok (c.startNest (.mlowr t o x) t.sig.toNat (o.fb 3) .fp32 0 nest)

/-- MLOWR (R321). -/
def execMlowr (t : Tok) (o : MF) (x : Ext) : State → Host.Outcome State Fault Refusal :=
  issueC (.mlowr t o x) t fun c => c.mlowr t o x

/-- MZERO (R133, R330): a new live tile, which consumes an armed sequence (R324), or an ACM tile of zeros. -/
def Croft.mzero (c : Croft) (t : Tok) (o : MF) (x : Ext) : Except Stop Croft := do
  if o.f == 0 then
    c.liveFree
    .ok ({ c with governs := c.armed, armed := none }.land .M (.mzero t o x) t.sig.toNat 2 (.zeroLive c.armed.isSome))
  else
    c.tilesFree [o.t.toNat]
    .ok (c.land .M (.mzero t o x) t.sig.toNat 2 (.zeroTile o.t.toNat))

/-- MZERO (R330). -/
def execMzero (t : Tok) (o : MF) (x : Ext) : State → Host.Outcome State Fault Refusal :=
  issueC (.mzero t o x) t fun c => c.mzero t o x

/-- MDRAIN (R134, R319): the live tile into tile t's landing buffer, landing at 66 vc. -/
def Croft.mdrain (c : Croft) (t : Tok) (o : MF) (x : Ext) : Except Stop Croft := do
  c.liveFree
  c.tilesFree [o.t.toNat]
  let add := o.fb 0
  let (vs, f) := c.drainValues o.t.toNat add
  let r := drainRecord c.live add (vget c.records 0 o.t.toNat)
  .ok (c.land .M (.mdrain t o x) t.sig.toNat 66 (.tile o.t.toNat vs r f))

/-- MDRAIN (R319). -/
def execMdrain (t : Tok) (o : MF) (x : Ext) : State → Host.Outcome State Fault Refusal :=
  issueC (.mdrain t o x) t fun c => c.mdrain t o x

/-- MJOIN (R177, R320): live windows and Gleaner partials joined into tile t's landing buffer, landing at 70 vc (R147). -/
def Croft.mjoin (c : Croft) (t : Tok) (o : MF) (x : Ext) : Except Stop Croft := do
  c.liveFree
  c.mapFree
  c.tilesFree [o.t.toNat]
  let mp ← c.joinChecks (base64 x.x0)
  let (vs, f) := c.joinValues mp
  .ok (c.land .M (.mjoin t o x) t.sig.toNat 70 (.tile o.t.toNat vs c.live.drainRec f))

/-- MJOIN (R320). -/
def execMjoin (t : Tok) (o : MF) (x : Ext) : State → Host.Outcome State Fault Refusal :=
  issueC (.mjoin t o x) t fun c => c.mjoin t o x

/-- MREC (R323): a tile's record into QR at 2 vc, once QR has room. -/
def Croft.mrec (c : Croft) (t : Tok) (o : MF) (x : Ext) : Except Stop Croft := do
  need (c.qr.length + c.pendR < 16 && !c.placing) .wait
  .ok (c.land .M (.mrec t o x) t.sig.toNat 2 (.pushR [vget c.records 0 o.t.toNat]))

/-- MREC (R323). -/
def execMrec (t : Tok) (o : MF) (x : Ext) : State → Host.Outcome State Fault Refusal :=
  issueC (.mrec t o x) t fun c => c.mrec t o x

/-- A record's grade sequence may be armed under a contract (R150). -/
def armable (contract r : Word64) : Bool :=
  recG0 r != 0
    && (recGrades r).all fun g => conFloor contract ≤ g && g ≤ conCeil contract && onLadders contract g

/-- MREPLAY (R150, R324): arms a tile's grade sequence at 1 vc; ILLOP in FIXED mode or where the record cannot govern. -/
def Croft.mreplay (c : Croft) (t : Tok) (o : MF) (x : Ext) : Except Stop Croft := do
  let r := vget c.records 0 o.t.toNat
  need (c.mode == .score && armable c.contract r) (.flt .illop)
  .ok (c.land .M (.mreplay t o x) t.sig.toNat 1 (.armReplay (r &&& recGradeMask)))

/-- MREPLAY (R324). -/
def execMreplay (t : Tok) (o : MF) (x : Ext) : State → Host.Outcome State Fault Refusal :=
  issueC (.mreplay t o x) t fun c => c.mreplay t o x

/-- MFIRE (R173, R317): counts the rows whose vector element fires. -/
def Croft.mfire (c : Croft) (t : Tok) (o : MF) (x : Ext) : Except Stop Croft := do
  let a := base64 x.x0
  let (mp, v) ← c.mapChecks a (some (base64 x.x1))
  .ok (c.landMap (.mfire t o x) t.sig.toNat (8 + ceilDiv mp.nrows 16) a (mp.fire v) [])

/-- MFIRE (R317). -/
def execMfire (t : Tok) (o : MF) (x : Ext) : State → Host.Outcome State Fault Refusal :=
  issueC (.mfire t o x) t fun c => c.mfire t o x

/-- MAGE (R173, R317): shifts every counter down. -/
def Croft.mage (c : Croft) (t : Tok) (o : MF) (x : Ext) : Except Stop Croft := do
  let a := base64 x.x0
  let (mp, _) ← c.mapChecks a none
  .ok (c.landMap (.mage t o x) t.sig.toNat (4 + ceilDiv mp.nrows 16) a mp.ageing [])

/-- MAGE (R317). -/
def execMage (t : Tok) (o : MF) (x : Ext) : State → Host.Outcome State Fault Refusal :=
  issueC (.mage t o x) t fun c => c.mage t o x

/-- MPLACE (R174, R317): the migration instant, once QR is empty and no push into it is pending; ILLOP where DEMO is above PROM. -/
def Croft.mplace (c : Croft) (t : Tok) (o : MF) (x : Ext) : Except Stop Croft := do
  need (c.qr.isEmpty && c.pendR == 0) .wait
  need (fld x.x1 14 1 ≤ fld x.x1 28 15) (.flt .illop)
  let a := base64 x.x0
  let (mp, _) ← c.mapChecks a none
  let (mp', rs) := mp.place (4 * fld x.x1 28 15) (4 * fld x.x1 14 1)
  .ok (c.landMap (.mplace t o x) t.sig.toNat (16 + ceilDiv mp.nrows 4) a mp' rs)

/-- MPLACE (R317). -/
def execMplace (t : Tok) (o : MF) (x : Ext) : State → Host.Outcome State Fault Refusal :=
  issueC (.mplace t o x) t fun c => c.mplace t o x

end Sys2Proof.Machine
end

