-- ==== Sys2Proof/Machine/Landing.lean ====
section
/-! DEFINITION. What a fixed-latency result does when it lands: registers, queues, memories, barrier objects, and the faults that are
taken at landing. -/

namespace Sys2Proof.Machine

/-! ### Barrier objects (R168, R169) -/

/-- A barrier object is idle (R168). -/
def Barrier.idle (b : Barrier) : Bool := b.ini == 0

/-- ABARV's effect with count n, where the object is not idle (R168): PHASE counts the phases completed. -/
def Barrier.arv (b : Barrier) (n : Nat) : Barrier :=
  if n < b.pend then { b with pend := b.pend - n }
  else
    let m := n - b.pend
    { b with pend := b.ini - m % b.ini, phase := (b.phase + 1 + m / b.ini) % 2 ^ 64 }

/-- A command's arrival at a barrier object (R169). An object that has become idle takes nothing. -/
def Croft.barrierArrive (c : Croft) (k : Option Nat) : Croft :=
  match k with
  | none => c
  | some k =>
    let b := vget c.abs {} k
    if b.idle then c else { c with abs := vset c.abs k (b.arv 1) }

/-! ### ATOM's operation (R221) -/

/-- The new value of an ATOM's unit of n bits, and its flags: operation, old value, compare value, operand. -/
def atomNew (n op old cmp v : Nat) : Nat × Flags :=
  let v := v % 2 ^ n
  let cmp := cmp % 2 ^ n
  let so := signedOf n old
  let sv := signedOf n v
  match op with
  | 0 => ((old + v) % 2 ^ n, 0)
  | 1 => (old &&& v, 0)
  | 2 => (old ||| v, 0)
  | 3 => (old ^^^ v, 0)
  | 4 => (if sv < so then v else old, 0)
  | 5 => (if so < sv then v else old, 0)
  | 6 => (Nat.min old v, 0)
  | 7 => (Nat.max old v, 0)
  | 8 => (v, 0)
  | 9 => (if old == cmp then v else old, 0)
  | _ => rne32 (FV.add (fp32.value old) (fp32.value v))

/-- The ATOM writes its unit: a CAS whose comparison fails does not (R221). -/
def atomWrites (n op old cmp : Nat) : Bool := op != 9 || old == cmp % 2 ^ n

/-! ### Queues filled in program order (R220) -/

/-- Fill the slot with an id. -/
def fillSlot {α : Type} (id : Nat) (v : α) (q : List (Slot α)) : List (Slot α) :=
  q.map fun s => if s.id == id then { s with val := some v } else s

/-- Fill a QC slot. -/
def Croft.fillQc (c : Croft) (id : Nat) (v : Word64) : Croft := { c with qc := fillSlot id v c.qc }
/-- Fill a QV slot. -/
def Croft.fillQv (c : Croft) (q id : Nat) (v : VReg) : Croft := { c with qv := vset c.qv q (fillSlot id v (vget c.qv [] q)) }
/-- Fill a QG slot. -/
def Croft.fillQg (c : Croft) (id : Nat) (v : BitVec 512) : Croft := { c with qg := fillSlot id v c.qg }

/-! ### Run registers -/

/-- Split a .W result between the members of a pair (R155). -/
def Croft.setV (c : Croft) (w : Bool) (d : Nat) (v : VReg) : Croft :=
  if w then { c with v := vset (vset c.v d ⟨v.tag, v.runs.take 64⟩) (d + 1) ⟨v.tag, v.runs.drop 64⟩ }
  else { c with v := vset c.v d v }

/-! ### Landing -/

/-- The fault a result raises at its landing, none where it lands (R223, R225): RUNOVF, LENMIS, ABOVF, and LENMIS or BOUNDS of a
packed STQ's header. -/
def Croft.landFault (c : Croft) (p : Pending) : Option Flt :=
  match p.op with
  | .vfault f => some { code := f }
  | .vpop _ _ none => some { code := .runovf }
  | .abInit k n => if n == 0 then some { code := .abovf, aux := k } else none
  | .abExp k n =>
    let b := vget c.abs {} k
    if b.idle || 2 ^ 20 - 1 < b.pend + n then some { code := .abovf, aux := k } else none
  | .abArv k _ => if (vget c.abs {} k).idle then some { code := .abovf, aux := k } else none
  | _ => none

/-- The sum that VWRA with the add bit gives one element (R362). -/
def rowAdd (tag : Nat) (t x : BitVec 32) : BitVec 32 × Flags :=
  if tag == 0 then
    let r := accStep t.toNat (fp32.value x.toNat)
    (BitVec.ofNat 32 r.1, r.2)
  else (t + x, 0)

/-- Write a row of an ACM tile (R362): plainly, or added element by element. -/
def Croft.landRow (c : Croft) (t r : Nat) (add : Option Nat) (vals : List (BitVec 32)) : Croft :=
  match add with
  | none => c.acmPut t (64 * r) vals
  | some tag =>
    let rs := ((c.acmElems t (64 * r) 64).zip vals).map fun p => rowAdd tag p.1 p.2
    (c.acmPut t (64 * r) (rs.map (·.1))).raise (rs.foldl (fun f x => f ||| x.2) 0)

/-- ATOM on scratchpad, performed whole (R278). -/
def Croft.landAtom (c : Croft) (a size op : Nat) (cmp v : Word64) (reply : Option Nat) : Croft :=
  let n := 8 * size
  let old := c.sp.le a size
  let r := atomNew n op old cmp.toNat v.toNat
  let c := if atomWrites n op old cmp.toNat then (c.spWrite a (leBytes size r.1)).raise r.2 else c
  match reply with
  | none => c
  | some id => c.fillQc id (BitVec.ofNat 64 old)

/-- A WRCR lands (R364). -/
def Croft.landCr (c : Croft) (k : Nat) (v : Word64) : Croft :=
  if k == 3 then { c with qstat := qstatOf v } else if k == 7 then { c with handler := v } else { c with rngseed := v }

/-- The effect of a result at its landing (R44, R74). -/
def Croft.landOp (c : Croft) (op : LandOp) : Croft :=
  match op with
  | .nothing | .vfault _ => c
  | .setS d v => { c with s := vset c.s d v }
  | .setB d v => { c with b := vset c.b d v }
  | .pushA v => { c with qa := c.qa ++ [v] }
  | .pushS v => { c with qs := c.qs ++ [v] }
  | .setCr k v => c.landCr k v
  | .setV w d b r =>
    let c := (c.setV w d r.vd).raise r.flags
    match r.side with
    | none => c
    | some s => c.setV w b s
  | .vpop d q r =>
    match r with
    | none => c
    | some v => { c with qv := vset c.qv q (vget c.qv [] q).tail }.setV false d v
  | .fill _ id v => c.fillQc id v
  | .fillV q id v => c.fillQv q id v
  | .fillG id v => c.fillQg id v
  | .store space a bytes => c.localWrite space a bytes
  | .atomSp a size op cmp v reply => c.landAtom a size op cmp v reply
  | .zflags b n d => c.zflagLand b n d
  | .gates lo hi up => c.landGates lo hi up
  | .abInit k n => { c with abs := vset c.abs k { ini := n, pend := n } }
  | .abExp k n => { c with abs := vset c.abs k { vget c.abs {} k with pend := (vget c.abs {} k).pend + n } }
  | .abArv k n => { c with abs := vset c.abs k ((vget c.abs {} k).arv n) }
  | .shadow n v => { c with mtab := vset c.mtab n v }
  | .armReplay r => { c with armed := some r }
  | .zeroLive replay => { c with live := Live.start .fp32 0 replay }
  | .zeroTile t => { c.acmPut t 0 (List.replicate 4096 0) with records := vset c.records t 0 }
  | .tile t vs r f => { (c.acmPut t 0 vs).raise f with records := vset c.records t r }
  | .pushR vs => { c with qr := c.qr ++ vs }
  | .map a bytes rs => { c.spWrite a bytes with qr := c.qr ++ rs }
  | .wrow t r add vals => c.landRow t r add vals
  | .nest => c.landNest

/-- A result lands: its effect, then its signal token (R39); a scratchpad write may end a fence's hold (R296). -/
def Croft.landDone (c : Croft) (p : Pending) : Croft :=
  let c := (c.landOp p.op).pushSig p.eng p.sig
  if p.spWrite.isSome then c.pruneFences else c

/-- A result may land now: a nest only once its steps have performed (R148, R150), a push into QS only once no transfer of a VPUSH is under
way (R159, R163). -/
def Croft.mayLand (c : Croft) (p : Pending) : Bool :=
  match p.op with
  | .pushS _ => c.vpush.isNone
  | .nest => match c.nest with | none => true | some n => n.canLand
  | _ => true

/-- What a result in flight writes, for the scoreboard; one that faults at landing holds everything it names. -/
def Pending.writes (p : Pending) : List Res :=
  match p.op with
  | .vfault _ => usesOf p.ins
  | op => op.writes

end Sys2Proof.Machine
end

