-- ==== Sys2Proof/Machine/Vector.lean ====
section
/-! DEFINITION. The meanings of the vector engine's instructions (R70, R343 to R362): operands are read at issue, and Vd, its flags
or its fault come at the landing of R74. -/

namespace Sys2Proof.Machine

/-- A source operand: one run register, or the pair a .W form names (R155). -/
def Croft.vsrc (c : Croft) (w : Bool) (n : Nat) : Except VErr VReg :=
  if w then readPair (vget c.v {} n) (vget c.v {} (n + 1)) else .ok (vget c.v {} n)

/-- A latency of R74: four vc more for the .W form. -/
def vlat (l : Nat) (w : Bool) : Nat := if w then l + 4 else l

/-- A fault of R158. -/
def VErr.code : VErr → FCode
  | .lenmis => .lenmis
  | .runovf => .runovf

/-- Issue a vector result: it lands as Vd, or as the fault it raises at landing (R158). -/
def Croft.vland (c : Croft) (i : Instr) (sig lat : Nat) (w : Bool) (d side : Nat) (r : Except VErr VRes) : Croft :=
  match r with
  | .ok v => c.land .V i sig lat (.setV w d side v)
  | .error e => c.land .V i sig lat (.vfault e.code)

/-- VADD (R343): element-wise sum. -/
def vaddValue (o : VF) (x : Ext) (c : Croft) : Except VErr VRes :=
  do
    let a ← c.vsrc o.w o.a.toNat
    let b ← c.vsrc o.w o.b.toNat
    vArith addF addI x.vsat o.w [a, b]

/-- VADD (R343). -/
def execVadd (t : Tok) (o : VF) (x : Ext) : State → Host.Outcome State Fault Refusal :=
  issueC (.vadd t o x) t fun c => .ok (c.vland (.vadd t o x) t.sig.toNat (vlat 8 o.w) o.w o.d.toNat 32 (vaddValue o x c))

/-- VSUB (R349): element-wise difference. -/
def vsubValue (o : VF) (x : Ext) (c : Croft) : Except VErr VRes :=
  do
    let a ← c.vsrc o.w o.a.toNat
    let b ← c.vsrc o.w o.b.toNat
    vArith subF subI x.vsat o.w [a, b]

/-- VSUB (R349). -/
def execVsub (t : Tok) (o : VF) (x : Ext) : State → Host.Outcome State Fault Refusal :=
  issueC (.vsub t o x) t fun c => .ok (c.vland (.vsub t o x) t.sig.toNat (vlat 8 o.w) o.w o.d.toNat 32 (vsubValue o x c))

/-- VMUL (R349): element-wise product. -/
def vmulValue (o : VF) (x : Ext) (c : Croft) : Except VErr VRes :=
  do
    let a ← c.vsrc o.w o.a.toNat
    let b ← c.vsrc o.w o.b.toNat
    vArith mulF mulI x.vsat o.w [a, b]

/-- VMUL (R349). -/
def execVmul (t : Tok) (o : VF) (x : Ext) : State → Host.Outcome State Fault Refusal :=
  issueC (.vmul t o x) t fun c => .ok (c.vland (.vmul t o x) t.sig.toNat (vlat 8 o.w) o.w o.d.toNat 32 (vmulValue o x c))

/-- VFMA (R349): x · y + z with one rounding. -/
def vfmaValue (o : VF) (x : Ext) (c : Croft) : Except VErr VRes :=
  do
    let a ← c.vsrc o.w o.a.toNat
    let b ← c.vsrc o.w o.b.toNat
    let c ← c.vsrc o.w x.vc
    vArith fmaF fmaI x.vsat o.w [a, b, c]

/-- VFMA (R349). -/
def execVfma (t : Tok) (o : VF) (x : Ext) : State → Host.Outcome State Fault Refusal :=
  issueC (.vfma t o x) t fun c => .ok (c.vland (.vfma t o x) t.sig.toNat (vlat 8 o.w) o.w o.d.toNat 32 (vfmaValue o x c))

/-- VMIN (R349): the lesser element. -/
def vminValue (o : VF) (c : Croft) : Except VErr VRes :=
  do
    let a ← c.vsrc o.w o.a.toNat
    let b ← c.vsrc o.w o.b.toNat
    vMinMax false o.w [a, b]

/-- VMIN (R349). -/
def execVmin (t : Tok) (o : VF) (x : Ext) : State → Host.Outcome State Fault Refusal :=
  issueC (.vmin t o x) t fun c => .ok (c.vland (.vmin t o x) t.sig.toNat (vlat 8 o.w) o.w o.d.toNat 32 (vminValue o c))

/-- VMAX (R349): the greater element. -/
def vmaxValue (o : VF) (c : Croft) : Except VErr VRes :=
  do
    let a ← c.vsrc o.w o.a.toNat
    let b ← c.vsrc o.w o.b.toNat
    vMinMax true o.w [a, b]

/-- VMAX (R349). -/
def execVmax (t : Tok) (o : VF) (x : Ext) : State → Host.Outcome State Fault Refusal :=
  issueC (.vmax t o x) t fun c => .ok (c.vland (.vmax t o x) t.sig.toNat (vlat 8 o.w) o.w o.d.toNat 32 (vmaxValue o c))

/-- VABS (R343): absolute values. -/
def vabsValue (o : VF) (c : Croft) : Except VErr VRes :=
  do
    let a ← c.vsrc o.w o.a.toNat
    vUnary absElem o.w a

/-- VABS (R343). -/
def execVabs (t : Tok) (o : VF) (x : Ext) : State → Host.Outcome State Fault Refusal :=
  issueC (.vabs t o x) t fun c => .ok (c.vland (.vabs t o x) t.sig.toNat (vlat 8 o.w) o.w o.d.toNat 32 (vabsValue o c))

/-- VNEG (R349): negated values. -/
def vnegValue (o : VF) (c : Croft) : Except VErr VRes :=
  do
    let a ← c.vsrc o.w o.a.toNat
    vUnary negElem o.w a

/-- VNEG (R349). -/
def execVneg (t : Tok) (o : VF) (x : Ext) : State → Host.Outcome State Fault Refusal :=
  issueC (.vneg t o x) t fun c => .ok (c.vland (.vneg t o x) t.sig.toNat (vlat 8 o.w) o.w o.d.toNat 32 (vnegValue o c))

/-- VCMP (R344): a MASK of the elements for which the condition holds. -/
def vcmpValue (o : VF) (x : Ext) (c : Croft) : Except VErr VRes :=
  do
    let a ← c.vsrc o.w o.a.toNat
    let b ← c.vsrc o.w o.b.toNat
    vCmp x.vcnd o.w [a, b]

/-- VCMP (R344). -/
def execVcmp (t : Tok) (o : VF) (x : Ext) : State → Host.Outcome State Fault Refusal :=
  issueC (.vcmp t o x) t fun c => .ok (c.vland (.vcmp t o x) t.sig.toNat (vlat 8 o.w) o.w o.d.toNat 32 (vcmpValue o x c))

/-- VSEL (R352): selection under a mask. -/
def vselValue (o : VF) (x : Ext) (c : Croft) : Except VErr VRes :=
  do
    let a ← c.vsrc o.w o.a.toNat
    let b ← c.vsrc o.w o.b.toNat
    let c ← c.vsrc o.w x.vc
    vSel o.w c a b

/-- VSEL (R352). -/
def execVsel (t : Tok) (o : VF) (x : Ext) : State → Host.Outcome State Fault Refusal :=
  issueC (.vsel t o x) t fun c => .ok (c.vland (.vsel t o x) t.sig.toNat (vlat 8 o.w) o.w o.d.toNat 32 (vselValue o x c))

/-- VAND (R343): bitwise AND. -/
def vandValue (o : VF) (c : Croft) : Except VErr VRes :=
  do
    let a ← c.vsrc o.w o.a.toNat
    let b ← c.vsrc o.w o.b.toNat
    vLogic (· &&& ·) o.w [a, b]

/-- VAND (R343). -/
def execVand (t : Tok) (o : VF) (x : Ext) : State → Host.Outcome State Fault Refusal :=
  issueC (.vand t o x) t fun c => .ok (c.vland (.vand t o x) t.sig.toNat (vlat 8 o.w) o.w o.d.toNat 32 (vandValue o c))

/-- VOR (R351): bitwise OR. -/
def vorValue (o : VF) (c : Croft) : Except VErr VRes :=
  do
    let a ← c.vsrc o.w o.a.toNat
    let b ← c.vsrc o.w o.b.toNat
    vLogic (· ||| ·) o.w [a, b]

/-- VOR (R351). -/
def execVor (t : Tok) (o : VF) (x : Ext) : State → Host.Outcome State Fault Refusal :=
  issueC (.vor t o x) t fun c => .ok (c.vland (.vor t o x) t.sig.toNat (vlat 8 o.w) o.w o.d.toNat 32 (vorValue o c))

/-- VXOR (R351): bitwise XOR. -/
def vxorValue (o : VF) (c : Croft) : Except VErr VRes :=
  do
    let a ← c.vsrc o.w o.a.toNat
    let b ← c.vsrc o.w o.b.toNat
    vLogic (· ^^^ ·) o.w [a, b]

/-- VXOR (R351). -/
def execVxor (t : Tok) (o : VF) (x : Ext) : State → Host.Outcome State Fault Refusal :=
  issueC (.vxor t o x) t fun c => .ok (c.vland (.vxor t o x) t.sig.toNat (vlat 8 o.w) o.w o.d.toNat 32 (vxorValue o c))

/-- VNOT (R351): bitwise NOT. -/
def vnotValue (o : VF) (c : Croft) : Except VErr VRes :=
  do
    let a ← c.vsrc o.w o.a.toNat
    vLogic (fun u _ => 2 ^ 32 - 1 - u % 2 ^ 32) o.w [a]

/-- VNOT (R351). -/
def execVnot (t : Tok) (o : VF) (x : Ext) : State → Host.Outcome State Fault Refusal :=
  issueC (.vnot t o x) t fun c => .ok (c.vland (.vnot t o x) t.sig.toNat (vlat 8 o.w) o.w o.d.toNat 32 (vnotValue o c))

/-- VSHL (R351): shift left, by elements or by the immediate. -/
def vshlValue (o : VF) (x : Ext) (c : Croft) : Except VErr VRes :=
  do
    let a ← c.vsrc o.w o.a.toNat
    if o.b == 0 && x.count == 2 then vShiftImm false o.w x.vimm a
    else do
      let b ← c.vsrc o.w o.b.toNat
      vShift false o.w [a, b]

/-- VSHL (R351). -/
def execVshl (t : Tok) (o : VF) (x : Ext) : State → Host.Outcome State Fault Refusal :=
  issueC (.vshl t o x) t fun c => .ok (c.vland (.vshl t o x) t.sig.toNat (vlat 8 o.w) o.w o.d.toNat 32 (vshlValue o x c))

/-- VSHR (R351): shift right, by elements or by the immediate. -/
def vshrValue (o : VF) (x : Ext) (c : Croft) : Except VErr VRes :=
  do
    let a ← c.vsrc o.w o.a.toNat
    if o.b == 0 && x.count == 2 then vShiftImm true o.w x.vimm a
    else do
      let b ← c.vsrc o.w o.b.toNat
      vShift true o.w [a, b]

/-- VSHR (R351). -/
def execVshr (t : Tok) (o : VF) (x : Ext) : State → Host.Outcome State Fault Refusal :=
  issueC (.vshr t o x) t fun c => .ok (c.vland (.vshr t o x) t.sig.toNat (vlat 8 o.w) o.w o.d.toNat 32 (vshrValue o x c))

/-- VRND (R353): rounding to integral values. -/
def vrndValue (o : VF) (x : Ext) (c : Croft) : Except VErr VRes :=
  do
    let a ← c.vsrc o.w o.a.toNat
    vRnd x.vrnd o.w a

/-- VRND (R353). -/
def execVrnd (t : Tok) (o : VF) (x : Ext) : State → Host.Outcome State Fault Refusal :=
  issueC (.vrnd t o x) t fun c => .ok (c.vland (.vrnd t o x) t.sig.toNat (vlat 8 o.w) o.w o.d.toNat 32 (vrndValue o x c))

/-- VSCALB (R353): scaling by a power of two. -/
def vscalbValue (o : VF) (x : Ext) (c : Croft) : Except VErr VRes :=
  do
    let a ← c.vsrc o.w o.a.toNat
    let b ← c.vsrc o.w o.b.toNat
    vScalb x.vrnd x.vsat o.w [a, b]

/-- VSCALB (R353). -/
def execVscalb (t : Tok) (o : VF) (x : Ext) : State → Host.Outcome State Fault Refusal :=
  issueC (.vscalb t o x) t fun c => .ok (c.vland (.vscalb t o x) t.sig.toNat (vlat 8 o.w) o.w o.d.toNat 32 (vscalbValue o x c))

/-- VGEXP (R353): exponents. -/
def vgexpValue (o : VF) (c : Croft) : Except VErr VRes :=
  do
    let a ← c.vsrc o.w o.a.toNat
    vComponent getExp o.w a

/-- VGEXP (R353). -/
def execVgexp (t : Tok) (o : VF) (x : Ext) : State → Host.Outcome State Fault Refusal :=
  issueC (.vgexp t o x) t fun c => .ok (c.vland (.vgexp t o x) t.sig.toNat (vlat 8 o.w) o.w o.d.toNat 32 (vgexpValue o c))

/-- VGMAN (R353): mantissas. -/
def vgmanValue (o : VF) (c : Croft) : Except VErr VRes :=
  do
    let a ← c.vsrc o.w o.a.toNat
    vComponent getMan o.w a

/-- VGMAN (R353). -/
def execVgman (t : Tok) (o : VF) (x : Ext) : State → Host.Outcome State Fault Refusal :=
  issueC (.vgman t o x) t fun c => .ok (c.vland (.vgman t o x) t.sig.toNat (vlat 8 o.w) o.w o.d.toNat 32 (vgmanValue o c))

/-- VCVT (R347): conversion to the word’s tag. -/
def vcvtValue (o : VF) (x : Ext) (c : Croft) : Except VErr VRes :=
  do
    let a ← c.vsrc o.w o.a.toNat
    vCvt x.vtag x.vrnd x.vsat o.w a

/-- VCVT (R347). -/
def execVcvt (t : Tok) (o : VF) (x : Ext) : State → Host.Outcome State Fault Refusal :=
  issueC (.vcvt t o x) t fun c => .ok (c.vland (.vcvt t o x) t.sig.toNat (vlat 8 o.w) o.w o.d.toNat 32 (vcvtValue o x c))

/-- VCVP (R348): conversion and packing of several registers. -/
def vcvpValue (o : VF) (x : Ext) (c : Croft) : Except VErr VRes :=
  vCvp x.vtag x.vrnd x.vsat ((List.range (32 / tagWidth x.vtag)).map fun j => vget c.v {} (o.a.toNat + j))

/-- VCVP (R348). -/
def execVcvp (t : Tok) (o : VF) (x : Ext) : State → Host.Outcome State Fault Refusal :=
  issueC (.vcvp t o x) t fun c => .ok (c.vland (.vcvp t o x) t.sig.toNat 10 o.w o.d.toNat 32 (vcvpValue o x c))

/-- VQNT (R355): block quantisation with a side list. -/
def vqntValue (o : VF) (x : Ext) (c : Croft) : Except VErr VRes :=
  do
    let a ← c.vsrc o.w o.a.toNat
    let b ← c.vsrc o.w o.b.toNat
    vQnt x.vtag x.vrnd x.imm32 b.len o.w a

/-- VQNT (R355). -/
def execVqnt (t : Tok) (o : VF) (x : Ext) : State → Host.Outcome State Fault Refusal :=
  issueC (.vqnt t o x) t fun c => .ok (c.vland (.vqnt t o x) t.sig.toNat (vlat 12 o.w) o.w o.d.toNat o.b.toNat (vqntValue o x c))

/-- VDQNT (R356): block dequantisation. -/
def vdqntValue (o : VF) (x : Ext) (c : Croft) : Except VErr VRes :=
  do
    let a ← c.vsrc o.w o.a.toNat
    vDqnt x.vtag o.w a

/-- VDQNT (R356). -/
def execVdqnt (t : Tok) (o : VF) (x : Ext) : State → Host.Outcome State Fault Refusal :=
  issueC (.vdqnt t o x) t fun c => .ok (c.vland (.vdqnt t o x) t.sig.toNat (vlat 8 o.w) o.w o.d.toNat 32 (vdqntValue o x c))

/-- VRED (R357): reduction to one element. -/
def vredValue (o : VF) (x : Ext) (c : Croft) : Except VErr VRes :=
  do
    let a ← c.vsrc o.w o.a.toNat
    vRed x.vimm a

/-- VRED (R357). -/
def execVred (t : Tok) (o : VF) (x : Ext) : State → Host.Outcome State Fault Refusal :=
  issueC (.vred t o x) t fun c => .ok (c.vland (.vred t o x) t.sig.toNat (vlat 10 o.w) o.w o.d.toNat 32 (vredValue o x c))

/-- VSCAN (R357): inclusive scan. -/
def vscanValue (o : VF) (x : Ext) (c : Croft) : Except VErr VRes :=
  do
    let a ← c.vsrc o.w o.a.toNat
    vScan x.vimm o.w a

/-- VSCAN (R357). -/
def execVscan (t : Tok) (o : VF) (x : Ext) : State → Host.Outcome State Fault Refusal :=
  issueC (.vscan t o x) t fun c => .ok (c.vland (.vscan t o x) t.sig.toNat (vlat 12 o.w) o.w o.d.toNat 32 (vscanValue o x c))

/-- VCOAL (R346): merged copy. -/
def vcoalValue (o : VF) (c : Croft) : Except VErr VRes :=
  do
    let a ← c.vsrc o.w o.a.toNat
    vMove a

/-- VCOAL (R346). -/
def execVcoal (t : Tok) (o : VF) (x : Ext) : State → Host.Outcome State Fault Refusal :=
  issueC (.vcoal t o x) t fun c => .ok (c.vland (.vcoal t o x) t.sig.toNat (vlat 8 o.w) o.w o.d.toNat 32 (vcoalValue o c))

/-- VLEN (R358): a new length. -/
def vlenValue (o : VF) (x : Ext) (c : Croft) : Except VErr VRes :=
  do
    let a ← c.vsrc o.w o.a.toNat
    vLen x.vimm o.w a

/-- VLEN (R358). -/
def execVlen (t : Tok) (o : VF) (x : Ext) : State → Host.Outcome State Fault Refusal :=
  issueC (.vlen t o x) t fun c => .ok (c.vland (.vlen t o x) t.sig.toNat (vlat 8 o.w) o.w o.d.toNat 32 (vlenValue o x c))

/-- VSPLAT (R358): one run of the immediate. -/
def vsplatValue (o : VF) (x : Ext) (c : Croft) : Except VErr VRes :=
  do
    let a ← c.vsrc o.w o.a.toNat
    vSplat x.vtag x.imm32 a

/-- VSPLAT (R358). -/
def execVsplat (t : Tok) (o : VF) (x : Ext) : State → Host.Outcome State Fault Refusal :=
  issueC (.vsplat t o x) t fun c => .ok (c.vland (.vsplat t o x) t.sig.toNat (vlat 8 o.w) o.w o.d.toNat 32 (vsplatValue o x c))

/-- VCAT (R345): concatenation. -/
def vcatValue (o : VF) (c : Croft) : Except VErr VRes :=
  do
    let a ← c.vsrc o.w o.a.toNat
    let b ← c.vsrc o.w o.b.toNat
    vCat o.w a b

/-- VCAT (R345). -/
def execVcat (t : Tok) (o : VF) (x : Ext) : State → Host.Outcome State Fault Refusal :=
  issueC (.vcat t o x) t fun c => .ok (c.vland (.vcat t o x) t.sig.toNat (vlat 8 o.w) o.w o.d.toNat 32 (vcatValue o c))

/-- VSLICE (R358): a slice. -/
def vsliceValue (o : VF) (x : Ext) (c : Croft) : Except VErr VRes :=
  do
    let a ← c.vsrc o.w o.a.toNat
    vSlice (bitsOf x.imm32 12 0) (bitsOf x.imm32 28 16) o.w a

/-- VSLICE (R358). -/
def execVslice (t : Tok) (o : VF) (x : Ext) : State → Host.Outcome State Fault Refusal :=
  issueC (.vslice t o x) t fun c => .ok (c.vland (.vslice t o x) t.sig.toNat (vlat 8 o.w) o.w o.d.toNat 32 (vsliceValue o x c))

/-- VEXT (R358): one element. -/
def vextValue (o : VF) (x : Ext) (c : Croft) : Except VErr VRes :=
  do
    let a ← c.vsrc o.w o.a.toNat
    vExt x.vimm a

/-- VEXT (R358). -/
def execVext (t : Tok) (o : VF) (x : Ext) : State → Host.Outcome State Fault Refusal :=
  issueC (.vext t o x) t fun c => .ok (c.vland (.vext t o x) t.sig.toNat (vlat 8 o.w) o.w o.d.toNat 32 (vextValue o x c))

/-- VINS (R358): elements replaced by another vector. -/
def vinsValue (o : VF) (x : Ext) (c : Croft) : Except VErr VRes :=
  do
    let a ← c.vsrc o.w o.a.toNat
    let b ← c.vsrc o.w o.b.toNat
    vIns x.vimm o.w a b

/-- VINS (R358). -/
def execVins (t : Tok) (o : VF) (x : Ext) : State → Host.Outcome State Fault Refusal :=
  issueC (.vins t o x) t fun c => .ok (c.vland (.vins t o x) t.sig.toNat (vlat 8 o.w) o.w o.d.toNat 32 (vinsValue o x c))

/-- VMOV (R358): merged copy. -/
def vmovValue (o : VF) (c : Croft) : Except VErr VRes :=
  do
    let a ← c.vsrc o.w o.a.toNat
    vMove a

/-- VMOV (R358). -/
def execVmov (t : Tok) (o : VF) (x : Ext) : State → Host.Outcome State Fault Refusal :=
  issueC (.vmov t o x) t fun c => .ok (c.vland (.vmov t o x) t.sig.toNat (vlat 8 o.w) o.w o.d.toNat 32 (vmovValue o c))

/-- VCNT (R346): runs and length. -/
def vcntValue (o : VF) (c : Croft) : Except VErr VRes :=
  do
    let a ← c.vsrc o.w o.a.toNat
    vCnt a

/-- VCNT (R346). -/
def execVcnt (t : Tok) (o : VF) (x : Ext) : State → Host.Outcome State Fault Refusal :=
  issueC (.vcnt t o x) t fun c => .ok (c.vland (.vcnt t o x) t.sig.toNat (vlat 8 o.w) o.w o.d.toNat 32 (vcntValue o c))

/-- VIOTA (R358): counting elements. -/
def viotaValue (o : VF) (x : Ext) (c : Croft) : Except VErr VRes :=
  do
    let a ← c.vsrc o.w o.a.toNat
    vIota x.vtag x.imm32 o.w a

/-- VIOTA (R358). -/
def execViota (t : Tok) (o : VF) (x : Ext) : State → Host.Outcome State Fault Refusal :=
  issueC (.viota t o x) t fun c => .ok (c.vland (.viota t o x) t.sig.toNat (vlat 8 o.w) o.w o.d.toNat 32 (viotaValue o x c))

/-- A VPOP of a queue has not landed (R359). -/
def Croft.popping (c : Croft) (q : Nat) : Bool :=
  c.inFlight.any fun p =>
    match p.op with
    | .vpop _ q' _ => q' == q
    | _ => false

/-- VPOP (R359): the head entry of a QV queue, merged, into Vd at landing; RUNOVF then where it keeps more than 64 runs. -/
def Croft.vpop (c : Croft) (t : Tok) (o : VF) (x : Ext) : Except Stop Croft := do
  let q := o.a.toNat
  need (!c.popping q) .wait
  match vget c.qv [] q with
  | ⟨_, some e⟩ :: _ =>
    let r := mergeRuns e.runs
    let v : Option VReg := if r.length ≤ 64 then some ⟨e.tag, r⟩ else none
    .ok (c.land .V (.vpop t o x) t.sig.toNat 8 (.vpop o.d.toNat q v))
  | _ => .error .wait

/-- VPOP (R359). -/
def execVpop (t : Tok) (o : VF) (x : Ext) : State → Host.Outcome State Fault Refusal :=
  issueC (.vpop t o x) t fun c => c.vpop t o x

/-- VPUSH (R163, R360): Va's dense or packed form starts its transfer into QS; it lands at 8 vc. -/
def Croft.vpushOp (c : Croft) (t : Tok) (o : VF) (x : Ext) : Except Stop Croft := do
  need c.vpush.isNone .wait
  let v := vget c.v {} o.a.toNat
  let ds := if x.vimm == 1 then packedDwords v else denseDwords v
  let c := { c with vpush := if ds.isEmpty then none else some ⟨ds⟩ }
  .ok (c.land .V (.vpush t o x) t.sig.toNat 8 .nothing)

/-- VPUSH (R360). -/
def execVpush (t : Tok) (o : VF) (x : Ext) : State → Host.Outcome State Fault Refusal :=
  issueC (.vpush t o x) t fun c => c.vpushOp t o x

/-- VRDA (R361): a row of an ACM tile, read at issue. -/
def Croft.vrda (c : Croft) (t : Tok) (o : VF) (x : Ext) : Except Stop Croft := do
  let tile := bitsOf x.imm32 9 6
  c.tilesFree [tile]
  let tag := if bitsOf (vget c.records 0 tile) 13 12 == 1 then 8 else 0
  let v : VReg := ⟨tag, ofElems (c.acmElems tile (64 * bitsOf x.imm32 5 0) 64)⟩
  .ok (c.land .V (.vrda t o x) t.sig.toNat 8 (.setV false o.d.toNat 32 { vd := v }))

/-- VRDA (R361). -/
def execVrda (t : Tok) (o : VF) (x : Ext) : State → Host.Outcome State Fault Refusal :=
  issueC (.vrda t o x) t fun c => c.vrda t o x

/-- VWRA (R362): a row of an ACM tile, written or added to at landing; LENMIS then where Va does not fit. -/
def Croft.vwra (c : Croft) (t : Tok) (o : VF) (x : Ext) : Except Stop Croft := do
  let tile := bitsOf x.imm32 9 6
  c.tilesFree [tile]
  let v := vget c.v {} o.a.toNat
  let add := if bitOf x.imm32 10 then some v.tag else none
  let op : LandOp :=
    if v.len == 64 && (v.tag == 0 || v.tag == 8 || v.tag == 11) then .wrow tile (bitsOf x.imm32 5 0) add (elems v.runs)
    else .vfault .lenmis
  .ok (c.land .V (.vwra t o x) t.sig.toNat 8 op)

/-- VWRA (R362). -/
def execVwra (t : Tok) (o : VF) (x : Ext) : State → Host.Outcome State Fault Refusal :=
  issueC (.vwra t o x) t fun c => c.vwra t o x

end Sys2Proof.Machine
end

