-- ==== Sys2Proof/Machine/Control.lean ====
section
/-! DEFINITION. The meanings of the control engine's instructions (R67, R273 to R342): arithmetic, branches, system operations and the
control registers. -/

namespace Sys2Proof.Machine

/-! ### Arithmetic and logic -/

/-- A form CR instruction of two operands (R277): Sa, then Sb or the immediate; the result lands in Sd. -/
def Croft.arith (c : Croft) (i : Instr) (sig lat : Nat) (o : CR) (x : Ext) (f : Word64 → Word64 → Word64) : Except Stop Croft := do
  let (u, c) ← c.readS o.a.toNat
  let (v, c) ← c.operand2 o x
  c.writeS i sig lat o.d.toNat (f u v)

/-- A form CR instruction of one operand (R277, R331). -/
def Croft.arith1 (c : Croft) (i : Instr) (sig : Nat) (o : CR) (f : Word64 → Word64) : Except Stop Croft := do
  let (u, c) ← c.readS o.a.toNat
  c.writeS i sig 1 o.d.toNat (f u)

/-- The number of leading zero bits of a word (R277). -/
def leadingZeros (x : Word64) : Nat := ((List.range 64).takeWhile fun i => !bitOf x (63 - i)).length

/-- ADD (R277): x + y. -/
def addValue (x y : Word64) : Word64 := x + y

/-- ADD (R277). -/
def execAdd (t : Tok) (o : CR) (x : Ext) : State → Host.Outcome State Fault Refusal :=
  issueC (.add t o x) t fun c => c.arith (.add t o x) t.sig.toNat 1 o x addValue

/-- SUB (R331): x − y. -/
def subValue (x y : Word64) : Word64 := x - y

/-- SUB (R331). -/
def execSub (t : Tok) (o : CR) (x : Ext) : State → Host.Outcome State Fault Refusal :=
  issueC (.sub t o x) t fun c => c.arith (.sub t o x) t.sig.toNat 1 o x subValue

/-- MUL (R329): the low 64 bits of x · y. -/
def mulValue (x y : Word64) : Word64 := x * y

/-- MUL (R329). -/
def execMul (t : Tok) (o : CR) (x : Ext) : State → Host.Outcome State Fault Refusal :=
  issueC (.mul t o x) t fun c => c.arith (.mul t o x) t.sig.toNat 3 o x mulValue

/-- MULH (R329): the high 64 bits of the signed product. -/
def mulhValue (x y : Word64) : Word64 := BitVec.ofInt 64 (x.toInt * y.toInt / 2 ^ 64)

/-- MULH (R329). -/
def execMulh (t : Tok) (o : CR) (x : Ext) : State → Host.Outcome State Fault Refusal :=
  issueC (.mulh t o x) t fun c => c.arith (.mulh t o x) t.sig.toNat 3 o x mulhValue

/-- DIVN (R291): the unsigned quotient, all ones for y = 0. -/
def divnValue (x y : Word64) : Word64 := if y == 0 then BitVec.allOnes 64 else x / y

/-- DIVN (R291). -/
def execDivn (t : Tok) (o : CR) (x : Ext) : State → Host.Outcome State Fault Refusal :=
  issueC (.divn t o x) t fun c => c.arith (.divn t o x) t.sig.toNat 18 o x divnValue

/-- REMN (R331): the unsigned remainder, x for y = 0. -/
def remnValue (x y : Word64) : Word64 := if y == 0 then x else x % y

/-- REMN (R331). -/
def execRemn (t : Tok) (o : CR) (x : Ext) : State → Host.Outcome State Fault Refusal :=
  issueC (.remn t o x) t fun c => c.arith (.remn t o x) t.sig.toNat 18 o x remnValue

/-- AND (R277): bitwise AND. -/
def andValue (x y : Word64) : Word64 := x &&& y

/-- AND (R277). -/
def execAnd (t : Tok) (o : CR) (x : Ext) : State → Host.Outcome State Fault Refusal :=
  issueC (.and t o x) t fun c => c.arith (.and t o x) t.sig.toNat 1 o x andValue

/-- OR (R331): bitwise OR. -/
def orValue (x y : Word64) : Word64 := x ||| y

/-- OR (R331). -/
def execOr (t : Tok) (o : CR) (x : Ext) : State → Host.Outcome State Fault Refusal :=
  issueC (.or t o x) t fun c => c.arith (.or t o x) t.sig.toNat 1 o x orValue

/-- XOR (R365): bitwise XOR. -/
def xorValue (x y : Word64) : Word64 := x ^^^ y

/-- XOR (R365). -/
def execXor (t : Tok) (o : CR) (x : Ext) : State → Host.Outcome State Fault Refusal :=
  issueC (.xor t o x) t fun c => c.arith (.xor t o x) t.sig.toNat 1 o x xorValue

/-- SHL (R331): shift left, 0 for a count of 64 or more. -/
def shlValue (x y : Word64) : Word64 := if y.toNat < 64 then x <<< y.toNat else 0

/-- SHL (R331). -/
def execShl (t : Tok) (o : CR) (x : Ext) : State → Host.Outcome State Fault Refusal :=
  issueC (.shl t o x) t fun c => c.arith (.shl t o x) t.sig.toNat 1 o x shlValue

/-- SHR (R331): shift right, 0 for a count of 64 or more. -/
def shrValue (x y : Word64) : Word64 := if y.toNat < 64 then x >>> y.toNat else 0

/-- SHR (R331). -/
def execShr (t : Tok) (o : CR) (x : Ext) : State → Host.Outcome State Fault Refusal :=
  issueC (.shr t o x) t fun c => c.arith (.shr t o x) t.sig.toNat 1 o x shrValue

/-- SHA (R331): arithmetic shift right, the sign for a count of 64 or more. -/
def shaValue (x y : Word64) : Word64 := if y.toNat < 64 then x.sshiftRight y.toNat else if bitOf x 63 then BitVec.allOnes 64 else 0

/-- SHA (R331). -/
def execSha (t : Tok) (o : CR) (x : Ext) : State → Host.Outcome State Fault Refusal :=
  issueC (.sha t o x) t fun c => c.arith (.sha t o x) t.sig.toNat 1 o x shaValue

/-- MIN (R318): the lesser, signed. -/
def minValue (x y : Word64) : Word64 := if x.slt y then x else y

/-- MIN (R318). -/
def execMin (t : Tok) (o : CR) (x : Ext) : State → Host.Outcome State Fault Refusal :=
  issueC (.min t o x) t fun c => c.arith (.min t o x) t.sig.toNat 1 o x minValue

/-- MAX (R318): the greater, signed. -/
def maxValue (x y : Word64) : Word64 := if y.slt x then x else y

/-- MAX (R318). -/
def execMax (t : Tok) (o : CR) (x : Ext) : State → Host.Outcome State Fault Refusal :=
  issueC (.max t o x) t fun c => c.arith (.max t o x) t.sig.toNat 1 o x maxValue

/-- MINN (R318): the lesser, unsigned. -/
def minnValue (x y : Word64) : Word64 := if x.ult y then x else y

/-- MINN (R318). -/
def execMinn (t : Tok) (o : CR) (x : Ext) : State → Host.Outcome State Fault Refusal :=
  issueC (.minn t o x) t fun c => c.arith (.minn t o x) t.sig.toNat 1 o x minnValue

/-- MAXN (R318): the greater, unsigned. -/
def maxnValue (x y : Word64) : Word64 := if y.ult x then x else y

/-- MAXN (R318). -/
def execMaxn (t : Tok) (o : CR) (x : Ext) : State → Host.Outcome State Fault Refusal :=
  issueC (.maxn t o x) t fun c => c.arith (.maxn t o x) t.sig.toNat 1 o x maxnValue

/-- SLT (R331): 1 when x is less, signed. -/
def sltValue (x y : Word64) : Word64 := if x.slt y then 1 else 0

/-- SLT (R331). -/
def execSlt (t : Tok) (o : CR) (x : Ext) : State → Host.Outcome State Fault Refusal :=
  issueC (.slt t o x) t fun c => c.arith (.slt t o x) t.sig.toNat 1 o x sltValue

/-- SLTN (R331): 1 when x is less, unsigned. -/
def sltnValue (x y : Word64) : Word64 := if x.ult y then 1 else 0

/-- SLTN (R331). -/
def execSltn (t : Tok) (o : CR) (x : Ext) : State → Host.Outcome State Fault Refusal :=
  issueC (.sltn t o x) t fun c => c.arith (.sltn t o x) t.sig.toNat 1 o x sltnValue

/-- CLZ (R277): the number of leading zero bits. -/
def clzValue (x : Word64) : Word64 := BitVec.ofNat 64 (leadingZeros x)

/-- CLZ (R277). -/
def execClz (t : Tok) (o : CR) (x : Ext) : State → Host.Outcome State Fault Refusal :=
  issueC (.clz t o x) t fun c => c.arith1 (.clz t o x) t.sig.toNat o clzValue

/-- POPC (R331): the number of one bits. -/
def popcValue (x : Word64) : Word64 := BitVec.ofNat 64 (popcount 64 x.toNat)

/-- POPC (R331). -/
def execPopc (t : Tok) (o : CR) (x : Ext) : State → Host.Outcome State Fault Refusal :=
  issueC (.popc t o x) t fun c => c.arith1 (.popc t o x) t.sig.toNat o popcValue

/-- LI (R315): Sd takes the immediate. -/
def execLi (t : Tok) (o : CR) (x : Ext) : State → Host.Outcome State Fault Refusal :=
  issueC (.li t o x) t fun c => c.writeS (.li t o x) t.sig.toNat 1 o.d.toNat (o.imm x)

/-! ### Control transfers -/

/-- In FIXED mode the next packet issues n vc after this one (R43); in SCORE mode nothing changes (R46). -/
def Croft.spaced (c : Croft) (n : Nat) : Croft :=
  match c.mode with
  | .fixed => { c with nextVc := c.vclock + n }
  | .score => c

/-- A taken transfer (R43, R59, R258): fetch goes on at the target, 3 vc later in FIXED mode; BOUNDS outside the overlay, with the
target index, as a 64-bit number, in FAULTADDR. -/
def Croft.transfer (c : Croft) (target : Int) : Except Stop Croft :=
  if 0 ≤ target && target < c.overlay.len then
    .ok ({ c with split := { pc := target.toNat } }.spaced 3)
  else .error (.fault { code := .bounds, addr := (BitVec.ofInt 64 target).toNat })

/-- A conditional branch (R284). One that is not taken lets the splitter go on (R258). -/
def Croft.branch (c : Croft) (o : CB) (x : Ext) (taken : Word64 → Word64 → Bool) : Except Stop Croft := do
  let (u, c) ← c.readS o.a.toNat
  let (v, c) ← c.readS o.b.toNat
  if taken u v then c.transfer (c.issuePc + o.offset x) else .ok { c with split := { c.split with stopped := false } }

/-- BEQ (R284): taken when x = y. -/
def beqTaken (x y : Word64) : Bool := x == y

/-- BEQ (R284). -/
def execBeq (t : Tok) (o : CB) (x : Ext) : State → Host.Outcome State Fault Refusal :=
  issueNow (.beq t o x) t fun c => c.branch o x beqTaken

/-- BNE (R284): taken when x ≠ y. -/
def bneTaken (x y : Word64) : Bool := x != y

/-- BNE (R284). -/
def execBne (t : Tok) (o : CB) (x : Ext) : State → Host.Outcome State Fault Refusal :=
  issueNow (.bne t o x) t fun c => c.branch o x bneTaken

/-- BLT (R284): taken when x < y, signed. -/
def bltTaken (x y : Word64) : Bool := x.slt y

/-- BLT (R284). -/
def execBlt (t : Tok) (o : CB) (x : Ext) : State → Host.Outcome State Fault Refusal :=
  issueNow (.blt t o x) t fun c => c.branch o x bltTaken

/-- BGE (R284): taken when x ≥ y, signed. -/
def bgeTaken (x y : Word64) : Bool := !x.slt y

/-- BGE (R284). -/
def execBge (t : Tok) (o : CB) (x : Ext) : State → Host.Outcome State Fault Refusal :=
  issueNow (.bge t o x) t fun c => c.branch o x bgeTaken

/-- BLTN (R284): taken when x < y, unsigned. -/
def bltnTaken (x y : Word64) : Bool := x.ult y

/-- BLTN (R284). -/
def execBltn (t : Tok) (o : CB) (x : Ext) : State → Host.Outcome State Fault Refusal :=
  issueNow (.bltn t o x) t fun c => c.branch o x bltnTaken

/-- BGEN (R284): taken when x ≥ y, unsigned. -/
def bgenTaken (x y : Word64) : Bool := !x.ult y

/-- BGEN (R284). -/
def execBgen (t : Tok) (o : CB) (x : Ext) : State → Host.Outcome State Fault Refusal :=
  issueNow (.bgen t o x) t fun c => c.branch o x bgenTaken

/-- A taken transfer whose target the word itself gives (R258, R285, R311): the splitter went on at the target when it split the word,
and does so now where it stands stopped behind it. -/
def Croft.jump (c : Croft) (target : Int) : Except Stop Croft :=
  if c.split.stopped && c.split.seq == c.issueSeq then c.transfer target
  else (c.transfer target).map fun c' => { c' with split := c.split }

/-- JMP (R311). -/
def execJmp (t : Tok) (o : CB) (x : Ext) : State → Host.Outcome State Fault Refusal :=
  issueNow (.jmp t o x) t fun c => c.jump (c.issuePc + o.offset x)

/-- CALL (R285): the link lands in Sa at 1 vc, and fetch goes to the target. -/
def execCall (t : Tok) (o : CB) (x : Ext) : State → Host.Outcome State Fault Refusal :=
  issueC (.call t o x) t fun c => do
    let c ← c.jump (c.issuePc + o.offset x)
    c.writeS (.call t o x) t.sig.toNat 1 o.a.toNat (BitVec.ofNat 64 (c.issuePc + 1))

/-- RET (R336): fetch goes to the word index in Sa. -/
def execRet (t : Tok) (o : CX) (x : Ext) : State → Host.Outcome State Fault Refusal :=
  issueNow (.ret t o x) t fun c => do
    let (u, c) ← c.readS o.a.toNat
    c.transfer u.toNat

/-- JTAB (R312): fetch goes to entry Sa of fragment table k; BOUNDS with the index where there is none. -/
def execJtab (t : Tok) (o : CX) (x : Ext) : State → Host.Outcome State Fault Refusal :=
  issueNow (.jtab t o x) t fun c => do
    let (u, c) ← c.readS o.a.toNat
    match (c.overlay.frags.find? fun p => p.1 == o.k.toNat).bind fun p => p.2[u.toNat]? with
    | none => .error (.fault { code := .bounds, addr := u.toNat })
    | some target => c.transfer target

/-! ### Traps and services -/

/-- TRAP (R342): raises TRAP with AUX k. -/
def execTrap (t : Tok) (o : CX) (x : Ext) : State → Host.Outcome State Fault Refusal :=
  issueC (.trap t o x) t fun _ => .error (.fault { code := .trap, aux := o.k.toNat })

/-- ERET (R232, R252, R294): returns from the handler once every engine queue is empty and every result of the handler has landed;
the clock runs on until then. Outside a handler it faults with ILLOP (R230). -/
def execEret (t : Tok) (o : CX) (x : Ext) : State → Host.Outcome State Fault Refusal :=
  issueNow (.eret t o x) t fun c =>
    match c.frame with
    | none => .error (.flt .illop)
    | some f => if c.queuesEmpty && c.lands.isEmpty && c.stq.isNone then .ok (c.leaveHandler f) else .error .tick

/-- An SVC freezes the croft until Sillu has performed service k with READ(a) (R340); it finishes when the croft resumes. -/
def Croft.svc (c : Croft) (t : Tok) (o : CX) : Except Stop Croft := do
  let (u, c) ← c.readS o.a.toNat
  .ok { c with freeze := { c.freeze with svc := some (o.k.toNat, o.a.toNat, u, t.sig.toNat) } }

/-- SVC 0, no service (R341). -/
def execSvcNone (t : Tok) (o : CX) (x : Ext) : State → Host.Outcome State Fault Refusal :=
  issueC (.svcNone t o x) t fun c => c.svc t o

/-- SVC 1, a grammar-mask request (R341). -/
def execGrammarMaskRequest (t : Tok) (o : CX) (x : Ext) : State → Host.Outcome State Fault Refusal :=
  issueC (.grammarMaskRequest t o x) t fun c => c.svc t o

/-- SVC 2, a monitor snapshot read (R341). -/
def execMonitorSnapshotRead (t : Tok) (o : CX) (x : Ext) : State → Host.Outcome State Fault Refusal :=
  issueC (.monitorSnapshotRead t o x) t fun c => c.svc t o

/-- SVC 3 to 127, unassigned (R341). -/
def execSvcUnassigned (t : Tok) (o : CX) (x : Ext) : State → Host.Outcome State Fault Refusal :=
  issueC (.svcUnassigned t o x) t fun c => c.svc t o

/-! ### Waiting and ordering -/

/-- A WAITE that popped its further arrival in an earlier attempt pops none again (R363). -/
def waiteTok (t : Tok) (kept : List Word64) : Tok := if kept.isEmpty then t else { t with wait := 0 }

/-- WAITE (R363): pops k arrivals at once. With wait = 7 it first pops one further arrival, and keeps that pop where it waits for the k. -/
def execWaite (t : Tok) (o : CX) (x : Ext) (s : State) : Host.Outcome State Fault Refusal :=
  issueNow (.waite t o x) (waiteTok t s.cur.kept) (fun c =>
    let n := vget c.arv 0 Eng.C.ix
    if o.k.toNat ≤ n then .ok { c with arv := vset c.arv Eng.C.ix (n - o.k.toNat), kept := [] }
    else .error (if t.wait == 7 then .popped else .wait)) s

/-- ABWAIT (R170, R276): issues when PHASE of the object exceeds READ(a), or when the object is idle. -/
def execAbwait (t : Tok) (o : CX) (x : Ext) : State → Host.Outcome State Fault Refusal :=
  issueNow (.abwait t o x) t fun c => do
    let (u, c) ← c.readS o.a.toNat
    let b := vget c.abs {} o.k.toNat
    need (b.idle || u.toNat < b.phase) .wait
    .ok c

/-- A participant of a field stands at or past its g-th BAR k (R281). -/
def Furrow.atBar (u : Furrow) (k g : Nat) : Bool :=
  let n := vget u.bars 0 k
  g ≤ n || (n + 1 == g && u.barTry == some k)

/-- How many participants of a launch have issued, or stand at, their g-th BAR k, or have ended (R281). -/
def State.barArrived (s : State) (launch k g : Nat) : Nat :=
  let ended := match s.launches.find? fun l => l.num == launch with | some l => l.ended | none => 0
  ended + (s.contexts.filter fun c => match c.furrow with | some u => u.launch == launch && u.atBar k g | none => false).length

/-- BAR (R281): issues once every participant of the field has issued its BAR of the same count or has ended. A BAR counts as
arrived from its first attempt (DEDUCED, log 10). -/
def execBar (t : Tok) (o : CX) (x : Ext) : State → Host.Outcome State Fault Refusal :=
  issue (.bar t o x) t fun s =>
    let c := s.cur
    let k := o.k.toNat
    match c.furrow with
    | none => .ok (s, .now)
    | some u =>
      let g := vget u.bars 0 k + 1
      let s1 := s.setCur { c with furrow := some { u with barTry := some k } }
      let parts := match s.launches.find? fun l => l.num == u.launch with | some l => l.parts | none => 0
      if parts ≤ s1.barArrived u.launch k g then
        .ok (s.setCur { c with furrow := some { u with bars := vset u.bars k g, barTry := none } }, .now)
      else .error (.bar k)

/-- The mode that a MODE word names (R73). -/
def modeOf (k : BitVec 7) : Mode := if k == 0 then .fixed else .score

/-- The croft enters a mode (R42, R322): the splitter goes on; entering FIXED disarms a replay sequence. -/
def Croft.enterMode (c : Croft) (m : Mode) : Croft :=
  { c with
    mode := m, atVc := c.nextVc, split := { c.split with stopped := false }, draining := none
    armed := if m == .fixed then none else c.armed
    governs := if m == .fixed then none else c.governs }

/-- Every queue is empty and every fixed-latency result has landed (R42). -/
def Croft.drained (c : Croft) : Bool := c.queuesEmpty && c.lands.isEmpty && c.stq.isNone

/-- MODE (R322): waits until the croft is drained, then sets the mode. In FIXED mode it issues at its vc and the clock then stands
until the drain is done; inside a handler it is a nested fault (R230). -/
def Croft.modeOp (c : Croft) (t : Tok) (o : CX) (x : Ext) : Except Stop (Croft × Fin) :=
  if c.frame.isSome then .error (.flt .illop)
  else if c.drained then .ok (c.enterMode (modeOf o.k), .now)
  else match c.mode with
    | .score => .error .wait
    | .fixed => .ok ({ c with draining := some ⟨c.issueSeq, c.issuePc, .ins (.mode { t with wait := 0 } o x) []⟩ }, .later)

/-- MODE (R322). -/
def execMode (t : Tok) (o : CX) (x : Ext) : State → Host.Outcome State Fault Refusal :=
  issue (.mode t o x) t fun s =>
    match s.cur.modeOp t o x with
    | .ok (c, f) => .ok (s.setCur c, f)
    | .error e => .error e

/-- GAP (R309): the next packet issues n + 1 vc later. -/
def execGap (t : Tok) (o : CX) (x : Ext) : State → Host.Outcome State Fault Refusal :=
  issueNow (.gap t o x) t fun c =>
    let n := if x.count == 0 then o.k.toNat else x.x0.toNat
    .ok (c.spaced (n + 1))

/-! ### Phases -/

/-- A range descriptor (R93), as whether it writes and its range: none where it breaks R93. -/
def rangeOf (d : Word64) : Option (Bool × Rng) :=
  let n := bitsOf d 31 16
  let b := bitsOf d 14 0
  if bitsOf d 63 33 == 0 && !bitOf d 15 && 1 ≤ n && b + n ≤ 32768 then some (bitOf d 32, ⟨64 * b, 64 * n⟩) else none

/-- The phase that range descriptors give, all-zero ones ignored (R91, R93, R333): none where one breaks R93 or a set has more than
four ranges. -/
def phaseOfDescs (ds : List Word64) : Option Phase :=
  let rs := (ds.filter (· != 0)).map rangeOf
  if rs.any Option.isNone then none
  else
    let l := rs.filterMap id
    let reads := (l.filter fun r => !r.1).map (·.2)
    let writes := (l.filter fun r => r.1).map (·.2)
    if 4 < reads.length || 4 < writes.length then none else some ⟨reads, writes⟩

/-- Latch a phase into the marker that stands at a PHASE's place in the stream (R48, R333). -/
def Croft.latch (c : Croft) (e : Eng) (seq : Nat) (p : Phase) : Croft :=
  c.setQueue e ((c.queue e).map fun q =>
    match q.item with
    | .marker _ => if q.seq == seq then { q with item := .marker (some p) } else q
    | _ => q)

/-- The engine a PHASE word names. -/
def phaseEng (d : BitVec 5) : Eng := (Eng.ofCode d.toNat).getD .A

/-- PHASE (R333): latches the ranges of k descriptor registers into the named engine's marker. -/
def execPhase (t : Tok) (o : CX) (x : Ext) : State → Host.Outcome State Fault Refusal :=
  issueNow (.phase t o x) t fun c =>
    match phaseOfDescs ((List.range o.k.toNat).map fun j => if o.a.toNat + j == 0 then 0 else vget c.s 0 (o.a.toNat + j)) with
    | none => .error (.flt .illop)
    | some p => .ok (c.latch (phaseEng o.d) c.issueSeq p)

/-! ### Control registers -/

/-- The value of a control register (R335). -/
def Croft.crValue (c : Croft) (me k : Nat) : Word64 :=
  match k with
  | 0 => match c.mode with | .fixed => 0 | .score => 1
  | 1 => BitVec.ofNat 64 c.vclock
  | 2 => c.contract
  | 3 => c.qstatWord
  | 4 => c.fcode
  | 5 => c.faddr
  | 6 => c.fpc
  | 7 => c.handler
  | 8 => c.landing
  | 9 => BitVec.ofNat 64 (c.owner.getD 0)
  | 10 => BitVec.ofNat 64 me
  | _ => c.rngseed

/-- RDCR (R335). -/
def execRdcr (t : Tok) (o : CX) (x : Ext) : State → Host.Outcome State Fault Refusal :=
  issue (.rdcr t o x) t fun s =>
    match s.cur.writeS (.rdcr t o x) t.sig.toNat 1 o.d.toNat (s.cur.crValue s.me o.k.toNat) with
    | .ok c => .ok (s.setCur c, .later)
    | .error e => .error e

/-- WRCR of a register: READ(a) lands at 1 vc (R364). -/
def Croft.wrcr (c : Croft) (i : Instr) (t : Tok) (o : CX) (ok : Word64 → Bool) : Except Stop Croft := do
  let (u, c) ← c.readS o.a.toNat
  need (ok u) (.flt .illop)
  .ok (c.land .C i t.sig.toNat 1 (.setCr o.k.toNat u))

/-- WRCR QSTAT (R105, R364). -/
def execWrcrQstat (t : Tok) (o : CX) (x : Ext) : State → Host.Outcome State Fault Refusal :=
  issueC (.wrcrQstat t o x) t fun c => c.wrcr (.wrcrQstat t o x) t o fun _ => true

/-- WRCR HANDLER (R228, R364): a reserved bit is ILLOP. -/
def execWrcrHandler (t : Tok) (o : CX) (x : Ext) : State → Host.Outcome State Fault Refusal :=
  issueC (.wrcrHandler t o x) t fun c => c.wrcr (.wrcrHandler t o x) t o fun u => bitsOf u 63 17 == 0

/-- WRCR RNGSEED (R248, R364). -/
def execWrcrRngseed (t : Tok) (o : CX) (x : Ext) : State → Host.Outcome State Fault Refusal :=
  issueC (.wrcrRngseed t o x) t fun c => c.wrcr (.wrcrRngseed t o x) t o fun _ => true

/-- SNAP (R272, R337): its owner's bell rings 16 cy later. -/
def execSnap (t : Tok) (o : CX) (x : Ext) : State → Host.Outcome State Fault Refusal :=
  issueNow (.snap t o x) t fun c => .ok { c with bells := c.bells + 1 }

/-! ### Issues of a furrow -/

/-- The next temporal point of a furrow (R31), the outermost temporal level most significant: none after the last. Levels and indices
are given innermost first. -/
def nextPoint : List (Level × Nat) → Option (List Nat)
  | [] => none
  | (l, i) :: r =>
    if l.kind == 1 && i + 1 < l.count then some ((i + 1) :: r.map (·.2))
    else (nextPoint r).map fun p => (if l.kind == 1 then 0 else i) :: p

/-- The furrow at its next temporal point. -/
def Furrow.next (u : Furrow) : Option Furrow :=
  (nextPoint (u.levels.zip u.point).reverse).map fun p => { u with point := p.reverse }

/-- A result for S1 to S7 in flight is discarded where an issue preloads them (R293). -/
def Pending.discardPreload (p : Pending) : Pending :=
  match p.op with
  | .setS d _ => if 1 ≤ d && d ≤ 7 then { p with op := .nothing } else p
  | _ => p

/-- The phases that an overlay's templates open (R48, R91). -/
def Overlay.phases (o : Overlay) : Vector Phase 6 :=
  let f (j : Nat) : Phase := (phaseOfDescs ((o.hedge.drop (8 * j)).take 8)).getD {}
  #v[{}, f 0, f 1, {}, f 2, f 3]

/-- S1 to S7 take a furrow's indices and ARG, and results for them that land from now on are discarded (R31, R293). -/
def Croft.preloadNow (c : Croft) (u : Furrow) : Croft :=
  let pre := (u.point.map (BitVec.ofNat 64 ·)) ++ [BitVec.ofNat 64 u.arg]
  { c with
    s := (List.range 7).foldl (fun v k => vset v (k + 1) (pre.getD k 0)) c.s
    lands := c.lands.map Pending.discardPreload
    preload := false }

/-- The preload of an issue that starts takes effect (R293); one that a handler of the issue before holds up waits for its ERET. -/
def Croft.preloaded (c : Croft) : Croft :=
  match c.furrow with
  | some u => if c.preload && c.frame.isNone then c.preloadNow u else c
  | none => c

/-- An issue starts (R31, R48, R293): the phases open from the templates and fetch stands at the entry point. S1 to S7 are preloaded now in
SCORE mode, and in FIXED mode at the issue's first vc, that of its first packet. -/
def Croft.startIssue (c : Croft) : Croft :=
  match c.furrow with
  | none => c
  | some u =>
    let c := if c.mode == c.overlay.mode then c else c.enterMode c.overlay.mode
    let c := { c with phases := c.overlay.phases, split := { pc := c.overlay.entry }, reissue := false }
    match c.mode with
    | .score => c.preloadNow u
    | .fixed => { c with preload := true }

/-- A re-issue, or a furrow's first issue, starts at once, or once the croft has drained where the mode changes (R31, R42). -/
def Croft.beginIssue (c : Croft) : Croft :=
  if c.mode == c.overlay.mode || c.drained then c.startIssue
  else { c with reissue := true, split := { stopped := true } }

/-- A nest whose landing stood in a discarded landing list is gone with it (R230). -/
def Croft.dropNest (c : Croft) (l : List Pending) : Croft :=
  if l.any fun p => match p.op with | .nest => true | _ => false then { c with nest := none } else c

/-- DONE inside a handler discards the set-aside entries and the landing list, and drops stopped commands (R230, R292). -/
def Croft.dropFrame (c : Croft) : Croft :=
  match c.frame with
  | none => c
  | some f => ({ (c.dropNest f.land).dropStopped with frame := none } : Croft).dropSlots

/-- A handler holds up an issue that has not reached its first vc (R31, R293). -/
def Croft.startPends (c : Croft) : Bool := c.frame.isSome && (c.reissue || c.preload)

/-- DONE (R292): leaves a handler for good, disarms a budget, stops fetch, and re-issues the furrow at its next temporal point or ends
it. In a handler that holds up an issue, that issue is the one that starts (DEDUCED, log 99). -/
def State.doneOp (s : State) : State :=
  let c := s.cur.dropFrame
  let c := { c with budget := none, split := { stopped := true } }.spaced 3
  match c.furrow with
  | none => (s.setCur c).fieldsDone
  | some u =>
    match if s.cur.startPends then some u else u.next with
    | some u' => (s.setCur ({ c with furrow := some u' }.beginIssue)).fieldsDone
    | none => (s.setCur { c with furrow := none }).furrowEnded u.launch

/-- DONE (R292). -/
def execDone (t : Tok) (o : CX) (x : Ext) : State → Host.Outcome State Fault Refusal :=
  issue (.done t o x) t fun s => .ok (s.doneOp, .now)

/-! ### Unassigned opcodes -/

/-- An unassigned opcode, and every word that R66 refuses, faults with ILLOP at the head of its engine's queue (R66, R72). -/
def execUnassignedOpcode (e : Eng) : State → Host.Outcome State Fault Refusal :=
  issue (.unassignedOpcode e) ⟨0, 0⟩ fun _ => .error (.flt .illop)

end Sys2Proof.Machine
end

