-- ==== Sys2Proof/Machine/Crypto.lean ====
section
/-! DEFINITION. The cryptographic standards that the spec names (R94, R260 to R263, R268, R269), written from the standards themselves (PRESUMED,
log 83): SHA-512, HKDF, Ed25519, X25519, AES-256-GCM. -/

namespace Sys2Proof.Machine

/-- n bytes of a number, most significant first. -/
def beBytes (n v : Nat) : List Byte := (leBytes n v).reverse

/-- The number of bytes, most significant first. -/
def beNat (l : List Byte) : Nat := leNat l.reverse

/-! ### SHA-512 (FIPS 180-4) -/

/-- The k-th root of v, rounded down: x and n bits below it. -/
def rootOf (k v : Nat) : Nat → Nat → Nat
  | 0, x => x
  | n + 1, x => rootOf k v n (if (x + 2 ^ n) ^ k ≤ v then x + 2 ^ n else x)

/-- The prime numbers below 410, of which there are 80. -/
def smallPrimes : List Nat := (List.range 410).filter fun n => 2 ≤ n && (List.range n).all fun d => d < 2 || n % d != 0

/-- The first 64 bits of the fraction of a prime's k-th root. -/
def rootFraction (k p : Nat) : Word64 := BitVec.ofNat 64 (rootOf k (p * 2 ^ (64 * k)) 80 0)

/-- SHA-512's start: square roots of the first 8 primes. -/
@[irreducible] def shaStart : List Word64 := (smallPrimes.take 8).map (rootFraction 2)

/-- SHA-512's round constants: cube roots of the first 80 primes. -/
@[irreducible] def shaConstants : List Word64 := smallPrimes.map (rootFraction 3)

/-- The exclusive or of three rotations. -/
def rot3 (x : Word64) (a b c : Nat) : Word64 := x.rotateRight a ^^^ x.rotateRight b ^^^ x.rotateRight c

/-- SHA-512's message schedule, n words to go, newest first. -/
def shaSchedule : Nat → List Word64 → List Word64
  | 0, w => w
  | n + 1, w =>
    let a := w.getD 1 0
    let b := w.getD 14 0
    let s1 := a.rotateRight 19 ^^^ a.rotateRight 61 ^^^ a >>> 6
    let s0 := b.rotateRight 1 ^^^ b.rotateRight 8 ^^^ b >>> 7
    shaSchedule n ((s1 + w.getD 6 0 + s0 + w.getD 15 0) :: w)

/-- One round of SHA-512 with its constant and its word. -/
def shaRound (v : List Word64) (kw : Word64 × Word64) : List Word64 :=
  match v with
  | [a, b, c, d, e, f, g, h] =>
    let t1 := h + rot3 e 14 18 41 + ((e &&& f) ^^^ (~~~e &&& g)) + kw.1 + kw.2
    let t2 := rot3 a 28 34 39 + ((a &&& b) ^^^ (a &&& c) ^^^ (b &&& c))
    [t1 + t2, a, b, c, d + t1, e, f, g]
  | _ => v

/-- SHA-512's compression of a block of 128 bytes. -/
def shaBlock (h : List Word64) (b : List Byte) : List Word64 :=
  let w := (chunks 8 16 b).map fun x => BitVec.ofNat 64 (beNat x)
  let v := (shaConstants.zip (shaSchedule 64 w.reverse).reverse).foldl shaRound h
  (h.zip v).map fun p => p.1 + p.2

/-- SHA-512 as 64 bytes (R260, R263). -/
@[irreducible] def sha512 (l : List Byte) : List Byte :=
  let z := (239 - l.length % 128) % 128
  let m := l ++ [0x80] ++ List.replicate z 0 ++ beBytes 16 (8 * l.length)
  ((chunks 128 (m.length / 128) m).foldl shaBlock shaStart).flatMap fun w => beBytes 8 w.toNat

/-! ### HKDF-SHA-512 (RFC 2104, RFC 5869) -/

/-- HMAC-SHA-512. -/
def hmac (key msg : List Byte) : List Byte :=
  let k := if 128 < key.length then sha512 key else key
  let k := k ++ List.replicate (128 - k.length) 0
  sha512 (k.map (· ^^^ 0x5C) ++ sha512 (k.map (· ^^^ 0x36) ++ msg))

/-- HKDF's expansion: i blocks made so far, the last of them, n to go. -/
def hkdfBlocks (prk info : List Byte) (i : Nat) (last : List Byte) : Nat → List Byte
  | 0 => []
  | n + 1 =>
    let t := hmac prk (last ++ info ++ [BitVec.ofNat 8 (i + 1)])
    t ++ hkdfBlocks prk info (i + 1) t n

/-- HKDF-SHA-512 (R262, R269): input key, info string, number of bytes; without a salt. -/
def hkdf (ikm info : List Byte) (n : Nat) : List Byte :=
  (hkdfBlocks (hmac (List.replicate 64 0) ikm) info 0 [] ((n + 63) / 64)).take n

/-! ### Ed25519 (RFC 8032) -/

/-- b to the power e modulo m; the first argument bounds the bits of e. -/
def powMod (m : Nat) : Nat → Nat → Nat → Nat
  | 0, _, _ => 1
  | n + 1, b, e =>
    let r := powMod m n (b * b % m) (e / 2)
    if e % 2 == 1 then b * r % m else r

/-- The field's prime. -/
def edP : Nat := 2 ^ 255 - 19

/-- The order of the base point. -/
def edL : Nat := 2 ^ 252 + 27742317777372353535851937790883648493

/-- A power in the field. -/
def fpPow (b e : Nat) : Nat := powMod edP 256 b e

/-- The inverse in the field. -/
def fpInv (a : Nat) : Nat := fpPow a (edP - 2)

/-- A difference in the field. -/
def fpSub (a b : Nat) : Nat := (a + (edP - b % edP)) % edP

/-- The curve's constant −121665/121666. -/
def edD : Nat := fpSub 0 (121665 * fpInv 121666 % edP)

/-- A point of the curve in extended coordinates: x = X/Z, y = Y/Z, xy = T/Z. -/
structure EdPoint where
  x : Nat
  y : Nat
  z : Nat
  t : Nat
  deriving DecidableEq, Repr

/-- The sum of two points. -/
def EdPoint.add (p q : EdPoint) : EdPoint :=
  let a := fpSub p.y p.x * fpSub q.y q.x % edP
  let b := (p.y + p.x) * (q.y + q.x) % edP
  let c := 2 * edD * p.t * q.t % edP
  let d := 2 * p.z * q.z % edP
  let e := fpSub b a
  let f := fpSub d c
  let g := d + c
  let h := b + a
  ⟨e * f % edP, g * h % edP, f * g % edP, e * h % edP⟩

/-- A multiple of a point; the first argument bounds the bits of the factor. -/
def EdPoint.times : Nat → Nat → EdPoint → EdPoint
  | 0, _, _ => ⟨0, 1, 1, 0⟩
  | n + 1, k, p =>
    let r := EdPoint.times n (k / 2) (p.add p)
    if k % 2 == 1 then r.add p else r

/-- Two points are the same. -/
def EdPoint.same (p q : EdPoint) : Bool := p.x * q.z % edP == q.x * p.z % edP && p.y * q.z % edP == q.y * p.z % edP

/-- The point that 32 bytes encode, none where they encode none. -/
def edDecode (b : List Byte) : Option EdPoint :=
  let n := leNat b
  let y := n % 2 ^ 255
  let s := n / 2 ^ 255 % 2
  let u := fpSub (y * y) 1
  let v := (edD * y * y + 1) % edP
  let x := u * fpPow v 3 % edP * fpPow (u * fpPow v 7 % edP) ((edP - 5) / 8) % edP
  let w := v * x * x % edP
  let r : Option Nat := if w == u then some x else if w == fpSub 0 u then some (x * fpPow 2 ((edP - 1) / 4) % edP) else none
  match r with
  | none => none
  | some x =>
    if edP ≤ y || (x == 0 && s == 1) then none
    else
      let x := if x % 2 == s then x else edP - x
      some ⟨x, y, 1, x * y % edP⟩

/-- A point as 32 bytes. -/
def EdPoint.encode (p : EdPoint) : List Byte :=
  let i := fpInv p.z
  leBytes 32 (p.y * i % edP + p.x * i % edP % 2 * 2 ^ 255)

/-- The base point: y is 4/5, x even. -/
def edBase : EdPoint := (edDecode (leBytes 32 (4 * fpInv 5 % edP))).getD ⟨0, 1, 1, 0⟩

/-- A multiple of the base point. -/
def edMul (k : Nat) : EdPoint := EdPoint.times 256 k edBase

/-- The scalar that the first 32 bytes of a private key's digest give (RFC 8032, RFC 7748). -/
def clampScalar (b : List Byte) : Nat := 2 ^ 254 + leNat (b.take 32) % 2 ^ 254 / 8 * 8

/-- The public half of a private key (R262). -/
@[irreducible] def ed25519Public (secret : List Byte) : List Byte := (edMul (clampScalar (sha512 secret))).encode

/-- The signature of a private key over bytes (R263). -/
@[irreducible] def ed25519Sign (secret msg : List Byte) : List Byte :=
  let h := sha512 secret
  let r := leNat (sha512 (h.drop 32 ++ msg)) % edL
  let a := (edMul r).encode
  let k := leNat (sha512 (a ++ ed25519Public secret ++ msg)) % edL
  a ++ leBytes 32 ((r + k * clampScalar h) % edL)

/-- A signature of 64 bytes verifies under a key of 32 (R94, R260, R268): [8][S]B = [8]R + [8][k]A. -/
@[irreducible] def ed25519Verify (key msg sig : List Byte) : Bool :=
  let s := leNat (sig.drop 32)
  match edDecode key, edDecode (sig.take 32) with
  | some a, some r =>
    let k := leNat (sha512 (sig.take 32 ++ key ++ msg)) % edL
    key.length == 32 && sig.length == 64 && s < edL
      && EdPoint.same (EdPoint.times 4 8 (edMul s)) (EdPoint.times 4 8 (r.add (EdPoint.times 256 k a)))
  | _, _ => false

/-! ### X25519 (RFC 7748) -/

/-- One step of the ladder over (x2, z2) and (x3, z3). -/
def ladderStep (u x2 z2 x3 z3 : Nat) : (Nat × Nat) × (Nat × Nat) :=
  let a := x2 + z2
  let b := fpSub x2 z2
  let aa := a * a % edP
  let bb := b * b % edP
  let e := fpSub aa bb
  let da := fpSub x3 z3 * a % edP
  let cb := (x3 + z3) * b % edP
  let f := fpSub da cb
  ((aa * bb % edP, e * (aa + 121665 * e) % edP), ((da + cb) * (da + cb) % edP, u * (f * f) % edP))

/-- The ladder over the bits of a scalar below bit n. -/
def ladder (u k : Nat) : Nat → (Nat × Nat) × (Nat × Nat) → (Nat × Nat) × (Nat × Nat)
  | 0, p => p
  | n + 1, ((x2, z2), (x3, z3)) =>
    if k.testBit n then
      let r := ladderStep u x3 z3 x2 z2
      ladder u k n (r.2, r.1)
    else ladder u k n (ladderStep u x2 z2 x3 z3)

/-- X25519 of a scalar and a u-coordinate of 32 bytes (R269). -/
@[irreducible] def x25519 (k : Nat) (u : List Byte) : List Byte :=
  let x := leNat u % 2 ^ 255 % edP
  let r := (ladder x k 255 ((1, 0), (x, 1))).1
  leBytes 32 (r.1 * fpInv r.2 % edP)

/-! ### AES-256-GCM (FIPS 197, SP 800-38D) -/

/-- A product in AES's field; the first argument bounds the bits of a. -/
def gmul : Nat → Nat → Nat → Nat
  | 0, _, _ => 0
  | n + 1, a, b => (if a % 2 == 1 then b else 0) ^^^ gmul n (a / 2) (if 128 ≤ b then 2 * b ^^^ 0x11B else 2 * b)

/-- AES's substitution of a byte: its inverse, then the affine map. -/
def aesSub (x : Nat) : Nat :=
  let i := (List.range 254).foldl (fun r _ => gmul 8 r x) 1
  (List.range 5).foldl (fun r k => r ^^^ (i * 2 ^ k % 256 + i * 2 ^ k / 256)) 0x63

/-- AES's substitution as a table. -/
@[irreducible] def aesBox : List Nat := (List.range 256).map aesSub

/-- The substitution of a byte by the table. -/
def subByte (x : Nat) : Nat := aesBox.getD x 0

/-- AES-256's key schedule: i words made so far, newest first, n to go. -/
def aesSchedule (i : Nat) : Nat → List (List Nat) → List (List Nat)
  | 0, w => w
  | n + 1, w =>
    let t := w.headD []
    let t :=
      if i % 8 == 0 then
        match (t.rotateLeft 1).map subByte with
        | a :: r => (a ^^^ (List.range (i / 8 - 1)).foldl (fun r _ => gmul 8 2 r) 1) :: r
        | [] => []
      else if i % 8 == 4 then t.map subByte
      else t
    aesSchedule (i + 1) n (((w.getD 7 []).zip t).map (fun p => p.1 ^^^ p.2) :: w)

/-- The 15 round keys of an AES-256 key. -/
def aesKeys (key : List Byte) : List (List Nat) :=
  let w := (chunks 4 8 key).map fun c => c.map (·.toNat)
  (chunks 4 15 (aesSchedule 8 52 w.reverse).reverse).map List.flatten

/-- ShiftRows on the 16 bytes of a block, column by column. -/
def aesRows (b : List Nat) : List Nat := (List.range 16).map fun i => b.getD ((i + 4 * (i % 4)) % 16) 0

/-- MixColumns on a column. -/
def aesColumn (c : List Nat) : List Nat :=
  (List.range 4).map fun i =>
    gmul 8 2 (c.getD i 0) ^^^ gmul 8 3 (c.getD ((i + 1) % 4) 0) ^^^ c.getD ((i + 2) % 4) 0 ^^^ c.getD ((i + 3) % 4) 0

/-- AES-256 of a block under its round keys. -/
def aesBlock (keys : List (List Nat)) (b : List Nat) : List Nat :=
  let mix (x k : List Nat) : List Nat := (x.zip k).map fun p => p.1 ^^^ p.2
  let start := mix b (keys.headD [])
  let mid := (List.range 13).foldl (fun x r => mix ((chunks 4 4 (aesRows (x.map subByte))).flatMap aesColumn) (keys.getD (r + 1) [])) start
  mix (aesRows (mid.map subByte)) (keys.getD 14 [])

/-- AES-256 of a block as a number, most significant byte first. -/
def aesNat (keys : List (List Nat)) (x : Nat) : Nat :=
  beNat ((aesBlock keys ((beBytes 16 x).map (·.toNat))).map (BitVec.ofNat 8))

/-- A product in GHASH's field; the first argument counts the bits of x to go. -/
def ghashMul (x : Nat) : Nat → Nat → Nat
  | 0, _ => 0
  | n + 1, v => (if x.testBit n then v else 0) ^^^ ghashMul x n (if v % 2 == 1 then v / 2 ^^^ 0xE1 * 2 ^ 120 else v / 2)

/-- Bytes as blocks of 16, the last filled with zeros. -/
def blocks16 (l : List Byte) : List Nat :=
  let n := (l.length + 15) / 16
  (chunks 16 n (l ++ List.replicate (16 * n - l.length) 0)).map beNat

/-- GHASH of additional data and ciphertext under a key. -/
def ghash (h : Nat) (aad ct : List Byte) : Nat :=
  (blocks16 aad ++ blocks16 ct ++ [8 * aad.length * 2 ^ 64 + 8 * ct.length]).foldl (fun y b => ghashMul (y ^^^ b) 128 h) 0

/-- Opening AES-256-GCM (R269): key of 32 bytes, nonce of 12, additional data, ciphertext, tag; none where the tag fails. -/
@[irreducible] def gcmOpen (key nonce aad ct tag : List Byte) : Option (List Byte) :=
  let keys := aesKeys key
  let j := beNat nonce * 2 ^ 32
  if (ghash (aesNat keys 0) aad ct ^^^ aesNat keys (j + 1)) != beNat tag then none
  else
    let pad := (List.range ((ct.length + 15) / 16)).flatMap fun i => beBytes 16 (aesNat keys (j + (i + 2) % 2 ^ 32))
    some ((ct.zip pad).map fun p => p.1 ^^^ p.2)

end Sys2Proof.Machine
end

