-- ==== Sys2Proof/Machine/Granary.lean ====
section
/-! DEFINITION. Owner memory (R185 to R198): page-table entries and walks, the translation caches, the Granary's sectors and holds,
reads and writes through them, and what Sillu does to a mapping. -/

namespace Sys2Proof.Machine

/-! ### Free times -/

/-- A time in cycles that the spec leaves open: a free value for each use (log 5). -/
def State.freeCycles (s : State) : Nat × State := (Config.freeCycles s.fresh, { s with fresh := s.fresh + 1 })

/-! ### Page-table entries (R186, R187) -/

/-- P, W, REPL, DISC, CMP, SH, LEAF of an entry (R187). -/
def pteP (e : BitVec 64) : Bool := bitOf e 63
/-- Writes allowed (R187). -/
def pteW (e : BitVec 64) : Bool := bitOf e 62
/-- Replicated page (R187). -/
def pteRepl (e : BitVec 64) : Bool := bitOf e 61
/-- The balloon engine may discard the page (R187). -/
def pteDisc (e : BitVec 64) : Bool := bitOf e 60
/-- Stored compressed (R187). -/
def pteCmp (e : BitVec 64) : Bool := bitOf e 59
/-- Mapped at more than one address (R187). -/
def pteSh (e : BitVec 64) : Bool := bitOf e 58
/-- Maps a page (R187). -/
def pteLeaf (e : BitVec 64) : Bool := bitOf e 57
/-- The page handle (R185, R187). -/
def pteFrame (e : BitVec 64) : Nat := bitsOf e 27 0

/-- The 8 KiB pages that a leaf at a level maps (R186). -/
def pagesAt (level : Nat) : Nat := if level == 2 then 2 ^ 20 else if level == 3 then 1024 else 1

/-- The bytes below one entry of a level (R186). -/
def spanAt (level : Nat) : Nat := 2 ^ (53 - 10 * level)

/-- An entry at a level is present and keeps R187. -/
def pteOk (level : Nat) (e : BitVec 64) : Bool :=
  pteP e &&
    (if pteLeaf e then
      2 ≤ level && bitsOf e 56 55 == 0 && bitsOf e 38 28 == 0
        && (if pteRepl e then bitOf e (39 + bitsOf e 27 24) else bitsOf e 54 39 == 0)
        && bitsOf e 23 0 % pagesAt level == 0
    else level ≤ 3 && bitsOf e 62 58 == 0 && bitsOf e 56 28 == 0)

/-- The stacks that hold a leaf's page (R187, R198). -/
def leafStacks (e : BitVec 64) : List Nat :=
  if pteRepl e then (List.range 16).filter fun k => bitOf e (39 + k) else [bitsOf e 27 24]

/-- The handle of the 8 KiB page that holds an address under a leaf (R185, R187). -/
def leafHandle (e : BitVec 64) (level va : Nat) : Nat := pteFrame e + va / 8192 % pagesAt level

/-- The same page on another stack (R198). -/
def onStack (st h : Nat) : Nat := st * 2 ^ 24 + h % 2 ^ 24

/-- The stack a reader of a die reads (R198). -/
def readStack (e : BitVec 64) (die h : Nat) : Nat := if pteRepl e && bitOf e (39 + die) then onStack die h else h

/-- An entry of a table (R186). -/
def State.pte (s : State) (t i : Nat) : BitVec 64 := BitVec.ofNat 64 (s.hbm.le (t * 8192 + 8 * i) 8)

/-! ### Walks (R186, R188, R189) -/

/-- Where a walk ended: the level, the leaf it found, and the entries of levels 1 to 3 it passed. -/
structure WalkEnd where
  level : Nat
  leaf  : Option (BitVec 64)
  seen  : List HubEntry := []
  deriving DecidableEq, Repr

/-- The key of an owner's partition of a die's walk caches. -/
def hubKey (n o : Nat) : Nat := n / 64 * 128 + o
/-- The key of an owner's partition of a hamlet's translation cache. -/
def hamletKey (n o : Nat) : Nat := n / 16 * 128 + o

/-- An entry of a walk at a level: from the die's walk caches, else from the table (R189). -/
def State.walkEntry (s : State) (hub : List HubEntry) (level va t : Nat) : BitVec 64 :=
  match hub.find? fun h => h.level == level && h.pfx == va / spanAt level with
  | some h => h.entry
  | none => s.pte t (va / spanAt level % 1024)

/-- A walk with k levels to go from a table (R186). -/
def State.walkFrom (s : State) (hub : List HubEntry) (va : Nat) : Nat → Nat → WalkEnd
  | 0, _ => { level := 4, leaf := none }
  | k + 1, t =>
    let level := 4 - k
    let e := s.walkEntry hub level va t
    let seen := if level ≤ 3 then [HubEntry.mk level (va / spanAt level) e] else []
    if !pteOk level e then { level := level, leaf := none }
    else if pteLeaf e then { level := level, leaf := some e, seen := seen }
    else
      let r := s.walkFrom hub va k (pteFrame e)
      { r with seen := seen ++ r.seen }

/-- A walk for an owner through given walk caches; an owner without a root has nothing mapped, and an address past 2^53 fails at level 1 (DEDUCED,
log 54). -/
def State.walk (s : State) (hub : List HubEntry) (o va : Nat) : WalkEnd :=
  if 2 ^ 53 ≤ va then { level := 1, leaf := none } else
  match (s.owners.find o).bind fun w => w.root with
  | none => { level := 1, leaf := none }
  | some r => s.walkFrom hub va 4 r

/-! ### Translation caches (R189, R190) -/

/-- A cached translation covers an address. -/
def TlbEntry.covers (e : TlbEntry) (va : Nat) : Bool := e.vpage == va / 2 ^ (13 + 10 * e.size)

/-- The cached translation of an address. -/
def tlbFind (l : List TlbEntry) (va : Nat) : Option TlbEntry := l.find? fun e => e.covers va

/-- Put a translation at the front of a cache of n entries, the least recently used falling out (R189). -/
def tlbPut (n : Nat) (e : TlbEntry) (l : List TlbEntry) : List TlbEntry := (e :: l.filter (· != e)).take n

/-- How many crofts of a croft's hamlet its owner holds (R189). -/
def State.hamletShare (s : State) (n o : Nat) : Nat :=
  (s.crofts.filter fun p => p.1 / 16 == n / 16 && p.2.owner == some o).length

/-- A walk or a hamlet hit fills the caches of the croft that missed (R189). A full hamlet partition drops its oldest fill, and a hub's walk caches
hold every entry seen (DESIGN CHOICE, log 112). -/
def State.fillTlb (s : State) (n o : Nat) (va : Nat) (r : WalkEnd) : State :=
  match r.leaf with
  | none => s
  | some leaf =>
    let size := 4 - r.level
    let e : TlbEntry := ⟨va / 2 ^ (13 + 10 * size), size, leaf⟩
    let c := s.croft n
    let hubs := (s.hub.find (hubKey n o)).getD []
    let s := s.setCroft n { c with tlb := tlbPut 64 e c.tlb }
    { s with
      hamlet := s.hamlet.put (hamletKey n o) (tlbPut (128 * s.hamletShare n o) e ((s.hamlet.find (hamletKey n o)).getD []))
      hub := s.hub.put (hubKey n o) (r.seen ++ hubs.filter fun h => !r.seen.contains h) }

/-- What a croft's miss finds: its hamlet's cache, else a walk by the die's hub (R189). -/
def State.lookup (s : State) (n o va : Nat) : WalkEnd :=
  match tlbFind ((s.hamlet.find (hamletKey n o)).getD []) va with
  | some e => { level := 4 - e.size, leaf := some e.leaf }
  | none => s.walk ((s.hub.find (hubKey n o)).getD []) o va

/-- Remove translations from every cache of an owner (R188, R197). -/
def State.flushOwner (s : State) (o : Nat) : State :=
  { s with
    crofts := s.crofts.map fun p => (p.1, if p.2.owner == some o then { p.2 with tlb := [] } else p.2)
    hamlet := s.hamlet.filter fun p => p.1 % 128 != o
    hub := s.hub.filter fun p => p.1 % 128 != o }

/-- A range of 2^w bytes from base a and the one of 2^v bytes that holds an address have bytes in common: one lies in the other. -/
def sameSpan (a w va v : Nat) : Bool := a / 2 ^ v == va / 2 ^ v || a / 2 ^ w == va / 2 ^ w

/-- A cached translation covers bytes of the page of a size (R190) that holds an address; size 3 is every page. -/
def TlbEntry.inPage (e : TlbEntry) (va size : Nat) : Bool :=
  size == 3 || sameSpan (e.vpage * 2 ^ (13 + 10 * e.size)) (13 + 10 * e.size) va (13 + 10 * size)

/-- A walk-cache entry covers bytes of the page of a size that holds an address (R189, R190). -/
def HubEntry.inPage (h : HubEntry) (va size : Nat) : Bool :=
  size == 3 || sameSpan (h.pfx * spanAt h.level) (53 - 10 * h.level) va (13 + 10 * size)

/-- The FRAMEs of the leaves with SH = 1 among entries that PGINV removes (R190). -/
def sharedFrames (tlb : List TlbEntry) (hub : List HubEntry) (va size : Nat) : List Nat :=
  let leaves := (tlb.filter fun e => e.inPage va size).map (·.leaf)
    ++ ((hub.filter fun h => h.inPage va size && pteLeaf h.entry).map (·.entry))
  (leaves.filter pteSh).map pteFrame

/-- A cached translation stays after a PGINV that removes the entries of some FRAMEs too (R190). -/
def TlbEntry.stays (va size : Nat) (frames : List Nat) (e : TlbEntry) : Bool := !e.inPage va size && !frames.contains (pteFrame e.leaf)

/-- A walk-cache entry stays after a PGINV that removes the leaves of some FRAMEs too (R190). -/
def HubEntry.stays (va size : Nat) (frames : List Nat) (h : HubEntry) : Bool :=
  !h.inPage va size && !(pteLeaf h.entry && frames.contains (pteFrame h.entry))

/-- PGINV's removal (R190): from the croft cache, the owner's hamlet partition and its walk caches on this die. -/
def State.pginv (s : State) (n o va size : Nat) : State :=
  let c := s.croft n
  let ham := (s.hamlet.find (hamletKey n o)).getD []
  let hubs := (s.hub.find (hubKey n o)).getD []
  let frames := sharedFrames (c.tlb ++ ham) hubs va size
  { s.setCroft n { c with tlb := c.tlb.filter (TlbEntry.stays va size frames) } with
    hamlet := s.hamlet.put (hamletKey n o) (ham.filter (TlbEntry.stays va size frames))
    hub := s.hub.put (hubKey n o) (hubs.filter (HubEntry.stays va size frames)) }

/-! ### Pieces of an access -/

/-- A translation fault (R188): code, address, walk level. -/
structure TransFault where
  code  : FCode
  addr  : Nat
  level : Nat
  deriving DecidableEq, Repr

/-- The part of an access on one 8 KiB page. -/
structure Piece where
  va     : Nat
  leaf   : BitVec 64
  handle : Nat
  off    : Nat
  len    : Nat
  deriving DecidableEq, Repr

/-- The pieces of an access of n bytes at va, in rising order; the first argument bounds how many pages it touches. -/
def State.pieces (s : State) (o : Nat) (write : Bool) : Nat → Nat → Nat → Except TransFault (List Piece)
  | 0, _, _ => .ok []
  | k + 1, va, n =>
    if n == 0 then .ok []
    else
      let r := s.walk [] o va
      match r.leaf with
      | none => .error ⟨.transnp, va, r.level⟩
      | some leaf =>
        if write && !pteW leaf then .error ⟨.transperm, va, r.level⟩
        else
          let m := Nat.min n (8192 - va % 8192)
          match s.pieces o write k (va + m) (n - m) with
          | .error e => .error e
          | .ok l => .ok (⟨va, leaf, leafHandle leaf r.level va, va % 8192, m⟩ :: l)

/-- The pieces of an access of an owner. -/
def State.extent (s : State) (o va n : Nat) (write : Bool) : Except TransFault (List Piece) :=
  s.pieces o write (n / 8192 + 2) va n

/-! ### Reads (R198, R234) -/

/-- A 64-byte unit of a stack is poisoned (R234). -/
def State.poisoned (s : State) (unit : Nat) : Bool := s.hbmPoison.contains unit

/-- The 64-byte units that a physical range touches. -/
def unitsOf (a n : Nat) : List Nat := if n == 0 then [] else (List.range ((a + n - 1) / 64 + 1 - a / 64)).map (a / 64 + ·)

/-- Read one piece: a poisoned unit gives zeros, and its owner virtual address is reported. -/
def State.readPiece (s : State) (die : Nat) (p : Piece) : List Byte × List Nat :=
  let a := readStack p.leaf die p.handle * 8192 + p.off
  let bad := (unitsOf a p.len).filter s.poisoned
  let bytes := s.hbm.readN a p.len
  if bad.isEmpty then (bytes, [])
  else ((indexed bytes).map fun x => if bad.contains ((a + x.1) / 64) then 0 else x.2, bad.map fun u => p.va - p.va % 64 + (u - a / 64) * 64)

/-- The owner addresses of poisoned units that a read of a croft meets (R234). -/
def State.badUnits (s : State) (n va len : Nat) : List Nat :=
  match (s.croft n).owner.map fun o => s.extent o va len false with
  | some (.ok ps) => ps.flatMap fun p => (s.readPiece (n / 64) p).2
  | _ => []

/-- Read n bytes of owner memory for a croft. -/
def State.ownerRead (s : State) (n va len : Nat) : Except TransFault (List Byte × State) :=
  match (s.croft n).owner with
  | none => .error ⟨.transnp, va, 1⟩
  | some o =>
    match s.extent o va len false with
    | .error e => .error e
    | .ok ps =>
      let rs := ps.map (s.readPiece (n / 64))
      .ok (rs.flatMap (·.1), s.poisonRecords n (rs.flatMap (·.2)))

/-! ### Sectors (R192, R193) -/

/-- The sectors of a page's bytes (R192, R195). -/
def sectorsOf (cmp slow : Bool) (bytes : List Byte) : Nat :=
  if !cmp then 64
  else if bytes.all (· == 0) then 0
  else Nat.min 64 (ceilDiv (if slow then Config.slowLen bytes else Config.fastLen bytes) 128)

/-- The bytes of a page. -/
def State.pageBytes (s : State) (h : Nat) : List Byte := s.hbm.readN (h * 8192) 8192

/-- A page stands recompressed with the slow codec (R195). -/
def State.slowPage (s : State) (h : Nat) : Bool := (vget s.granaries {} (h / 2 ^ 24)).slow.contains (h % 2 ^ 24)

/-- The sectors a page occupies now (R190, R192). -/
def State.pageSectors (s : State) (cmp : Bool) (h : Nat) : Nat := sectorsOf cmp (s.slowPage h) (s.pageBytes h)

/-- The entries of a table that are present: P is the top bit of an entry's last byte. -/
def State.tableEntries (s : State) (t : Nat) : List Nat :=
  ((s.hbm.slice (t * 8192) 8192).filter fun c => c.1 % 8 == 7 && 128 ≤ c.2.toNat).map fun c => (c.1 - t * 8192) / 8

/-- A leaf of an owner's page tables: where it maps, its level, itself, and where it stands. -/
structure Mapped where
  va    : Nat
  level : Nat
  leaf  : BitVec 64
  table : Nat
  index : Nat
  deriving DecidableEq, Repr

/-- The leaves under a table with k levels to go. -/
def State.leavesFrom (s : State) : Nat → Nat → Nat → List Mapped
  | 0, _, _ => []
  | k + 1, t, va =>
    let level := 4 - k
    (s.tableEntries t).flatMap fun i =>
      let e := s.pte t i
      if !pteOk level e then []
      else if pteLeaf e then [⟨va + i * spanAt level, level, e, t, i⟩]
      else s.leavesFrom k (pteFrame e) (va + i * spanAt level)

/-- The leaves of an owner. -/
def State.leaves (s : State) (o : Nat) : List Mapped :=
  match (s.owners.find o).bind fun w => w.root with
  | none => []
  | some r => s.leavesFrom 4 r 0

/-- A list without repeats. -/
def dedupe {α : Type} [BEq α] : List α → List α
  | [] => []
  | a :: l => if l.contains a then dedupe l else a :: dedupe l

/-- Insert by a rising key. -/
def insertBy {α : Type} (key : α → Nat) (a : α) : List α → List α
  | [] => [a]
  | b :: l => if key b ≤ key a then b :: insertBy key a l else a :: b :: l

/-- Sort by a rising key; equals keep their order. -/
def sortBy {α : Type} (key : α → Nat) (l : List α) : List α := l.foldl (fun m a => insertBy key a m) []

/-- The leaves of an owner that name distinct pages: a page mapped twice (SH) counts once. -/
def State.ownerPages (s : State) (o : Nat) : List Mapped :=
  (s.leaves o).foldl (fun l m => if l.any fun x => pteFrame x.leaf == pteFrame m.leaf && x.level == m.level then l else l ++ [m]) []

/-- The sectors of a leaf's pages on a stack (R192): pages that hold only zeros take none where they are compressed. -/
def State.leafSectors (s : State) (st : Nat) (m : Mapped) : Nat :=
  if !(leafStacks m.leaf).contains st then 0
  else if !pteCmp m.leaf then 64 * pagesAt m.level
  else
    let h := onStack st (pteFrame m.leaf)
    let pages := dedupe ((s.hbm.slice (h * 8192) (8192 * pagesAt m.level)).map fun c => c.1 / 8192)
    pages.foldl (fun n p => n + s.pageSectors true p) 0

/-- The tables of an owner under a table with k levels to go. -/
def State.tablesFrom (s : State) : Nat → Nat → Nat → List Nat
  | 0, _, _ => []
  | k + 1, level, t =>
    t :: (s.tableEntries t).flatMap fun i =>
      let e := s.pte t i
      if pteOk level e && !pteLeaf e then s.tablesFrom k (level + 1) (pteFrame e) else []

/-- The tables of an owner (R186). -/
def State.tables (s : State) (o : Nat) : List Nat :=
  match (s.owners.find o).bind fun w => w.root with | none => [] | some r => s.tablesFrom 4 1 r

/-- The page ranges of the HBM that an owner's tables and leaves cover: first handle and number of pages. -/
def State.ownerRanges (s : State) (o : Nat) : List (Nat × Nat) :=
  ((s.tables o).map fun t => (t, 1)) ++ (s.leaves o).flatMap fun m => (leafStacks m.leaf).map fun st => (onStack st (pteFrame m.leaf), pagesAt m.level)

/-- The bytes of a context's fixed part (R237). -/
def contextFixed : Nat := 0x261000

/-- The bytes of a context's variable part (R237): pending landing buffers, QV entries, and the results in flight beyond the 64th. -/
def Croft.contextMore (c : Croft) : Nat :=
  let buffers := (c.inFlight.filter fun p => match p.op with | .tile .. => true | _ => false).length
  let vs := c.qv.toList.flatMap fun q => q.filterMap (·.val)
  16448 * buffers + vs.foldl (fun n v => n + 64 * ceilDiv (8 + 8 * v.runs.length) 64) 0 + 544 * (c.inFlight.length - 64)

/-- The sectors of a stack that Sillu takes of its own reserve: 64 of each page table (R186), and those of the saved contexts, each on the stack of its
source croft's die (R237; DEDUCED, log 102). -/
def State.silluSectors (s : State) (st : Nat) : Nat :=
  let tables := s.owners.flatMap fun p => (s.tables p.1).filter fun t => t / 2 ^ 24 == st
  (s.saved.filter fun p => p.2.source / 64 == st).foldl (fun n p => n + ceilDiv (contextFixed + p.2.croft.contextMore) 128) (64 * tables.length)

/-- The sectors of a stack that a held write of an owner has obtained there (R198). -/
def State.heldSectors (s : State) (o st : Nat) : Nat :=
  s.holds.foldl (fun k n =>
    match (s.croft n).owner == some o, (s.croft n).freeze.held with
    | true, some h => h.got.foldl (fun k g => if g.1 == st then k + g.2 else k) k
    | _, _ => k) 0

/-- U[o][s] (R193): the sectors of the owner's pages, and those that its held writes have obtained (R198). -/
def State.use (s : State) (o st : Nat) : Nat := (s.ownerPages o).foldl (fun n m => n + s.leafSectors st m) (s.heldSectors o st)

/-- RES[o][s] (R193). -/
def State.res (s : State) (o st : Nat) : Nat := match s.owners.find o with | some w => vget w.res 0 st | none => 0

/-- The free pool of a stack (R193): sectors that no owner and not Sillu uses, and no owner's unused reserve covers. -/
def State.pool (s : State) (st : Nat) : Nat :=
  2 ^ 29 - s.silluSectors st - s.owners.foldl (fun n p => n + Nat.max (s.use p.1 st) (vget p.2.res 0 st)) 0

/-- k more sectors can be had: from the owner's unused reserve, else the part above RES from the pool (R193). -/
def State.sectorsFit (s : State) (o st k : Nat) : Bool :=
  let u := s.use o st
  u + k ≤ s.res o st || u + k - Nat.max u (s.res o st) ≤ s.pool st

/-- Some of the held writes wait for sectors of a stack (R195). -/
def State.stackHeld (s : State) (holds : List Nat) (st : Nat) : Bool :=
  holds.any fun n => match (s.croft n).freeze.held with | some h => h.lacking.contains st | none => false

/-- A write may take k more sectors now: within its owner's reserve, or from the pool where no write held before it waits for them (R193, R195). -/
def State.mayTake (s : State) (o st k : Nat) : Bool :=
  s.use o st + k ≤ s.res o st || (!s.stackHeld s.holds st && s.sectorsFit o st k)

/-! ### Writes (R195, R198, R234) -/

/-- Why a write did not perform: its translation failed, or the Granary holds it for want of sectors on some stacks, while those of others are
obtained (R198). -/
inductive WriteStop where
  | trans (f : TransFault)
  | held (lacking : List Nat) (got : List (Nat × Nat))
  deriving DecidableEq, Repr

/-- A page's bytes with some replaced. -/
def patch (old : List Byte) (off : Nat) (new : List Byte) : List Byte := old.take off ++ new ++ old.drop (off + new.length)

/-- The pieces of a write, each with its bytes. -/
def pieceBytes : List Piece → List Byte → List (Piece × List Byte)
  | [], _ => []
  | p :: ps, bs => (p, bs.take p.len) :: pieceBytes ps (bs.drop p.len)

/-- The growth in sectors of a page's copy on a stack by a write (R192): an RMW of a REPL page asks for the full 64 (R198). -/
def State.growth (s : State) (rmw : Bool) (st : Nat) (x : Piece × List Byte) : Int :=
  let h := onStack st x.1.handle
  let old := s.pageBytes h
  let cmp := pteCmp x.1.leaf
  let want := if rmw && pteRepl x.1.leaf then 64 else sectorsOf cmp false (patch old x.1.off x.2)
  (want : Int) - (s.pageSectors cmp h : Nat)

/-- The growth on one stack of a whole write. -/
def State.growthOn (s : State) (rmw : Bool) (l : List (Piece × List Byte)) (st : Nat) : Int :=
  (l.filter fun x => (leafStacks x.1.leaf).contains st).foldl (fun k x => k + s.growth rmw st x) 0

/-- The stacks whose sectors do not suffice for a write (R195, R198). -/
def State.shortStacks (s : State) (o : Nat) (rmw : Bool) (l : List (Piece × List Byte)) : List Nat :=
  (List.range 16).filter fun st =>
    let k := s.growthOn rmw l st
    0 < k && !s.mayTake o st k.toNat

/-- The sectors that a write obtains on the stacks that have them (R193, R198). -/
def State.gotSectors (s : State) (o : Nat) (rmw : Bool) (l : List (Piece × List Byte)) : List (Nat × Nat) :=
  (List.range 16).filterMap fun st =>
    let k := s.growthOn rmw l st
    if 0 < k && s.mayTake o st k.toNat then some (st, k.toNat) else none

/-- A page is written: the fast codec stores it anew, and it is the one most recently written (R192, R195). -/
def State.touchPage (s : State) (h : Nat) : State :=
  let k := vget s.granaries {} (h / 2 ^ 24)
  let p := h % 2 ^ 24
  let k' : Stack := { k with slow := k.slow.filter (· != p), order := k.order.filter (fun x => x.1 != p) ++ [(p, s.round)] }
  { s with granaries := vset s.granaries (h / 2 ^ 24) k' }

/-- Bytes reach a stack: a poisoned unit that they cover in part is filled with zeros first (R234). -/
def State.storePage (s : State) (h off : Nat) (bytes : List Byte) : State :=
  let a := h * 8192 + off
  let bad := (unitsOf a bytes.length).filter s.poisoned
  let hbm := bad.foldl (fun m u => Memory.clear m (64 * u) 64) s.hbm
  { s with hbm := hbm.writeN a bytes, hbmPoison := s.hbmPoison.filter fun u => !bad.contains u }.touchPage h

/-- A piece is written on every stack that holds its page (R198). -/
def State.storePiece (s : State) (x : Piece × List Byte) : State :=
  (leafStacks x.1.leaf).foldl
    (fun s st => s.storePage (onStack st x.1.handle) x.1.off x.2) s

/-- The Granary's samples of a write on one stack (R271): the owner's use, as it is after the write, and Sillu's of the free pool (DEDUCED,
log 113). -/
def State.sampleStack (s : State) (o st : Nat) : State :=
  match s.owners.find o with
  | none => s
  | some w =>
    let w' : Owner := { w with granLive := w.granLive.put st (((w.granLive.find st).getD {}).sample (s.use o st)) }
    { s with owners := s.owners.put o w', poolLive := vset s.poolLive st ((vget s.poolLive {} st).sample (s.pool st)) }

/-- The Granary's samples at a write (R271): on every stack that holds a page written. -/
def State.sampleUse (s : State) (o : Nat) (l : List (Piece × List Byte)) : State :=
  (l.flatMap fun x => leafStacks x.1.leaf).foldl (fun s st => s.sampleStack o st) s

/-- Write bytes to owner memory for a croft: every page translates, and every stack has the sectors, before any byte is written. -/
def State.ownerWrite (s : State) (n va : Nat) (bytes : List Byte) (rmw : Bool) : Except WriteStop State :=
  match (s.croft n).owner with
  | none => .error (.trans ⟨.transnp, va, 1⟩)
  | some o =>
    match s.extent o va bytes.length true with
    | .error e => .error (.trans e)
    | .ok ps =>
      let l := pieceBytes ps bytes
      match s.shortStacks o rmw l with
      | [] => .ok ((l.foldl State.storePiece s).sampleUse o l)
      | sts => .error (.held sts (s.gotSectors o rmw l))

/-! ### A command's accesses (R189, R271) -/

/-- A walk that a hub makes, not its hamlet's cache, enters the croft's monitor (R271). -/
def State.walkSample (s : State) (n o va : Nat) : State :=
  if (tlbFind ((s.hamlet.find (hamletKey n o)).getD []) va).isSome then s
  else
    let (v, s) := s.freeCycles
    let c := s.croft n
    s.setCroft n { c with mons := { c.mons with walk := c.mons.walk.sample v } }

/-- A command of a croft meets a page (R189): where the croft cache lacks it, the hamlet's cache or a walk by the hub fills it. -/
def State.meetPage (s : State) (n o va : Nat) : State :=
  let c := s.croft n
  match tlbFind c.tlb va with
  | some e => s.setCroft n { c with tlb := tlbPut 64 e c.tlb }
  | none =>
    let r := s.lookup n o va
    (s.walkSample n o va).fillTlb n o va r

/-- The first address of an extent on each 8 KiB page it touches. -/
def pageStarts (va n : Nat) : List Nat :=
  if n == 0 then []
  else va :: (List.range ((va + n - 1) / 8192 - va / 8192)).map fun i => (va / 8192 + 1 + i) * 8192

/-- A command of a croft meets the pages of n bytes from va. -/
def State.meetPages (s : State) (n va len : Nat) : State :=
  match (s.croft n).owner with
  | none => s
  | some o => (pageStarts va len).foldl (fun s p => s.meetPage n o p) s

/-- A command reads owner memory. -/
def State.cmdRead (s : State) (n va len : Nat) : Except TransFault (List Byte × State) := (s.meetPages n va len).ownerRead n va len

/-- A command writes owner memory. -/
def State.cmdWrite (s : State) (n va : Nat) (bytes : List Byte) (rmw : Bool) : Except WriteStop State :=
  (s.meetPages n va bytes.length).ownerWrite n va bytes rmw

/-! ### Gorsin lanes (R10, R22) -/

/-- The dies of some crofts. -/
def diesOf (l : List Nat) : List Nat := dedupe (l.map (· / 64))

/-- The Gorsin links of the row-first path between two compute dies (R9, R10; DEDUCED, log 15): link k < 16 joins die k to its east neighbour, link
16 + x joins the dies of column x. -/
def pathLinks (a b : Nat) : List Nat :=
  let lo := Nat.min (a % 8) (b % 8)
  let hi := Nat.max (a % 8) (b % 8)
  ((List.range (hi - lo)).map fun k => a / 8 * 8 + lo + k) ++ (if a / 8 == b / 8 then [] else [16 + b % 8])

/-- The links from a compute die to the nearer hall die, along its row (R9, R10; DEDUCED, log 15): links 24 and 25 join hall die 0 to d0 and d8,
links 26 and 27 hall die 1 to d7 and d15. -/
def hallLinks (a : Nat) : List Nat :=
  let row := a / 8
  if a % 8 < 4 then pathLinks a (8 * row) ++ [24 + row] else pathLinks a (8 * row + 7) ++ [26 + row]

/-- The links that a placement needs (R22): between its crofts' dies, from them to the stacks where it holds a reserve, and to its virtual
function in a hall die. -/
def linksOf (crofts held : List Nat) : List Nat :=
  let ds := diesOf crofts
  dedupe (ds.flatMap fun a => ((ds ++ held).flatMap fun b => pathLinks a b) ++ hallLinks a)

/-- The stacks on which an owner holds a reserve. -/
def Owner.resStacks (w : Owner) : List Nat := (List.range 16).filter fun st => 0 < vget w.res 0 st

/-- The links on which an owner holds a lane. -/
def Owner.links (w : Owner) : List Nat := linksOf w.crofts w.resStacks

/-- Every link of some has a lane left: of its 64 lanes Sillu keeps one and gives each owner that crosses it one (R10, R22; DESIGN CHOICE,
log 18). -/
def State.lanesFor (s : State) (links : List Nat) : Bool :=
  links.all fun k => (s.owners.filter fun p => p.2.links.contains k).length < 63

/-- An owner's traffic can reach a stack on lanes that it holds (R22). -/
def State.reaches (s : State) (o st : Nat) : Bool :=
  match s.owners.find o with
  | some w => (linksOf w.crofts [st]).all w.links.contains
  | none => true

/-! ### Sillu's changes to mappings (R188, R195, R241) -/

/-- Write a page-table entry. -/
def State.setPte (s : State) (t i : Nat) (e : BitVec 64) : State := { s with hbm := s.hbm.writeN (t * 8192 + 8 * i) (leBytes 8 e.toNat) }

/-- The pages of a stack that tables and leaves take: the first PAGE and the number of each block. -/
def State.takenOn (s : State) (st : Nat) : List (Nat × Nat) :=
  s.owners.flatMap fun p => ((s.ownerRanges p.1).filter fun r => r.1 / 2 ^ 24 == st).map fun r => (r.1 % 2 ^ 24, r.2)

/-- The PAGE of n free pages at a multiple of n, the same on every stack of a list (R185, R187, R198): past all that were ever taken, or where the 2^24
numbers are used up the lowest that nothing takes now (DESIGN CHOICE, log 62). -/
def State.freePages (s : State) (sts : List Nat) (n : Nat) : Option Nat :=
  let p := ceilDiv (sts.foldl (fun m st => Nat.max m (vget s.granaries {} st).nextPage) 0) n * n
  if p + n ≤ 2 ^ 24 then some p
  else
    let taken := sts.flatMap s.takenOn
    (sortBy id (0 :: taken.map fun r => ceilDiv (r.1 + r.2) n * n)).find? fun q =>
      q + n ≤ 2 ^ 24 && !(taken.any fun r => q < r.1 + r.2 && r.1 < q + n)

/-- Take free pages at one PAGE on every stack of a list. -/
def State.takePages (s : State) (sts : List Nat) (n : Nat) : Option (Nat × State) :=
  (s.freePages sts n).map fun p =>
    (p, { s with granaries := sts.foldl (fun v st =>
      let k := vget v {} st
      vset v st { k with nextPage := Nat.max k.nextPage (p + n) }) s.granaries })

/-- Take pages for an owner on a stack, or on the lowest that has them and that its lanes reach (R22): their first handle, none where no such stack has
them (DESIGN CHOICE, log 62). -/
def State.newPages (s : State) (o st n : Nat) : Option (Nat × State) :=
  (st :: (List.range 16).filter (s.reaches o)).findSome? fun x => (s.takePages [x] n).map fun r => (onStack x r.1, r.2)

/-- Where a leaf of an owner's address at a level stands under a table, its table and index, with the tables that are missing built on a stack; k levels
are to go. -/
def State.pathFrom (s : State) (o st va level : Nat) : Nat → Nat → Option (Nat × Nat × State)
  | 0, t => some (t, 0, s)
  | k + 1, t =>
    let l := 4 - k
    let i := va / spanAt l % 1024
    if l == level then some (t, i, s)
    else
      let e := s.pte t i
      if pteOk l e && !pteLeaf e then s.pathFrom o st va level k (pteFrame e)
      else (s.newPages o st 1).bind fun (h, s) => (s.setPte t i (BitVec.ofNat 64 (2 ^ 63 + h))).pathFrom o st va level k h

/-- The stack on which Sillu homes an owner's pages: that of the die of its lowest croft (DESIGN CHOICE, log 11). -/
def State.homeStack (s : State) (o : Nat) : Nat :=
  match s.owners.find o with
  | some w => (w.crofts.head?.getD 0) / 64
  | none => 0

/-- The root of an owner's tables, taken where it has none. -/
def State.rootFor (s : State) (o : Nat) (w : Owner) : Option (Nat × State) :=
  match w.root with
  | some r => some (r, s)
  | none => (s.newPages o (s.homeStack o) 1).map fun (h, s) => (h, { s with owners := s.owners.put o { w with root := some h } })

/-- Where a leaf of an owner stands, the root and the tables above it built where they are missing (R186): none where no page is left for one. -/
def State.pathTo (s : State) (o va level : Nat) : Option (Nat × Nat × State) :=
  (s.owners.find o).bind fun w => (s.rootFor o w).bind fun (r, s) => s.pathFrom o (s.homeStack o) va level 4 r

/-- Map a leaf into an owner's space, and remove stale translations (R188): none where no page is left for a table. -/
def State.mapLeaf (s : State) (o va level : Nat) (leaf : BitVec 64) : Option State :=
  if (s.owners.find o).isNone then some s
  else (s.pathTo o va level).map fun (t, i, s) => (s.setPte t i leaf).flushOwner o

/-- The tables of some addresses of an owner stand before pages are taken for these, so that no page is taken twice. -/
def State.openPaths (s : State) (o level : Nat) (vas : List Nat) : Option State :=
  vas.foldlM (fun s va => (s.pathTo o va level).map fun r => r.2.2) s

/-- Take pages for an owner's replicated page (R198): at one PAGE on the stacks of a list, else on fewer of them, else on one stack as any pages: the
stacks and that PAGE. -/
def State.newReplica (s : State) (o : Nat) (sts : List Nat) (n : Nat) : Option (List Nat × Nat × State) :=
  let some_ := (List.range sts.length).findSome? fun i =>
    let l := sts.take (sts.length - i)
    (s.takePages l n).map fun r => (l, r.1, r.2)
  some_.or ((s.newPages o (s.homeStack o) n).map fun r => ([r.1 / 2 ^ 24], r.1 % 2 ^ 24, r.2))

/-- The bytes of a page, as they are kept while it is away. -/
def State.takePage (s : State) (h : Nat) : Memory := (s.hbm.slice (h * 8192) 8192).map fun c => (c.1 - h * 8192, c.2)

/-- The units of a page that are poisoned, by their place in it (R234). -/
def State.takePoison (s : State) (h : Nat) : List Nat := (s.hbmPoison.filter fun u => u / 128 == h).map (· % 128)

/-- A page of a stack stands empty: zeros, no unit poisoned. -/
def State.clearPage (s : State) (h : Nat) : State :=
  { s with hbm := s.hbm.clear (h * 8192) 8192, hbmPoison := s.hbmPoison.filter fun u => u / 128 != h }

/-- Lay a page's bytes and its poisoned units down at a handle (R234). -/
def State.putPage (s : State) (h : Nat) (m : Memory) (bad : List Nat) : State :=
  let s := s.clearPage h
  { s with hbm := m.foldl (fun x c => Memory.write x (h * 8192 + c.1) c.2) s.hbm, hbmPoison := s.hbmPoison ++ bad.map (h * 128 + ·) }

/-! ### The balloon engine (R195, R196) -/

/-- When a page was last written, as its place in the stack's order: earlier is smaller. -/
def State.lastWrite (s : State) (st h : Nat) : Nat :=
  ((vget s.granaries {} st).order.takeWhile fun x => x.1 != h % 2 ^ 24).length

/-- A page has not been written in the last 2^24 cy (R195), counted in rounds of 128 cy. -/
def State.idlePage (s : State) (st h : Nat) : Bool :=
  match (vget s.granaries {} st).order.find? fun x => x.1 == h % 2 ^ 24 with
  | some x => 2 ^ 17 ≤ s.round - x.2
  | none => true

/-- An owner's use above its reserve on a stack. -/
def State.over (s : State) (o st : Nat) : Nat := s.use o st - s.res o st

/-- The 8 KiB pages of an owner on a stack with their leaves, least recently written first: those that take sectors, a raw page of zeros too (R192), but
for the zero pages of a larger leaf, which no step of the balloon engine frees. -/
def State.pagesOn (s : State) (o st : Nat) : List (Nat × Mapped) :=
  sortBy (fun p => s.lastWrite st p.1)
    ((s.ownerPages o).flatMap fun m =>
      if !(leafStacks m.leaf).contains st then []
      else
        let h := onStack st (pteFrame m.leaf)
        if m.level == 4 && !pteCmp m.leaf then [(h, m)]
        else (dedupe ((s.hbm.slice (h * 8192) (8192 * pagesAt m.level)).map fun c => c.1 / 8192)).map fun p => (p, m))

/-- The owners of the module over reserve on a stack, the most over first. -/
def State.overOwners (s : State) (st : Nat) : List Nat :=
  ((sortBy (fun o => s.over o st) ((s.owners.map (·.1)).filter fun o => 0 < s.over o st)).reverse)

/-- Discard a page: it becomes a zero page at once (R195, R196), on every stack that holds it. -/
def State.discardPage (s : State) (m : Mapped) (h : Nat) : State :=
  (leafStacks m.leaf).foldl (fun s st => s.clearPage (onStack st h)) s

/-- Recompress a page with the slow codec where that takes fewer sectors (R195). -/
def State.recompress (s : State) (h : Nat) : State :=
  let b := s.pageBytes h
  if sectorsOf true true b < sectorsOf true false b then
    let k := vget s.granaries {} (h / 2 ^ 24)
    let k' : Stack := { k with slow := if k.slow.contains (h % 2 ^ 24) then k.slow else k.slow ++ [h % 2 ^ 24] }
    { s with granaries := vset s.granaries (h / 2 ^ 24) k' }
  else s

/-- A stack of the module other than st that an owner's lanes reach, that can take k more sectors of it and has a page free. -/
def State.roomStack (s : State) (o st k : Nat) : Option Nat :=
  (List.range 16).find? fun x => x != st && s.reaches o x && s.sectorsFit o x k && (s.freePages [x] 1).isSome

/-- A page leaves its handle: it stands empty there, and the stack's lists forget it. -/
def State.leavePage (s : State) (h : Nat) : State :=
  let s := s.clearPage h
  let k := vget s.granaries {} (h / 2 ^ 24)
  let k' : Stack := { k with slow := k.slow.filter (· != h % 2 ^ 24), order := k.order.filter fun x => x.1 != h % 2 ^ 24 }
  { s with granaries := vset s.granaries (h / 2 ^ 24) k' }

/-- The leaf with another FRAME. -/
def leafAt (leaf : BitVec 64) (h : Nat) : BitVec 64 := BitVec.ofNat 64 (leaf.toNat - leaf.toNat % 2 ^ 28 + h)

/-- Spill an 8 KiB page (R195): to another stack of the module that has the sectors, every leaf of it naming the new handle, or to a peer
package, every leaf of it reading P = 0. Larger and replicated pages stay. -/
def State.spill (s : State) (o st : Nat) (m : Mapped) : State :=
  if m.level != 4 || pteRepl m.leaf then s
  else
    let h := pteFrame m.leaf
    let ms := (s.leaves o).filter fun x => x.level == 4 && pteFrame x.leaf == h
    let bytes := s.takePage h
    let bad := s.takePoison h
    match (s.roomStack o st (s.pageSectors (pteCmp m.leaf) h)).bind fun x => (s.takePages [x] 1).map fun r => (onStack x r.1, r.2) with
    | some (h', s) =>
      let s := ((s.putPage h' bytes bad).touchPage h').leavePage h
      (ms.foldl (fun s (x : Mapped) => s.setPte x.table x.index (leafAt x.leaf h')) s).flushOwner o
    | none =>
      let s := { s.leavePage h with spilled := s.spilled ++ [Spilled.mk o (ms.map fun (x : Mapped) => (x.va, x.leaf)) bytes bad] }
      (ms.foldl (fun s (x : Mapped) => s.setPte x.table x.index 0) s).flushOwner o

/-- Take balloon steps in order until a condition holds. -/
def balloon (fits : State → Bool) (steps : List (State → State)) (s : State) : State :=
  steps.foldl (fun s f => if fits s then s else f s) s

/-- The steps of the balloon engine of a stack (R195): discards, then recompressions, then spills. -/
def State.balloonSteps (s : State) (st : Nat) : List (State → State) :=
  let greedy := s.overOwners st
  let discard := greedy.flatMap fun o =>
    ((s.pagesOn o st).filter fun p => pteDisc p.2.leaf).map fun p =>
      fun (s : State) => if 0 < s.over o st then s.discardPage p.2 p.1 else s
  let slow := (sortBy (fun (p : Nat × Mapped) => s.lastWrite st p.1)
    ((s.owners.map (·.1)).flatMap fun o => (s.pagesOn o st).filter fun p => pteCmp p.2.leaf && s.idlePage st p.1)).map fun p =>
      fun (s : State) => s.recompress p.1
  let spills := greedy.flatMap fun o =>
    (s.pagesOn o st).map fun p => fun (s : State) => if 0 < s.over o st then s.spill o st p.2 else s
  discard ++ slow ++ spills

end Sys2Proof.Machine
end

