-- ==== Sys2Proof/Machine/Access.lean ====
section
/-! DEFINITION. The meanings of the access engine's instructions (R68, R274 to R280, R295, R313, R332, R338, R369): base registers,
barrier objects, loads, stores, atomics, fences, zero flags, bank gates and translation control. -/

namespace Sys2Proof.Machine

/-! ### Issuing on A -/

/-- Issue an A instruction: nothing of A issues while an STQ still pops its entries (R339). -/
def issueA (i : Instr) (t : Tok) (body : State → Except Stop (State × Fin)) : State → Host.Outcome State Fault Refusal :=
  issue i t fun s => if s.cur.stq.isSome then .error .wait else body s

/-- Issue an A instruction that acts on the croft alone and finishes at its landing. -/
def issueAC (i : Instr) (t : Tok) (body : Croft → Except Stop Croft) : State → Host.Outcome State Fault Refusal :=
  issueA i t fun s => match body s.cur with | .ok c => .ok (s.setCur c, .later) | .error e => .error e

/-- Issue an A instruction that acts on the croft alone and finishes at once. -/
def issueANow (i : Instr) (t : Tok) (body : Croft → Except Stop Croft) : State → Host.Outcome State Fault Refusal :=
  issueA i t fun s => match body s.cur with | .ok c => .ok (s.setCur c, .now) | .error e => .error e

/-! ### B registers (R279) -/

/-- Write Bd at landing; a write to B0 is discarded. -/
def Croft.writeB (c : Croft) (i : Instr) (sig lat d : Nat) (v : Word64) : Croft :=
  c.land .A i sig lat (if d == 0 then .nothing else .setB d v)

/-- BLI (R279). -/
def execBli (t : Tok) (o : AB) (x : Ext) : State → Host.Outcome State Fault Refusal :=
  issueAC (.bli t o x) t fun c => .ok (c.writeB (.bli t o x) t.sig.toNat 1 o.d.toNat x.uimm)

/-- BADD (R279): B[a] + m. -/
def baddValue (a m : Word64) : Word64 := a + m

/-- BADD (R279). -/
def execBadd (t : Tok) (o : AB) (x : Ext) : State → Host.Outcome State Fault Refusal :=
  issueAC (.badd t o x) t fun c => do
    let (m, c) ← c.operandAB o x
    .ok (c.writeB (.badd t o x) t.sig.toNat 1 o.d.toNat (baddValue (c.readB o.a.toNat) m))

/-- BMAD (R279): B[d] + B[a] · m. -/
def bmadValue (d a m : Word64) : Word64 := d + a * m

/-- BMAD (R279): B[d] is read at issue. -/
def execBmad (t : Tok) (o : AB) (x : Ext) : State → Host.Outcome State Fault Refusal :=
  issueAC (.bmad t o x) t fun c => do
    let (m, c) ← c.operandAB o x
    .ok (c.writeB (.bmad t o x) t.sig.toNat 3 o.d.toNat (bmadValue (c.readB o.d.toNat) (c.readB o.a.toNat) m))

/-- BMOV (R279): B[a], or the QA entry. -/
def execBmov (t : Tok) (o : AB) (x : Ext) : State → Host.Outcome State Fault Refusal :=
  issueAC (.bmov t o x) t fun c => do
    let (v, c) ← if o.qa then c.popA else .ok (c.readB o.a.toNat, c)
    .ok (c.writeB (.bmov t o x) t.sig.toNat 1 o.d.toNat v)

/-! ### Barrier objects (R168, R274) -/

/-- The count of an ABINIT, ABEXP or ABARV (R274): x0[19:0], or the low 20 bits of a QA entry. -/
def Croft.abCount (c : Croft) (o : AB) (x : Ext) : Except Stop (Nat × Croft) :=
  if o.qa then do
    let (v, c) ← c.popA
    .ok (bitsOf v 19 0, c)
  else .ok (fld x.x0 19 0, c)

/-- ABINIT (R168, R274). -/
def execAbinit (t : Tok) (o : AB) (x : Ext) : State → Host.Outcome State Fault Refusal :=
  issueAC (.abinit t o x) t fun c => do
    let (n, c) ← c.abCount o x
    .ok (c.land .A (.abinit t o x) t.sig.toNat 1 (.abInit o.d.toNat n))

/-- ABEXP (R168, R274). -/
def execAbexp (t : Tok) (o : AB) (x : Ext) : State → Host.Outcome State Fault Refusal :=
  issueAC (.abexp t o x) t fun c => do
    let (n, c) ← c.abCount o x
    .ok (c.land .A (.abexp t o x) t.sig.toNat 1 (.abExp o.d.toNat n))

/-- ABARV (R168, R274): a count of 0 means 1. -/
def execAbarv (t : Tok) (o : AB) (x : Ext) : State → Host.Outcome State Fault Refusal :=
  issueAC (.abarv t o x) t fun c => do
    let (n, c) ← c.abCount o x
    .ok (c.land .A (.abarv t o x) t.sig.toNat 1 (.abArv o.d.toNat (if n == 0 then 1 else n)))

/-! ### Addresses (R61) -/

/-- ALIGN where an address is no multiple of m (R225). -/
def aligned (w : Word64) (m : Nat) : Except Stop Unit := need (w.toNat % m == 0) (.fault { code := .align, addr := w.toNat })

/-- The space and byte address of a word, BOUNDS where it breaks R61, names a space that the instruction does not accept, or n bytes
from it run past the space. -/
def splitIn (ok : Space → Bool) (w : Word64) (n : Nat) : Except Stop (Space × Nat) :=
  match splitAddr w with
  | none => .error (boundsAt w)
  | some (space, a) => do
    need (ok space && a + n ≤ space.size) (boundsAt w)
    .ok (space, a)

/-- Every space is accepted. -/
def anySpace (_ : Space) : Bool := true
/-- Owner memory alone is accepted. -/
def ownerOnly (s : Space) : Bool := s == .owner
/-- Scratchpad alone is accepted. -/
def spOnly (s : Space) : Bool := s == .sp
/-- Owner memory and scratchpad are accepted. -/
def ownerOrSp (s : Space) : Bool := s != .acm

/-- Scratchpad accesses of an instruction whose address stands in no other space. -/
def inSp (space : Space) (l : List SpAcc) : List SpAcc := if space == .sp then l else []
/-- The ACM tiles that an access touches. -/
def inAcm (space : Space) (a n : Nat) : List Nat := if space == .acm then tilesOf a n else []

/-! ### Order among A's accesses (R202, R207 to R213, R296) -/

/-- The ordering class of A's word that writes memory (R204). -/
def clsOf : Instr → Nat
  | .stq _ o _ | .atom _ o _ => o.cls.toNat
  | _ => 0

/-- A word at a place in the stream belongs to the handler that runs. -/
def Croft.handlers (c : Croft) (seq : Nat) : Bool := match c.frame with | some f => f.seq ≤ seq | none => false

/-- A word of a handler may pass what goes on only after ERET: where the handler could not go on else (R52; DEDUCED, log 93). -/
def Croft.presses (c : Croft) (seq : Nat) : Bool := c.pressed && c.handlers seq

/-- The results set aside at a handler's entry that a word stands behind (R219, R231). -/
def Croft.asideOf (c : Croft) (seq : Nat) : List Pending :=
  match c.frame with
  | some f => if c.presses seq then [] else f.land
  | none => []

/-- The results in flight that a word stands behind, those set aside at a handler's entry among them (R219, R231). -/
def Croft.ahead (c : Croft) (seq : Nat) : List Pending := c.asideOf seq ++ c.lands

/-- The STQs that a word stands behind while they still take their entries, one set aside at a handler's entry among them (R219, R231). -/
def Croft.aheadStqs (c : Croft) (seq : Nat) : List StqRun := if c.presses seq then c.stq.toList else c.stqs

/-- A word passes an access or command that has stopped at its fault until ERET (R219, R232). -/
def Croft.passes (c : Croft) (seq : Nat) (h : Halt) : Bool := h == .faulted && c.presses seq

/-- A fence covers a class (R210). -/
def Fence.covers (f : Fence) (cls : Nat) : Bool := f.mask.testBit cls

/-- A word at a place in the stream finds a fence's hold over (R296). -/
def Croft.fencePast (c : Croft) (seq : Nat) (f : Fence) : Bool :=
  ({ c with accs := c.accs.filter fun (a : Access) => !c.passes seq a.halt
            copyq := c.copyq.filter fun (k : CopyCmd) => !c.passes seq k.halt } : Croft).fenceOver (c.ahead seq) (c.aheadStqs seq) f

/-- No fence before a place in the stream still holds a class (R296). -/
def Croft.fenceOpen (c : Croft) (seq cls : Nat) : Bool :=
  c.fences.all fun f => seq ≤ f.seq || !f.covers cls || c.fencePast seq f

/-- A pending access is PGPROBE's. -/
def Access.isProbe (a : Access) : Bool := match a.kind with | .probe _ => true | _ => false

/-- No earlier owner access of A stands before an access of a class to some bytes of owner memory: none of its class, none to a byte of it
(R202, R207 to R209). An STQ that still takes its entries is one. -/
def Croft.accsReady (c : Croft) (seq cls va len : Nat) : Bool :=
  (c.accs.all fun b => seq ≤ b.seq || b.isProbe || c.passes seq b.halt || !(b.ord.cls == cls || overlap va len b.va b.len))
    && (c.aheadStqs seq).all fun r => seq ≤ r.seq || r.space != .owner || !(r.ord.cls == cls || overlap va len r.addr (8 * r.need))

/-- Every earlier scratchpad write of A of a class has performed (R207, R209, R213), that of an STQ that still takes its entries among them. -/
def Croft.landsReady (c : Croft) (seq cls : Nat) : Bool :=
  ((c.ahead seq).all fun p => seq ≤ p.seq || p.spWrite.isNone || clsOf p.ins != cls)
    && (c.aheadStqs seq).all fun r => seq ≤ r.seq || r.space != .sp || r.ord.cls != cls

/-- An access of A to owner memory at a place in the stream may perform: what A has before it of its class or at a byte of it has performed
(R202, R207 to R209), and no fence holds it. -/
def Croft.orderReady (c : Croft) (seq cls va len : Nat) : Bool :=
  c.fenceOpen seq cls && c.accsReady seq cls va len && c.landsReady seq cls

/-- A command of A may perform its first access (R213): A's earlier accesses of its class have performed, no fence holds it, and an earlier
PGPROBE has completed (R190). -/
def Croft.commandReady (c : Croft) (seq cls : Nat) : Bool :=
  c.fenceOpen seq cls && c.accsReady seq cls 0 0 && c.landsReady seq cls && c.accs.all fun b => seq ≤ b.seq || !b.isProbe

/-- A's scratchpad writes that an access of A to scratchpad waits for at its issue: those set aside at a handler's entry, and in SCORE mode those
in flight. In FIXED mode an access that issues before a write in flight lands sees the old value (R44, R278, R314). DEDUCED, log 94. -/
def Croft.spHolders (c : Croft) : List Pending :=
  match c.mode with
  | .fixed => c.asideOf c.issueSeq
  | .score => c.ahead c.issueSeq

/-- An access of A to scratchpad waits at its issue for A's earlier owner accesses of its class (R207 to R209), and for A's scratchpad writes that
hold it, of its class or to a byte of it (R202, R207). -/
def Croft.spOrder (c : Croft) (cls : Nat) (l : List SpAcc) : Except Stop Unit :=
  need (l.all fun x => c.accsReady c.issueSeq cls 0 0
    && (c.spHolders.all fun p => match p.spWrite with | some (a, n) => clsOf p.ins != cls && !overlap a n x.a x.n | none => true)
    && (c.aheadStqs c.issueSeq).all fun r => r.space != .sp || (r.ord.cls != cls && !overlap r.addr (8 * r.need) x.a x.n)) .wait

/-! ### Translation at issue (R189, R190) -/

/-- Translate one page through the croft's cache: a miss starts a walk, a leaf without W refuses a write (R188). -/
def State.translatePage (s : State) (write : Bool) (va : Nat) : Except Stop State :=
  let c := s.cur
  match tlbFind c.tlb va with
  | none => .error (.walk ⟨va, write, false, c.issueSeq⟩)
  | some e =>
    if write && !pteW e.leaf then
      .error (.sys { code := .transperm, addr := va, aux := (4 - e.size) * 2 ^ 28, eng := .A, pc := c.issuePc, seq := c.issueSeq, write := write })
    else .ok (s.setCur { c with tlb := tlbPut 64 e c.tlb })

/-- Translate every page of an extent of A (R191, R339). A's accesses translate only after an earlier PGPROBE has completed
(R190). -/
def State.translate (s : State) (va n : Nat) (write : Bool) : Except Stop State := do
  need (!s.cur.accs.any Access.isProbe) .wait
  (pageStarts va n).foldlM (fun s a => s.translatePage write a) s

/-- A translation that the tables no longer hold raises its system fault. -/
def State.transStop (s : State) (write : Bool) (f : TransFault) : Stop :=
  .sys { code := f.code, addr := f.addr, aux := f.level * 2 ^ 28, eng := .A, pc := s.cur.issuePc, seq := s.cur.issueSeq, write := write }

/-! ### LDQ (R161, R313, R314) -/

/-- An LDQ reads a run-packed vector. -/
def ldqPacked (o : AM) (x : Ext) : Bool := 1 ≤ o.q.toNat && o.q.toNat ≤ 4 && fld x.x1 28 28 == 1

/-- The bytes that an LDQ reads (R313): the header alone for a packed read. -/
def ldqLen (o : AM) (x : Ext) : Nat :=
  if o.q == 0 then 8 else if o.q == 5 then 64 else if ldqPacked o x then 8 else ceilDiv (fld x.x1 12 0 * tagWidth (fld x.x1 27 24)) 8

/-- The largest extent of a packed vector (R84, R313, R338), cut at the last byte of its space. -/
def packedReach (space : Space) (a : Nat) : Nat := Nat.min 1032 (space.size - a)

/-- Dwords of bytes, least significant byte first. -/
def dwords (bytes : List Byte) : List Word64 := (chunks 8 (bytes.length / 8) bytes).map fun b => BitVec.ofNat 64 (leNat b)

/-- The vector that an LDQ's form word makes of bytes (R161). -/
def ldqVector (form : Payload) (bytes : List Byte) : VReg :=
  if fld form 28 28 == 1 then
    match dwords bytes with
    | [] => {}
    | h :: ps => packedVector h ps
  else denseRead (fld form 27 24) (fld form 12 0) (bytes.map (·.toNat))

/-- The entry that an LDQ delivers. -/
def ldqFill (q id : Nat) (form : Payload) (bytes : List Byte) : LandOp :=
  if q == 0 then .fill 0 id (BitVec.ofNat 64 (leNat bytes))
  else if q == 5 then .fillG id (BitVec.ofNat 512 (leNat bytes))
  else .fillV (q - 1) id (ldqVector form bytes)

/-- A target queue has room for one more entry, reservations counted (R314). -/
def Croft.ldqRoom (c : Croft) (q : Nat) : Bool :=
  if q == 0 then c.qc.length < 16 else if q == 5 then c.qg.length < 16 else (vget c.qv [] (q - 1)).length < 4

/-- Reserve an entry of a target queue, in program order (R220). -/
def Croft.ldqReserve (c : Croft) (q id : Nat) : Croft :=
  if q == 0 then { c with qc := c.qc ++ [⟨id, none⟩] }
  else if q == 5 then { c with qg := c.qg ++ [⟨id, none⟩] }
  else { c with qv := vset c.qv (q - 1) (vget c.qv [] (q - 1) ++ [⟨id, none⟩]) }

/-- The checks of an LDQ up to SCHEDCLASH (R313): its space and byte address. -/
def Croft.ldqChecks (c : Croft) (o : AM) (x : Ext) : Except Stop (Space × Nat) := do
  let w := c.ea o.b x
  let n := ldqLen o x
  aligned w (if o.q == 5 then 64 else 8)
  let (space, a) ← splitIn anySpace w n
  let reach := if ldqPacked o x then packedReach space a else n
  c.spBounds (inSp space [⟨a, n, false⟩])
  c.spHedge .A (inSp space [⟨a, reach, false⟩])
  c.tilesFree (inAcm space a reach)
  c.spAwake (inSp space [⟨a, n, false⟩])
  .ok (space, a)

/-- The header checks of a packed read (R313, check 6): the stored length. -/
def Croft.packedExtent (c : Croft) (w : Word64) (space : Space) (a : Nat) (h : Word64) : Except Stop Nat := do
  need (headerOk h) (.flt .lenmis)
  let n := 8 + 8 * hdrPairs h
  need (a + n ≤ space.size) (boundsAt w)
  c.spBounds (inSp space [⟨a, n, false⟩])
  c.spAwake (inSp space [⟨a, n, false⟩])
  .ok n

/-- A packed vector's bytes keep R371. -/
def packedBytesOk (bytes : List Byte) : Bool :=
  match dwords bytes with
  | [] => false
  | h :: ps => packedOk h ps

/-- LDQ from scratchpad or ACM reads at issue, and its entry lands at 6 vc (R314). A packed read's header, too, is read behind what is ordered
before it (R202, R208). -/
def Croft.ldqLocal (c : Croft) (i : Instr) (t : Tok) (o : AM) (x : Ext) (space : Space) (a : Nat) : Except Stop Croft := do
  c.spOrder o.cls.toNat (inSp space [⟨a, ldqLen o x, false⟩])
  let n ← if ldqPacked o x then c.packedExtent (c.ea o.b x) space a (BitVec.ofNat 64 (leNat (c.localRead space a 8))) else .ok (ldqLen o x)
  let bytes := c.localRead space a n
  c.spOrder o.cls.toNat (inSp space [⟨a, n, false⟩])
  need (!ldqPacked o x || packedBytesOk bytes) (.flt .lenmis)
  .ok ((c.ldqReserve o.q.toNat c.issueSeq).land .A i t.sig.toNat 6 (ldqFill o.q.toNat c.issueSeq x.x1 bytes))

/-- Add a pending access of the instruction that issues (R206). -/
def Croft.addAccess (c : Croft) (i : Instr) (t : Tok) (o : AM) (kind : AccKind) (va len : Nat) (bytes : List Byte) : Croft :=
  { c with accs := c.accs ++ [{ id := c.issueSeq, seq := c.issueSeq, pc := c.issuePc, launch := c.lastLaunch, kind := kind
                                ord := ⟨o.cls.toNat, o.sem.toNat, o.scope.toNat⟩, va := va, len := len, bytes := bytes
                                sig := t.sig.toNat, ins := i }] }

/-- A packed LDQ from owner memory does not issue until its header has been read and checked (R313): it waits for what is ordered
before it and can perform meanwhile, and reads its vector at its issue. Where the bytes read break a check, the records of poisoned units among them are made (R234). -/
def State.ldqOwnerPacked (s : State) (t : Tok) (o : AM) (x : Ext) (a : Nat) : Except Stop (State × Fin) := do
  let s ← s.translate a 8 false
  let c := s.cur
  need (c.orderReady c.issueSeq o.cls.toNat a 1032) .wait
  let (hb, _) ← (s.ownerRead s.me a 8).mapError (s.transStop false)
  let n ← (c.packedExtent (c.ea o.b x) .owner a (BitVec.ofNat 64 (leNat hb))).mapError (Stop.after (s.badUnits s.me a 8))
  let s ← s.translate a n false
  let (bytes, s') ← (s.ownerRead s.me a n).mapError (s.transStop false)
  need (packedBytesOk bytes) (.fault { code := .lenmis, seen := s.badUnits s.me a n })
  let s := s'
  let c := s.cur.ldqReserve o.q.toNat s.cur.issueSeq
  .ok (s.setCur ((c.landOp (ldqFill o.q.toNat c.issueSeq x.x1 bytes)).pushSig .A t.sig.toNat), .later)

/-- LDQ from owner memory is a pending access once its pages translate. -/
def State.ldqOwner (s : State) (t : Tok) (o : AM) (x : Ext) (a : Nat) : Except Stop (State × Fin) := do
  let n := ldqLen o x
  let s ← s.translate a n false
  let c := s.cur
  let c := (c.ldqReserve o.q.toNat c.issueSeq).addAccess (.ldq t o x) t o (.ldq o.q.toNat c.issueSeq x.x1) a n []
  .ok (s.setCur c, .later)

/-- LDQ (R313, R314). -/
def execLdq (t : Tok) (o : AM) (x : Ext) : State → Host.Outcome State Fault Refusal :=
  issueA (.ldq t o x) t fun s => do
    let (space, a) ← s.cur.ldqChecks o x
    need (s.cur.ldqRoom o.q.toNat) .wait
    match space with
    | .owner => if ldqPacked o x then s.ldqOwnerPacked t o x a else s.ldqOwner t o x a
    | _ => match s.cur.ldqLocal (.ldq t o x) t o x space a with
      | .ok c => .ok (s.setCur c, .later)
      | .error e => .error e

/-! ### STQ (R338, R339) -/

/-- A packed store. -/
def stqPacked (x : Ext) : Bool := fld x.x1 28 28 == 1

/-- The entries of a dense STQ: 0 means 1 (R338). -/
def stqCount (x : Ext) : Nat := if fld x.x1 12 0 == 0 then 1 else fld x.x1 12 0

/-- The checks of an STQ at issue (R338). -/
def Croft.stqChecks (c : Croft) (o : AM) (x : Ext) : Except Stop (Space × Nat) := do
  let w := c.ea o.b x
  let n := if stqPacked x then 8 else 8 * stqCount x
  aligned w 8
  let (space, a) ← splitIn anySpace w n
  let reach := if stqPacked x then packedReach space a else n
  c.spBounds (inSp space [⟨a, n, true⟩])
  c.spHedge .A (inSp space [⟨a, reach, true⟩])
  c.tilesFree (inAcm space a reach)
  c.spAwake (inSp space [⟨a, n, true⟩])
  .ok (space, a)

/-- The first entry of an STQ: one it kept from an attempt that a fault cut short, else the head of QS. -/
def Croft.stqFirst (c : Croft) : Except Stop (Word64 × Croft) :=
  match c.kept, c.qs with
  | v :: _, _ => .ok (v, { c with kept := [] })
  | [], v :: q => .ok (v, { c with qs := q })
  | [], [] => .error .wait

/-- An STQ has all its entries at a vc (R339): scratchpad and ACM land 4 vc later, owner memory becomes a pending access. -/
def Croft.stqDone (c : Croft) (r : StqRun) (vc : Nat) : Croft :=
  let bytes := r.got.flatMap fun v => leBytes 8 v.toNat
  match r.space with
  | .owner =>
    { c with stq := none
             accs := c.accs ++ [{ id := r.seq, seq := r.seq, pc := r.pc, launch := c.lastLaunch, kind := .stq, ord := r.ord, va := r.addr
                                  len := bytes.length, bytes := bytes, sig := r.sig, ins := r.ins }] }
  | _ => { c with stq := none, lands := insertPending ⟨vc + 4, r.seq, r.pc, .A, r.sig, .store r.space r.addr bytes, r.ins⟩ c.lands }

/-- One entry of an STQ is popped at a vc. -/
def Croft.stqTake (c : Croft) (r : StqRun) (v : Word64) (vc : Nat) : Croft :=
  let r := { r with got := r.got ++ [v], at_ := vc + 1 }
  if r.need ≤ r.got.length then c.stqDone r vc else { c with stq := some r }

/-- What a packed store's header gives (R339): the number of entries, or the fault it raises with LAND set. -/
def Croft.stqHeader (c : Croft) (w : Word64) (space : Space) (a : Nat) (h : Word64) : Except Flt Nat :=
  let n := 8 + 8 * hdrPairs h
  if !headerOk h then .error { code := .lenmis }
  else if !(a + n ≤ space.size) || !((inSp space [⟨a, n, true⟩]).all c.spReach) then .error { code := .bounds, addr := w.toNat }
  else .ok (1 + hdrPairs h)

/-- An STQ issues with its first entry popped. -/
def State.stqStart (s : State) (t : Tok) (o : AM) (x : Ext) (space : Space) (a need : Nat) : Except Stop (State × Fin) := do
  let s ← if space == .owner then s.translate a (8 * need) true else .ok s
  let c := s.cur
  let (v, c) ← c.stqFirst
  let r : StqRun := { seq := c.issueSeq, pc := c.issuePc, sig := t.sig.toNat, ord := ⟨o.cls.toNat, o.sem.toNat, o.scope.toNat⟩
                      ins := .stq t o x, addr := a, space := space, need := need, packed := stqPacked x, at_ := c.vclock }
  .ok (s.setCur (c.stqTake r v c.vclock), .later)

/-- STQ (R338, R339). A packed store's header is checked as it is popped: a fault there is taken with LAND set, the header
consumed. -/
def execStq (t : Tok) (o : AM) (x : Ext) : State → Host.Outcome State Fault Refusal :=
  issueA (.stq t o x) t fun s => do
    let c := s.cur
    let (space, a) ← c.stqChecks o x
    c.spOrder o.cls.toNat (inSp space [⟨a, if stqPacked x then packedReach space a else 8 * stqCount x, true⟩])
    let (v, c1) ← c.stqFirst
    if stqPacked x then
      match c.stqHeader (c.ea o.b x) space a v with
      | .error f =>
        .ok ((s.setCur c1).takeFault s.me { flt := f, eng := .A, pc := c.issuePc, seq := c.issueSeq, land := true }, .later)
      | .ok n => s.stqStart t o x space a n
    else s.stqStart t o x space a (stqCount x)

/-! ### ATOM (R221, R278) -/

/-- The size in bytes of an ATOM's unit (R221). -/
def atomSize (x : Ext) : Nat := 2 ^ fld x.x1 5 4
/-- An ATOM's operation (R221). -/
def atomOp (x : Ext) : Nat := fld x.x1 3 0
/-- How many QA entries an ATOM pops: two for CAS (R221). -/
def atomPops (x : Ext) : Nat := if atomOp x == 9 then 2 else 1

/-- The checks of an ATOM at issue (R278). -/
def Croft.atomChecks (c : Croft) (o : AM) (x : Ext) : Except Stop (Space × Nat) := do
  let w := c.ea o.b x
  let n := atomSize x
  aligned w n
  let (space, a) ← splitIn ownerOrSp w n
  c.spBounds (inSp space [⟨a, n, true⟩])
  c.spHedge .A (inSp space [⟨a, n, false⟩, ⟨a, n, true⟩])
  c.spAwake (inSp space [⟨a, n, true⟩])
  .ok (space, a)

/-- An ATOM's operands (R221, R278): those it kept across a system fault, else popped from QA. -/
def Croft.atomOperands (c : Croft) (n : Nat) : Except Stop (List Word64 × Croft) :=
  if n ≤ c.kept.length then .ok (c.kept, { c with kept := [] })
  else if n ≤ c.qa.length then .ok (c.qa.take n, { c with qa := c.qa.drop n })
  else .error .wait

/-- ATOM (R221, R278): the compare value of a CAS is popped first. -/
def execAtom (t : Tok) (o : AM) (x : Ext) : State → Host.Outcome State Fault Refusal :=
  issueA (.atom t o x) t fun s => do
    let (space, a) ← s.cur.atomChecks o x
    s.cur.spOrder o.cls.toNat (inSp space [⟨a, atomSize x, true⟩])
    need (o.q != 0 || s.cur.qc.length < 16) .wait
    let (ops, _) ← s.cur.atomOperands (atomPops x)
    let s ← if space == .owner then s.translate a (atomSize x) true else .ok s
    let (_, c) ← s.cur.atomOperands (atomPops x)
    let v := ops.getLast?.getD 0
    let cmp := ops.head?.getD 0
    let reply := if o.q == 0 then some c.issueSeq else none
    let c := if o.q == 0 then c.ldqReserve 0 c.issueSeq else c
    match space with
    | .owner => .ok (s.setCur (c.addAccess (.atom t o x) t o (.atom (atomSize x) (atomOp x) cmp v reply) a (atomSize x) []), .later)
    | _ => .ok (s.setCur (c.land .A (.atom t o x) t.sig.toNat 6 (.atomSp a (atomSize x) (atomOp x) cmp v reply)), .later)

/-! ### Fences (R210, R211, R295, R296) -/

/-- The fence that the instruction at issue makes over the classes of a mask: A's earlier accesses, scratchpad writes in flight and
commands of them, and an STQ that still takes its entries, whose write is an access or a landing once it has them (R210). -/
def Croft.fenceAt (c : Croft) (mask scope sig : Nat) : Fence :=
  let taking := (c.stqs.filter fun (r : StqRun) => r.space != .acm && mask.testBit r.ord.cls).map fun (r : StqRun) => r.seq
  { seq := c.issueSeq, mask := mask, scope := scope, sig := sig
    accs := taking ++ (c.accs.filter fun (a : Access) => !a.isProbe && mask.testBit a.ord.cls).map fun (a : Access) => a.id
    lands := taking ++ (c.inFlight.filter fun (p : Pending) => p.spWrite.isSome && mask.testBit (clsOf p.ins)).map fun (p : Pending) => p.seq
    cmds := (c.copyq.filter fun (k : CopyCmd) => mask.testBit k.ord.cls).map fun (k : CopyCmd) => k.seq }

/-- A fence over the classes of a mask holds what follows it until A's earlier accesses and commands of them have performed; then it
finishes, at once where none is outstanding (R39, R210, R296). -/
def Croft.addFence (c : Croft) (mask scope sig : Nat) : Croft :=
  Croft.pruneFences { c with fences := c.fences ++ [c.fenceAt mask scope sig] }

/-- FENCE (R210, R295): it does not delay A's issue. -/
def execFence (t : Tok) (o : AM) (x : Ext) : State → Host.Outcome State Fault Refusal :=
  issueAC (.fence t o x) t fun c => .ok (c.addFence (fld x.x0 15 0) o.scope.toNat t.sig.toNat)

/-- FENCESC (R211, R295): a fence over every class. -/
def execFencesc (t : Tok) (o : AM) (x : Ext) : State → Host.Outcome State Fault Refusal :=
  issueAC (.fencesc t o x) t fun c => .ok (c.addFence 0xFFFF o.scope.toNat t.sig.toNat)

/-! ### ZFLAG, BANKGATE (R136, R138, R280, R369) -/

/-- The blocks that a ZFLAG examines: 0 means 1 (R369). -/
def zflagCount (x : Ext) : Nat := if fld x.x1 11 0 == 0 then 1 else fld x.x1 11 0

/-- ZFLAG (R136, R369). -/
def execZflag (t : Tok) (o : AM) (x : Ext) : State → Host.Outcome State Fault Refusal :=
  issueAC (.zflag t o x) t fun c => do
    let w := c.ea o.b x
    let n := 1024 * zflagCount x
    aligned w 1024
    let (_, a) ← splitIn spOnly w n
    c.spCheck .A [⟨a, n, false⟩]
    .ok (c.land .A (.zflag t o x) t.sig.toNat 10 (.zflags (a / 1024) (zflagCount x) []))

/-- BANKGATE (R138, R280): checked as a write of the whole of each named bank. -/
def execBankgate (t : Tok) (o : AM) (x : Ext) : State → Host.Outcome State Fault Refusal :=
  issueAC (.bankgate t o x) t fun c => do
    let lo := fld x.x0 4 0
    let hi := fld x.x0 9 5
    c.spHedge .A [⟨65536 * lo, 65536 * (hi + 1 - lo), true⟩]
    .ok (c.land .A (.bankgate t o x) t.sig.toNat 1 (.gates lo hi (fld x.x0 10 10 == 1)))

/-! ### PGINV, PGPROBE (R190, R332) -/

/-- PGINV (R190, R332): completes once its entries are removed. -/
def execPginv (t : Tok) (o : AM) (x : Ext) : State → Host.Outcome State Fault Refusal :=
  issueA (.pginv t o x) t fun s => do
    let (_, a) ← splitIn ownerOnly (s.cur.ea o.b x) 0
    .ok (match s.cur.owner with | some w => s.pginv s.me w a x.x1.toNat | none => s, .now)

/-- PGPROBE (R190, R332): a walk without fault, its reply in QC in program order. -/
def execPgprobe (t : Tok) (o : AM) (x : Ext) : State → Host.Outcome State Fault Refusal :=
  issueAC (.pgprobe t o x) t fun c => do
    let (_, a) ← splitIn ownerOnly (c.ea o.b x) 0
    need (c.qc.length < 16 && c.walks.length < 8 && !c.walks.any (·.probe)) .wait
    let c := (c.ldqReserve 0 c.issueSeq).addAccess (.pgprobe t o x) t o (.probe c.issueSeq) a 0 []
    .ok { c with walks := c.walks ++ [⟨a, false, true, c.issueSeq⟩] }

/-- PGPROBE's reply (R190). -/
def probeReply (r : WalkEnd) (sectors : Nat) : Word64 :=
  match r.leaf with
  | none => BitVec.ofNat 64 (3 * 2 ^ 56 + r.level * 2 ^ 8)
  | some e => BitVec.ofNat 64 (2 ^ 63 + bitsOf e 62 58 * 2 ^ 58 + (4 - r.level) * 2 ^ 56 + r.level * 2 ^ 8 + sectors)

end Sys2Proof.Machine
end

