-- ==== Sys2Proof/Machine/Raise.lean ====
section
/-! DEFINITION. Faults taken between packets (R223, R224): at a landing, and by an accepted command; with RESULT_LANDING. -/

namespace Sys2Proof.Machine

/-! ### Setting an issued instruction aside again (R224) -/

/-- The wait code of an instruction's word. -/
def waitCode (i : Instr) : Nat := match i.word with | some w => (w.extractLsb' 26 3).toNat | none => 0

/-- What an instruction popped at issue goes back: its wait token or arrival, and the QA entry of an ABINIT or ABEXP. -/
def Croft.giveBack (c : Croft) (p : Pending) : Croft :=
  let w := waitCode p.ins
  let c :=
    if w == 0 then c
    else if w == 7 then { c with arv := vset c.arv p.eng.ix (vget c.arv 0 p.eng.ix + 1) }
    else { c with tok := vset c.tok (tokIx w p.eng.code) (c.tokens w p.eng.code + 1) }
  match p.ins, p.op with
  | .abinit _ o _, .abInit _ n | .abexp _ o _, .abExp _ n => if o.qa then { c with qa := BitVec.ofNat 64 n :: c.qa } else c
  | _, _ => c

/-- An instruction whose fault at landing is not the one taken stands again unissued (R224). -/
def Croft.unissue (c : Croft) (p : Pending) : Croft := (c.giveBack p).putBack p.eng ⟨p.seq, p.pc, .ins p.ins []⟩

/-- One result of a batch: it lands, or stays where it may not land yet, or is noted as one that faults. -/
def landOne (x : Croft × List Pending) (p : Pending) : Croft × List Pending :=
  let c := x.1
  if !c.mayLand p then ({ c with lands := insertPending p c.lands }, x.2)
  else match c.landFault p with
    | some _ => (c, p :: x.2)
    | none => (c.landDone p, x.2)

/-- Results due by vc t land: the croft after them, and those that fault there. -/
def Croft.landDue (c : Croft) (t : Nat) : Croft × List Pending :=
  (c.lands.filter fun p => p.due ≤ t).foldl landOne ({ c with lands := c.lands.filter fun (p : Pending) => t < p.due }, [])

/-- Results due by vc t land; those that fault there are set aside unissued (R223, R224). -/
def Croft.landBy (c : Croft) (t : Nat) : Croft :=
  let r := c.landDue t
  r.2.foldl Croft.unissue r.1

/-- The result that faults at its landing by vc t and whose word stands earliest in the stream, before a given place (R224). -/
def Croft.landFirst (c : Croft) (t seq : Nat) : Option Pending :=
  (c.landDue t).2.foldl (fun o p =>
    if seq ≤ p.seq then o else match o with | some q => if p.seq < q.seq then some p else o | none => some p) none

/-- A fault taken at a vc t between packets: every result due by t lands first, and the next packet keeps its distance. -/
def State.raiseAt (s : State) (n t : Nat) (f : Raised) : State :=
  let c := (s.croft n).landBy t
  match c.mode with
  | .fixed => (s.setCroft n { c with vclock := t }).takeFault n { f with hold := if c.draining.isSome then 0 else c.nextVc - t }
  | .score => (s.setCroft n { c with vclock := Nat.max c.vclock t }).takeFault n f

/-- A program fault between packets at a vc t, where no result that faults at its landing by then stands before it in the stream; else that one's
(R224). `stop` is what the fault, where it is taken, does to the croft first. -/
def State.raiseFirst (s : State) (n t : Nat) (f : Raised) (stop : Croft → Croft) : State :=
  let c := s.croft n
  match c.landFirst t f.seq with
  | some p =>
    let g : Flt := (c.landFault p).getD f.flt
    (s.setCroft n { c with lands := c.lands.erase p }).raiseAt n t { flt := g, eng := p.eng, pc := p.pc, seq := p.seq, land := true }
  | none => (s.setCroft n (stop c)).raiseAt n t f

/-- A croft may take a program fault of a command: nothing holds its clock for Sillu, the Granary or an ECC freeze. -/
def Croft.canRaise (c : Croft) : Bool := c.freeze == {}

/-- The vc of a fault that comes between packets (R223): the first that no packet has been issued at, and a MODE's own vc while it drains
(R322). -/
def Croft.freeVc (c : Croft) : Nat :=
  match c.mode with
  | .fixed => if c.draining.isSome then c.vclock else Nat.max c.atVc (Nat.min (c.vclock + 1) c.nextVc)
  | .score => c.vclock

/-- A program fault of an accepted command (R223), which `stop` stops, at the vc that the clock has run to (R47). -/
def State.raiseAsync (s : State) (n : Nat) (f : Raised) (stop : Croft → Croft) : State :=
  let c := (s.croft n).catchUp s.time
  (s.setCroft n c).raiseFirst n c.freeVc { f with async := true } stop

/-- A system fault of a croft's command or access freezes it for Sillu (R232); one that already waits keeps its place. -/
def State.raiseSys (s : State) (n : Nat) (f : SysFault) : State :=
  let c := s.croft n
  if c.freeze.sys.isSome then s else s.setCroft n (c.awaitSillu f)

/-! ### RESULT_LANDING (R44, R223) -/

/-- The croft drains for a MODE or for an issue in another mode (R31, R42). -/
def Croft.drains (c : Croft) : Bool := c.draining.isSome || (c.reissue && c.frame.isNone)

/-- The vc that deadlines and budgets count (R250, R251): a drain holds it (R45, R322). -/
def Croft.vcNow (c : Croft) : Nat := if c.mode == .fixed && c.drains then c.vclock else c.landLimit

/-- The next result to land by the vc the clock has reached: the first one due, and in SCORE mode a nest that still runs holds up no
other. -/
def Croft.nextLanding (c : Croft) : Option Pending :=
  match c.mode with
  | .fixed =>
    match c.lands with
    | p :: _ => if p.due ≤ c.landLimit && c.mayLand p then some p else none
    | [] => none
  | .score => c.lands.find? fun p => p.due ≤ c.landLimit && c.mayLand p

/-- A result lands on croft n, or its fault at landing is taken there (R223). What faults while a handler's entry still drains is set
aside with the frame. -/
def State.landNext (s : State) (n : Nat) : State :=
  let c := s.croft n
  match c.nextLanding with
  | none => s
  | some p =>
    let c := { c with lands := c.lands.erase p }
    match c.landFault p with
    | none => s.setCroft n (c.landDone p)
    | some f =>
      match c.frame with
      | some fr =>
        if fr.drain then
          let q : QEntry := ⟨p.seq, p.pc, .ins p.ins []⟩
          let fr := { fr with queues := vset fr.queues p.eng.ix (q :: vget fr.queues [] p.eng.ix) }
          s.setCroft n { c.giveBack p with frame := some fr }
        else (s.setCroft n c).raiseAt n p.due { flt := f, eng := p.eng, pc := p.pc, seq := p.seq, land := true }
      | none => (s.setCroft n c).raiseAt n p.due { flt := f, eng := p.eng, pc := p.pc, seq := p.seq, land := true }

/-- RESULT_LANDING (R44). -/
def execResultLanding (n : Nat) : State → Host.Outcome State Fault Refusal := event fun s => s.landNext n

end Sys2Proof.Machine
end

