-- ==== Sys2Proof/Machine/Packet.lean ====
section
/-! DEFINITION. The stream as the splitter and the packets see it (R43, R53, R258): the words of instruction memory, and the cut of a
FIXED packet. -/

namespace Sys2Proof.Machine

/-! ### Words of instruction memory -/

/-- The word of instruction memory at an index (R3, R32). -/
def Croft.wordAt (c : Croft) (pc : Nat) : Word32 := BitVec.ofNat 32 (c.imem.le (4 * pc) 4)

/-- The opcode of a word (R53). -/
def opOf (w : Word32) : Nat := (w.extractLsb' 17 6).toNat

/-- The engine a word names (R53). -/
def engOf (w : Word32) : Option Eng := Eng.ofCode (w.extractLsb' 29 3).toNat

/-- A C word behind which the splitter waits until it issues (R36, R258): BEQ to BGEN, RET, JTAB, ERET, MODE, DONE. -/
def stopsSplit (w : Word32) : Bool :=
  engOf w == some .C && ([0x18, 0x19, 0x1A, 0x1B, 0x1C, 0x1D, 0x20, 0x21, 0x29, 0x31, 0x36].contains (opOf w))

/-- A JMP or CALL word. -/
def isJump (w : Word32) : Bool := engOf w == some .C && (opOf w == 0x1E || opOf w == 0x1F)

/-- A word that ends its packet (R43): GAP, MODE, DONE, ERET, TRAP, SVC and the control transfers. -/
def endsPacket (w : Word32) : Bool :=
  stopsSplit w || isJump w || (engOf w == some .C && (opOf w == 0x28 || opOf w == 0x2A || opOf w == 0x32))

/-! ### The cut of a packet (R43) -/

/-- An entry's word: that of its instruction; where its encoding is at fault, the word it was split from. -/
def Croft.entryWord (c : Croft) (q : QEntry) : Option Word32 :=
  match q.item with
  | .ins i _ => i.word
  | .bad .. => some (c.wordAt q.pc)
  | .marker _ => none

/-- An entry ends its packet (R43). -/
def Croft.entryEnds (c : Croft) (q : QEntry) : Bool := match c.entryWord q with | some w => endsPacket w | none => false

/-- The engine on whose token an entry waits (R54). -/
def QEntry.waitsOn (q : QEntry) : Option Eng :=
  match q.item with
  | .ins i _ => Eng.ofCode (waitCode i)
  | _ => none

/-- The next instruction of an engine's queue, behind any marker. -/
def Croft.nextOf (c : Croft) (e : Eng) : Option QEntry := (c.queue e).find? QEntry.counts

/-- Put an entry in its place in the stream. -/
def insertEntry (a : Eng × QEntry) : List (Eng × QEntry) → List (Eng × QEntry)
  | [] => [a]
  | b :: l => if b.2.seq ≤ a.2.seq then b :: insertEntry a l else a :: b :: l

/-- The first two instructions of every engine's queue in stream order: enough to cut a packet. -/
def Croft.stream (c : Croft) : List (Eng × QEntry) :=
  (Eng.all.flatMap fun e => (((c.queue e).filter QEntry.counts).take 2).map fun q => (e, q)).foldl (fun l a => insertEntry a l) []

/-- Take entries while R43 lets the packet go on; the first argument is the room left in it. -/
def Croft.cut (c : Croft) : Nat → List Eng → List (Eng × QEntry) → List (Eng × QEntry)
  | 0, _, _ => []
  | _, _, [] => []
  | n + 1, engs, (e, q) :: r =>
    if engs.contains e then []
    else if (match q.waitsOn with | some w => engs.contains w | none => false) then []
    else if c.entryEnds q then [(e, q)]
    else (e, q) :: c.cut n (e :: engs) r

/-- The next FIXED packet (R43). -/
def Croft.packet (c : Croft) : List (Eng × QEntry) := c.cut 4 [] c.stream

/-- The next packet holds a GSHORT that names a slot (R301). -/
def Croft.shortNext (c : Croft) (slot : Nat) : Bool :=
  c.packet.any fun p => match p.2.item with | .ins (.gshort _ o _) _ => o.k.toNat == slot | _ => false

end Sys2Proof.Machine
end

