-- ==== Sys2Proof/Machine/Copy.lean ====
section
/-! DEFINITION. The copy path (R239, R240): COPY, COPYD, COLL and GLSEND as they are accepted, and as they perform. -/

namespace Sys2Proof.Machine

/-! ### Acceptance (R39, R240) -/

/-- A command passes into the copy command queue when it has room and its arrival has (R39, R240). -/
def Croft.acceptCopy (c : Croft) (o : AM) (ab : Option Nat) (next : Nat) (kind : CopyKind) : Except Stop Croft := do
  need (c.copyq.length < 8 && c.arvRoom o.q.toNat) .wait
  let k : CopyCmd :=
    { seq := c.issueSeq, pc := c.issuePc, launch := c.lastLaunch, arv := o.q.toNat, ab := ab
      ord := ⟨o.cls.toNat, o.sem.toNat, o.scope.toNat⟩, kind := kind, next := next }
  .ok { c.arvReserve o.q.toNat with copyq := c.copyq ++ [k] }

/-- SCHEDCLASH where a tile of an ACM destination has a write in flight (R135). -/
def Croft.tilesLanded (c : Croft) (ts : List Nat) : Except Stop Unit :=
  match ts.find? c.tilePending with
  | none => .ok ()
  | some t => .error (.fault { code := .schedclash, aux := t })

/-- ABOVF where a command names an idle barrier object (R169). -/
def Croft.barrierSet (c : Croft) (ab : Option Nat) : Except Stop Unit :=
  match ab with
  | none => .ok ()
  | some k => need (!(vget c.abs {} k).idle) (.fault { code := .abovf, aux := k })

/-- The space that a command word's DSP names (R183, R239). -/
def dspSpace (x : Ext) : Space := match fld x.x0 28 27 with | 0 => .owner | 1 => .sp | _ => .acm

/-! ### COPY (R239) -/

/-- COPY's length in bytes. -/
def copyLen (x : Ext) : Nat := 64 * (fld x.x1 13 0 + 1)

/-- COPY's barrier object. -/
def copyBarrier (x : Ext) : Option Nat := if fld x.x1 28 28 == 1 then some (fld x.x1 27 24) else none

/-- COPY's destination (R239): the head of QA, or DADDR in its space. -/
def Croft.copyDest (c : Croft) (x : Ext) : Except Stop Word64 :=
  match dspSpace x, c.qa with
  | .owner, v :: _ => .ok v
  | .owner, [] => .error .wait
  | space, _ => .ok (joinAddr space (fld x.x0 20 0))

/-- COPY at issue (R239): its checks in order, then its acceptance. -/
def Croft.copyOp (c : Croft) (o : AM) (x : Ext) : Except Stop Croft := do
  let src := c.readB o.b.toNat
  let n := copyLen x
  let dst ← c.copyDest x
  aligned src 64
  aligned dst 64
  let (ss, sa) ← splitIn ownerOrSp src n
  let (ds, da) ← splitIn (· == dspSpace x) dst n
  c.spBounds (inSp ss [⟨sa, n, false⟩] ++ inSp ds [⟨da, n, true⟩])
  c.spHedge .A (inSp ss [⟨sa, n, false⟩] ++ inSp ds [⟨da, n, true⟩])
  c.tilesLanded (inAcm ds da n)
  c.barrierSet (copyBarrier x)
  let c' ← c.acceptCopy o (copyBarrier x) 0 (.copy sa (ss == .sp) da ds (fld x.x0 26 26 == 1) (n / 64))
  .ok (if ds == .owner then { c' with qa := c'.qa.tail } else c')

/-- COPY (R239). -/
def execCopy (t : Tok) (o : AM) (x : Ext) : State → Host.Outcome State Fault Refusal :=
  issueANow (.copy t o x) t fun c => c.copyOp o x

/-! ### COPYD (R183, R290) -/

/-- COPYD's blocks. -/
def copydBlocks (x : Ext) : Nat := fld x.x1 11 0 + 1

/-- COPYD at issue (R290). -/
def Croft.copydOp (c : Croft) (o : AM) (x : Ext) : Except Stop Croft := do
  let src := c.readB o.b.toNat
  let space := dspSpace x
  let da := fld x.x0 20 0
  let n := 4096 * copydBlocks x
  aligned src 8
  need (space != .acm || da % 4 == 0) (.fault { code := .align, addr := (joinAddr space da).toNat })
  let (_, sa) ← splitIn ownerOnly src 0
  need (da + n ≤ space.size) (boundsAt (joinAddr space da))
  c.spBounds (inSp space [⟨da, n, true⟩])
  c.spHedge .A (inSp space [⟨da, n, true⟩])
  c.tilesLanded (inAcm space da n)
  c.acceptCopy o none sa (.copyd sa da space (fld x.x0 26 26 == 1) (copydBlocks x))

/-- COPYD (R290). -/
def execCopyd (t : Tok) (o : AM) (x : Ext) : State → Host.Outcome State Fault Refusal :=
  issueANow (.copyd t o x) t fun c => c.copydOp o x

/-! ### COLL (R286, R287) -/

/-- COLL's element count. -/
def collN (x : Ext) : Nat := 32 * (fld x.x1 13 0 + 1)

/-- COLL at issue (R287): the buffer and the residual region are read and written. -/
def Croft.collOp (c : Croft) (o : AM) (x : Ext) : Except Stop Croft := do
  let w := c.readB o.b.toNat
  let n := collN x
  let parts := fld x.x0 9 0 + 1
  let rid := fld x.x0 23 20
  let region := 64 * fld x.x1 28 14
  aligned w 64
  let (_, a) ← splitIn spOnly w (4 * n)
  let ranges : List SpAcc := ⟨a, 4 * n, true⟩ :: (if rid == 0 then [] else [⟨region, 4 * n, true⟩])
  c.spBounds ranges
  need (rid == 0 || !overlap a (4 * n) region (4 * n)) (boundsAt (joinAddr .sp region))
  need (n % (32 * parts) == 0) (boundsAt w)
  c.spHedge .A ranges
  c.acceptCopy o none 0 (.coll a (fld x.x0 28 27) (fld x.x0 26 24) rid (fld x.x0 19 10) parts region n)

/-- COLL (R286, R287). -/
def execColl (t : Tok) (o : AM) (x : Ext) : State → Host.Outcome State Fault Refusal :=
  issueANow (.coll t o x) t fun c => c.collOp o x

/-! ### GLSEND (R175, R310) -/

/-- The window reference of a GLSEND (R175). -/
def glsendRef (x : Ext) : Int := signedOf 9 (fld x.x0 13 5)

/-- The tag of a chain tile is one of a float operand format (R128, R310). -/
def chainTag (t : Nat) : Bool := 1 ≤ t && t ≤ 5

/-- GLSEND at issue (R310): its checks in order, the snapshot of its map, and its acceptance. What it reads at issue stands behind A's earlier
accesses as an LDQ's bytes do (R202, R207, R208, R213; DEDUCED, log 94). -/
def Croft.glsendOp (c : Croft) (o : AM) (x : Ext) : Except Stop Croft := do
  let ma := base64 x.x0
  c.spOrder o.cls.toNat [⟨ma, 64, false⟩]
  c.spOrder o.cls.toNat [mapReach c.sp ma]
  let mp ← c.mapAt ma
  let ch := chainWalk c.sp (fun _ => true) mp.ks (base64 x.x1)
  let tiles : List SpAcc := ch.tiles.map fun r => ⟨r.1, r.2, false⟩
  c.spOrder o.cls.toNat tiles
  c.spAwake tiles
  c.spBounds (tiles ++ [⟨mp.gbase, 65536, true⟩])
  c.spHedge .A (⟨ma, mp.extent, false⟩ :: ⟨mp.gbase, 65536, true⟩ :: tiles)
  need (!ch.broken) (.flt .lenmis)
  need (ch.tiles.all fun r => chainTag (hdrTag (c.sp.header r.1))) (.flt .illop)
  need (codeIsMxint mp.wfmt == conFamB c.contract) (.flt .illop)
  let acts := ch.tiles.map fun r => packedVector (c.sp.header r.1) (c.sp.pairs r.1 (hdrPairs (c.sp.header r.1)))
  c.acceptCopy o none 0 (.glsend mp.gen (glsendRef x + 256).toNat mp.wbase mp.wstr mp.ks mp.wfmt mp.gbase mp.plc acts)

/-- GLSEND (R310). -/
def execGlsend (t : Tok) (o : AM) (x : Ext) : State → Host.Outcome State Fault Refusal :=
  issueANow (.glsend t o x) t fun c => c.glsendOp o x

/-! ### Performing (R240) -/

/-- The command at the front of the copy path. -/
def Croft.copyFront (c : Croft) : Option CopyCmd := c.copyq.head?

/-- Replace the command at the front of the copy path. -/
def Croft.setCopyFront (c : Croft) (k : CopyCmd) : Croft := { c with copyq := k :: c.copyq.tail }

/-- The Granary holds a write of this croft for a writer (R195). -/
def Croft.holdsFor (c : Croft) (w : Writer) : Bool := match c.freeze.held with | some h => h.who == w | none => false

/-- The front command may go on: nothing stops it, the Granary does not hold its write, and its first access waits for what is
ordered before it (R213, R296). -/
def Croft.copyMay (c : Croft) (k : CopyCmd) : Bool :=
  k.halt == .no && !k.fin
    && !c.holdsFor (.command .copy)
    && (k.done != 0 || k.out != 0 || c.commandReady k.seq k.ord.cls)

/-- A translation fault of a command that performs (R188, R191, R372): a system fault with the command's FAULTADDR and restart point; `stopped` is
the croft with the command stopped there, and the walk that failed enters its monitor (R271). A croft that already waits for Sillu keeps its place. -/
def State.commandTrans (s : State) (n : Nat) (p : Path) (e : Eng) (pc seq : Nat) (f : TransFault) (addr restart : Nat) (stopped : Croft) : State :=
  if (s.croft n).freeze.sys.isSome then s
  else
    ((s.setCroft n stopped).meetPages n f.addr 1).raiseSys n
      { code := f.code, addr := addr, aux := f.level * 2 ^ 28 + restart % 2 ^ 28, eng := e, pc := pc, seq := seq, write := f.code == .transperm
        async := some p, missing := if addr == f.addr then none else some f.addr }

/-- A translation fault of the front command of the copy path. -/
def State.copyTrans (s : State) (n : Nat) (k : CopyCmd) (f : TransFault) (addr restart : Nat) : State :=
  s.commandTrans n .copy .A k.pc k.seq f addr restart ((s.croft n).setCopyFront { k with halt := .sillu })

/-- A write of a croft is held for sectors of some stacks, those of others obtained (R195, R198). A croft already held keeps its place. -/
def State.holdWrite (s : State) (n : Nat) (who : Writer) (lacking : List Nat) (got : List (Nat × Nat)) (addr : Nat) : State :=
  let c := s.croft n
  if c.freeze.held.isSome then s
  else { s.setCroft n { c with freeze := { c.freeze with held := some ⟨who, lacking, got, addr, s.time⟩ } } with holds := s.holds ++ [n] }

/-- A program fault of the front command (R180, R288): it stops at its restart point until ERET resumes it or the issue ends. -/
def State.copyFault (s : State) (n : Nat) (k : CopyCmd) (f : Flt) : State :=
  let c := s.croft n
  if !c.canRaise then s
  else s.raiseAsync n { flt := f, eng := .A, pc := k.pc, seq := k.seq } fun c => c.setCopyFront { k with halt := .faulted }

/-- The elements of an ADDW (R239): each destination element rounded once after its addition. -/
def addElems (old new : List Byte) : List Byte × Flags :=
  let f (l : List Byte) : List Nat := (chunks 4 (l.length / 4) l).map leNat
  let rs := (List.zip (f old) (f new)).map fun p => accStep p.1 (fp32.value p.2)
  (rs.flatMap fun r => leBytes 4 r.1, rs.foldl (fun a r => a ||| r.2) 0)

/-- What a command's bytes leave in scratchpad or ACM, plainly or with ADDW, and the flags, which the command keeps to its completion (R335). -/
def Croft.copyValue (c : Croft) (space : Space) (a : Nat) (addw : Bool) (bytes : List Byte) : List Byte × Flags :=
  if addw then addElems (c.localRead space a bytes.length) bytes else (bytes, 0)

/-- Write a command's bytes to scratchpad or ACM, and the command after them at the front. -/
def Croft.copyStore (c : Croft) (space : Space) (a : Nat) (addw : Bool) (bytes : List Byte) (k : CopyCmd) : Croft :=
  let r := c.copyValue space a addw bytes
  (c.localWrite space a r.1).setCopyFront { k with flags := k.flags ||| r.2 }

/-- One 64-byte unit of a COPY (R191, R239): the source unit is read before the destination unit is written. -/
def State.copyUnit (s : State) (n : Nat) (k : CopyCmd) (src : Nat) (srcSp : Bool) (dst : Nat) (space : Space) (addw : Bool) (units : Nat) :
    State :=
  let c := s.croft n
  let u := k.done
  let sa := src + 64 * u
  let da := dst + 64 * u
  let awake := (if srcSp then [SpAcc.mk sa 64 false] else []) ++ inSp space [⟨da, 64, true⟩]
  if !c.cmdAwake k.seq awake then s
  else
    let r : Except TransFault (List Byte × State) := if srcSp then .ok (c.sp.readN sa 64, s) else s.cmdRead n sa 64
    match r with
    | .error f => s.copyTrans n k f f.addr u
    | .ok (bytes, s1) =>
      let k' := { k with done := u + 1, fin := u + 1 == units }
      match space with
      | .owner =>
        match s1.cmdWrite n da bytes false with
        | .error (.trans f) => s.copyTrans n k f f.addr u
        | .error (.held sts got) => s.holdWrite n (.command .copy) sts got da
        | .ok s => s.setCroft n ((s.croft n).setCopyFront k')
      | _ => s1.setCroft n ((s1.croft n).copyStore space da addw bytes k')

/-! ### Gleaners (R176) -/

/-- Read the chunks of a row of W from chunk j on, ks − j of them: none where one faults, with the fault and the chunk's address. -/
def State.readChunks (s : State) (n a cb : Nat) : Nat → Except (TransFault × Nat) (List (List Byte) × State)
  | 0 => .ok ([], s)
  | j + 1 =>
    match s.cmdRead n a cb with
    | .error f => .error (f, a)
    | .ok (b, s) =>
      match State.readChunks s n (a + cb) cb j with
      | .error f => .error f
      | .ok (bs, s) => .ok (b :: bs, s)

/-- The values of an activation row in one chain tile (R128, R175). -/
def actRow (v : VReg) (m : Nat) : List FV :=
  (elems (takeRuns 32 (dropRuns (32 * m) v.runs))).map fun x => tagValue v.tag x.toNat

/-- The Gleaners' window of an activation row and a row of W (R176). -/
def gleanWindow (ref : Int) (acts : List VReg) (ws : List (List FV)) (m : Nat) : Win × Bool :=
  ((acts.zip ws).foldl (fun w p => gleanRow ref (actRow p.1 m) p.2 w) {}).saturate

/-- Partial entries of row k for every activation row (R176). -/
def Croft.putPartials (c : Croft) (gbase gen k : Nat) (ref : Int) (ws : List Win) : Croft :=
  (indexed ws).foldl (fun c p => c.spWrite (gbase + (64 * p.1 + k) * 16) (partialBytes gen ref p.2)) c

/-- One row of a GLSEND (R176): a hot row gets empty windows, a cold row the Gleaners' windows of its chunks. -/
def State.glsendRow (s : State) (n : Nat) (k : CopyCmd) (gen ref wbase wstr ks wfmt gbase : Nat) (plc : List Nat) (acts : List VReg) : State :=
  let c := s.croft n
  let row := k.done
  let rf : Int := (ref : Int) - 256
  let o := opFmt wfmt
  let k' := { k with done := row + 1, fin := row + 1 == plc.length }
  if !c.cmdAwake k.seq [⟨gbase, 65536, true⟩] then s
  else
    if plc.getD row 0xFF != 0xFF then
      s.setCroft n ((c.putPartials gbase gen row rf (List.replicate 64 {})).setCopyFront k')
    else
      match s.readChunks n (wbase + row * wstr) o.rowBytes ks with
      | .error f => s.copyTrans n k f.1 f.2 row
      | .ok (bs, s) =>
        let ws := bs.map fun b => (readRow o o false (leNat b)).vals
        let rs := (List.range 64).map (gleanWindow rf acts ws)
        let fl := if rs.any (·.2) then fWOVF else 0
        s.setCroft n (((s.croft n).putPartials gbase gen row rf (rs.map (·.1))).setCopyFront { k' with flags := k.flags ||| fl })

/-! ### COPY_QUEUE_START (R240) -/

/-- What the copy path does next for the front command: one unit of a COPY, one row of a GLSEND, the registration of a COLL. -/
def State.copyStep (s : State) (n : Nat) : State :=
  let c := s.croft n
  match c.copyFront with
  | none => s
  | some k =>
    if !c.copyMay k then s
    else match k.kind with
      | .copy src srcSp dst space addw units => s.copyUnit n k src srcSp dst space addw units
      | .glsend gen ref wbase wstr ks wfmt gbase plc acts => s.glsendRow n k gen ref wbase wstr ks wfmt gbase plc acts
      | .coll _ _ _ _ cnum _ _ _ =>
        match c.owner with
        | none => s
        | some o =>
          if k.next != 0 then s
          else
            let s := s.setCroft n (c.setCopyFront { k with next := 1 })
            let old := s.coll.find? fun g => g.1 == o && g.2.1 == cnum
            let regs := (match old with | some g => g.2.2 | none => []) ++ [(n, k.seq)]
            { s with coll := (s.coll.filter fun (g : Nat × Nat × List (Nat × Nat)) => !(g.1 == o && g.2.1 == cnum)) ++ [(o, cnum, regs)] }
      | .copyd .. => s

/-- COPY_QUEUE_START (R240). -/
def execCopyQueueStart (n : Nat) : State → Host.Outcome State Fault Refusal := event fun s => s.copyStep n

/-! ### Weight blocks (R179 to R181) -/

/-- A weight block's header (R179). -/
structure Block where
  outlen : Nat
  paylen : Nat
  raw    : Bool
  lens   : List Nat
  deriving DecidableEq, Repr

/-- The header of a weight block from its 24 bytes: none where it breaks R179. -/
def blockOf (b : List Byte) : Option Block :=
  let f (o n : Nat) : Nat := leNat ((b.drop o).take n)
  let lens := (List.range 16).map fun i => f 16 8 / 16 ^ i % 16
  let raw := f 6 1 == 1
  if f 0 1 == 0xE7 && f 1 1 == 1 && 1 ≤ f 2 2 && f 2 2 ≤ 4096 && 1 ≤ f 4 2 && f 4 2 ≤ 4096 && f 6 1 ≤ 1 && f 7 1 == 0 && f 12 4 == 0
      && lens.all (· ≤ 12) && (!raw || (f 16 8 == 0 && f 4 2 == f 2 2)) then
    some ⟨f 2 2, f 4 2, raw, lens⟩
  else none

/-- SEQ of a weight block's header (R179). -/
def blockSeq (b : List Byte) : Nat := leNat ((b.drop 8).take 4)

/-- The lengths form a complete code, or name one symbol of length 1 (R179). -/
def codeComplete (lens : List Nat) : Bool :=
  let used := lens.filter (· != 0)
  used == [1] || used.foldl (fun n l => n + 2 ^ (12 - l)) 0 == 4096

/-- Symbols in the order of the canonical code: by length, then by value. -/
def codeOrder (lens : List Nat) : List (Nat × Nat) :=
  (List.range 12).flatMap fun l => ((indexed lens).filter fun p => p.2 == l + 1).map fun p => (p.1, p.2)

/-- The canonical codes (R179), given the previous code and its length: symbol, length, code. -/
def codeAssign : Nat → Nat → List (Nat × Nat) → List (Nat × Nat × Nat)
  | _, _, [] => []
  | next, len, (sym, l) :: r =>
    let code := next * 2 ^ (l - len)
    (sym, l, code) :: codeAssign (code + 1) l r

/-- Take one symbol from a bit string, its first bit the most significant of its code; the first argument bounds its length. -/
def takeSymbol (codes : List (Nat × Nat × Nat)) : Nat → Nat → Nat → List Bool → Option (Nat × List Bool)
  | 0, _, _, _ => none
  | _ + 1, _, _, [] => none
  | f + 1, code, len, b :: bs =>
    let code := 2 * code + bit b
    match codes.find? fun c => c.2.1 == len + 1 && c.2.2 == code with
    | some c => some (c.1, bs)
    | none => takeSymbol codes f code (len + 1) bs

/-- Take n symbols; the bits that remain must be 0. -/
def takeSymbols (codes : List (Nat × Nat × Nat)) : Nat → List Bool → Option (List Nat)
  | 0, bs => if bs.any id then none else some []
  | n + 1, bs =>
    match takeSymbol codes 12 0 0 bs with
    | none => none
    | some (x, bs) => (takeSymbols codes n bs).map (x :: ·)

/-- Pairs of nibbles as bytes, the first in the low half. -/
def nibbleBytes : List Nat → List Byte
  | a :: b :: r => BitVec.ofNat 8 (a + 16 * b) :: nibbleBytes r
  | _ => []

/-- One byte into a CRC-32C (R179). -/
def crcByte (crc : Nat) (b : Byte) : Nat :=
  (List.range 8).foldl (fun c _ => if c % 2 == 1 then c / 2 ^^^ 0x82F63B78 else c / 2) (crc ^^^ b.toNat)

/-- CRC-32C (R179). -/
def crc32c (l : List Byte) : Nat := l.foldl crcByte 0xFFFFFFFF ^^^ 0xFFFFFFFF

/-- The bytes of a block's payload as bits, bit 0 of byte 0 first. -/
def payBits (l : List Byte) : List Bool := l.flatMap fun b => (List.range 8).map b.getLsbD

/-- The decoded bytes of a payload: none where it breaks R179. -/
def decodeBlock (h : Block) (pay : List Byte) : Option (List Byte) :=
  if h.raw then some pay
  else if !codeComplete h.lens then none
  else (takeSymbols (codeAssign 0 0 (codeOrder h.lens)) (2 * h.outlen) (payBits pay)).map nibbleBytes

/-- The stored length of a block: header, payload, CRC, padded to a multiple of 8 (R179). -/
def Block.size (h : Block) : Nat := 8 * ceilDiv (28 + h.paylen) 8

/-- The decoded bytes of a block's payload, CRC and padding: none where the block breaks R179 or its CRC does not match (R180). -/
def blockBody (h : Block) (body : List Byte) : Option (List Byte) :=
  match decodeBlock h (body.take h.paylen) with
  | none => none
  | some out =>
    if crc32c out == leNat ((body.drop h.paylen).take 4) && ((body.drop (h.paylen + 4)).all (· == 0)) then some out else none

/-- DECODESUM of the block at hand (R180): AUX is SEQ, FAULTADDR its header's address; the blocks before it are written. -/
def State.decodesum (s : State) (n : Nat) (k : CopyCmd) (space : Space) (dst : Nat) (addw : Bool) (head : List Byte) : State :=
  let c := s.croft n
  if !c.canRaise || !c.cmdAwake k.seq (inSp space [SpAcc.mk (dst + k.out) k.tail.length true]) then s
  else
    let c := c.copyStore space (dst + k.out) addw k.tail { k with out := k.out + k.tail.length, tail := [], marks := [] }
    (s.setCroft n c).copyFault n (c.copyFront.getD k) { code := .decodesum, aux := blockSeq head, addr := k.next }

/-- A COPYD goes back to the block that holds its offset (R191): what it has decoded and not written is decoded again. -/
def CopyCmd.back (k : CopyCmd) : CopyCmd :=
  match k.marks with
  | [] => k
  | m :: _ => { k with done := m.num, next := m.addr, pos := m.start, tail := [], marks := [] }

/-- A block's decoded bytes join a COPYD (R191): whole units of 64 decoded bytes are written, the last block's bytes all, and the rest waits. -/
def Croft.putBlock (c : Croft) (k : CopyCmd) (space : Space) (dst : Nat) (addw : Bool) (blocks size : Nat) (out : List Byte) : Croft :=
  let last := k.done + 1 == blocks
  let bytes := k.tail ++ out.drop (k.out - k.pos)
  let whole := if last then bytes.length else bytes.length - (k.out + bytes.length) % 64
  let pos := k.pos + out.length
  let marks := (k.marks ++ [BlockMark.mk k.done k.next k.pos pos]).filter fun m => k.out + whole < m.stop
  c.copyStore space (dst + k.out) addw (bytes.take whole)
    { k with done := k.done + 1, out := k.out + whole, next := k.next + size, pos := pos, tail := bytes.drop whole, marks := marks, fin := last }

/-- The next weight block of a COPYD (R180, R181, R183, R191, R290): a translation fault records the offset in units of 64 decoded bytes, below
which all is written and above which nothing is. -/
def State.blockStep (s : State) (n : Nat) : State :=
  let c := s.croft n
  match c.copyFront with
  | none => s
  | some k =>
    match k.kind with
    | .copyd _ dst space addw blocks =>
      if !c.copyMay k then s
      else match s.cmdRead n k.next 24 with
        | .error f => s.copyTrans n k.back f f.addr (k.out / 64)
        | .ok (head, s) =>
          match blockOf head with
          | none => s.decodesum n k space dst addw head
          | some h =>
            match s.cmdRead n (k.next + 24) (h.size - 24) with
            | .error f => s.copyTrans n k.back f f.addr (k.out / 64)
            | .ok (body, s) =>
              match blockBody h body with
              | none => s.decodesum n k space dst addw head
              | some out =>
                if addw && out.length % 4 != 0 then s.decodesum n k space dst addw head
                else if !(s.croft n).cmdAwake k.seq (inSp space [SpAcc.mk (dst + k.out) (k.tail.length + out.length) true]) then s
                else s.setCroft n ((s.croft n).putBlock k space dst addw blocks h.size out)
    | _ => s

/-- BLOCK_DECODE (R181). -/
def execBlockDecode (n : Nat) : State → Host.Outcome State Fault Refusal := event fun s => s.blockStep n

/-! ### Collectives (R199, R286, R288) -/

/-- NARROW and DEQ over elements in blocks of 32 (R199): what each sent value stands for, and the flags. -/
def narrowElems (nf : Nat) (ys : List Nat) : List FV × Flags :=
  let viaFmt (f : Fmt) : List FV × Flags :=
    let rs := ys.map fun y => rnd f 0 true (fp32.value y)
    (rs.map fun r => f.value r.1, rs.foldl (fun a r => a ||| r.2) 0)
  match nf with
  | 0 => (ys.map fp32.value, 0)
  | 1 => viaFmt bf16
  | 2 => viaFmt e4m3
  | 3 => viaFmt e5m2
  | _ =>
    let bs := (chunks 32 (ys.length / 32) ys).map fun b =>
      let q := quantBlock (.mxint 8) 0 (b.map fun y => (fp32.value y, false))
      ((readRow (.mxint 8) (.mxint 8) false (natOfBytes (blockBytes (.mxint 8) q.1 q.2.1))).vals, q.2.2)
    (bs.flatMap (·.1), bs.foldl (fun a b => a ||| b.2) 0)

/-- The state of a ring: for each position its residuals by chunk, the chunks it has sent, and its flags. -/
structure Ring where
  res  : List (List (List Nat))
  sent : List (List Nat)
  fl   : List Flags
  deriving DecidableEq, Repr

/-- OR flags into a position's. -/
def Ring.raise (r : Ring) (p : Nat) (f : Flags) : Ring := { r with fl := r.fl.set p (r.fl.getD p 0 ||| f) }

/-- SEND(p, c, s) (R199): what the sent elements stand for. Without a carry the residual stays +0. -/
def Ring.send (r : Ring) (nf : Nat) (carry : List Bool) (p c : Nat) (s : List Nat) : List FV × Ring :=
  let old := ((r.res.getD p []).getD c [])
  let ys := (List.zip s old).map fun x => rne32 (FV.add (fp32.value x.1) (fp32.value x.2))
  let q := narrowElems nf (ys.map (·.1))
  let rs := (List.zip (ys.map (·.1)) q.1).map fun x =>
    if (fp32.value x.1).isFin && x.2.isFin then rne32 (FV.add (fp32.value x.1) x.2.neg) else (0, 0)
  let fl := ys.foldl (fun a y => a ||| y.2) q.2 ||| rs.foldl (fun a x => a ||| x.2) 0
  let r := r.raise p fl
  (q.1, if carry.getD p false then
      { r with res := r.res.set p ((r.res.getD p []).set c (rs.map (·.1))), sent := r.sent.set p (c :: r.sent.getD p []) }
    else r)

/-- One element sum of a REDUCE (R199). -/
def reduceElems (q : List FV) (x : List Nat) : List (Nat × Flags) := (List.zip q x).map fun p => rne32 (FV.add p.1 (fp32.value p.2))

/-- REDUCE of a chunk from position p on, n sends to go (R199). -/
def Ring.reduce (nf : Nat) (carry : List Bool) (xs : List (List (List Nat))) (parts c : Nat) : Nat → Nat → List Nat → Ring → List Nat × Ring
  | 0, _, s, r => (s, r)
  | n + 1, p, s, r =>
    let (q, r) := r.send nf carry p c s
    let p := (p + 1) % parts
    let s := reduceElems q ((xs.getD p []).getD c [])
    Ring.reduce nf carry xs parts c n p (s.map (·.1)) (r.raise p (s.foldl (fun a x => a ||| x.2) 0))

/-- One chunk of a collective (R199, R286): what position c holds, or every position writes, and the ring after it. Operation 0 is
reduce-scatter, 1 all-gather, 2 all-reduce. -/
def Ring.chunk (op nf : Nat) (carry : List Bool) (xs : List (List (List Nat))) (parts c : Nat) (r : Ring) : List Nat × Ring :=
  let own := (xs.getD c []).getD c []
  let (s, r) :=
    if op == 1 then (own, r)
    else Ring.reduce nf carry xs parts c (parts - 1) ((c + 1) % parts) ((xs.getD ((c + 1) % parts) []).getD c []) r
  if op == 0 then (s, r)
  else
    let (q, r) := r.send nf carry c c s
    (q.map fun v => (rne32 v).1, r)

/-- FP32 codes of a scratchpad range. -/
def Croft.words (c : Croft) (a n : Nat) : List Nat := (List.range n).map fun i => c.sp.le (a + 4 * i) 4

/-- A member of a generation: the number that its registration names, its peer index and its croft's number there, whether its context has been saved
at pre-emption, its command, the fields of its COLL, and what a peer package's croft brings. -/
structure Member where
  croft  : Nat
  index  : Nat
  place  : Nat
  away   : Bool
  cmd    : CopyCmd
  base   : Nat
  op     : Nat
  nf     : Nat
  rid    : Nat
  parts  : Nat
  region : Nat
  n      : Nat
  remote : Option PeerColl := none
  deriving DecidableEq, Repr

/-- The number under which a peer package's COLL is registered (R199). -/
def peerCroft (id : Nat) : Nat := 2 ^ 20 + id

/-- The number under which a saved context stands for its croft (R238, R288). -/
def awayCroft (id : Nat) : Nat := 1024 + id

/-- The croft that a registration names: one of the module, or a saved context. -/
def State.regCroft (s : State) (n : Nat) : Croft :=
  if n < 1024 then s.croft n else match s.saved.find (n - 1024) with | some v => v.croft | none => Croft.reset

/-- The member that a peer package's COLL is (R199). -/
def PeerColl.member (p : PeerColl) (n : Nat) : Member :=
  { croft := n, index := p.index, place := p.croft, away := false, cmd := { kind := .coll 0 p.op p.nf (bit p.carry) p.cnum p.parts 0 p.n, pc := 0, seq := 0, launch := 0, arv := 0 }
    base := 0, op := p.op, nf := p.nf, rid := bit p.carry, parts := p.parts, region := 0, n := p.n, remote := some p }

/-- The member that a registration stands for: a croft, or a context saved at pre-emption, whose front command is that COLL, or a peer package's croft
(R199, R288). -/
def State.member (s : State) (x : Nat × Nat) : Option Member :=
  if 2 ^ 20 ≤ x.1 then (s.peers.find (x.1 - 2 ^ 20)).map fun p => p.member x.1 else
  match (s.regCroft x.1).copyFront with
  | some k =>
    match k.kind with
    | .coll base op nf rid _ parts region n =>
      if k.seq == x.2 && k.halt == .no then some ⟨x.1, s.peer, x.1, 1024 ≤ x.1, k, base, op, nf, rid, parts, region, n, none⟩ else none
    | _ => none
  | none => none

/-- Registrations follow their croft's context (R288). -/
def State.moveRegs (s : State) (source n : Nat) : State :=
  let move (x : Nat × Nat) : Nat × Nat := if x.1 == source then (n, x.2) else x
  { s with coll := s.coll.map fun (g : Nat × Nat × List (Nat × Nat)) => (g.1, g.2.1, g.2.2.map move) }

/-- What a generation's ring gives its member at position p: its new chunks, its residuals, its flags. -/
def Croft.endColl (c : Croft) (m : Member) (p : Nat) (vals : List (List Nat)) (r : Ring) : Croft :=
  let len := m.n / m.parts
  let chunk (c : Croft) (base k : Nat) (v : List Nat) : Croft := c.spWrite (base + 4 * len * k) (v.flatMap (leBytes 4))
  let c := (indexed vals).foldl (fun c x => if m.op == 0 && x.1 != p then c else chunk c m.base x.1 x.2) c
  let c := (dedupe (r.sent.getD p [])).foldl (fun c k => chunk c m.region k ((r.res.getD p []).getD k [])) c
  let c := c.setCopyFront { m.cmd with fin := true, flags := m.cmd.flags ||| r.fl.getD p 0 }
  if m.rid == 0 then c else { c with collValid := vset c.collValid m.rid true }

/-- The X of a member, n FP32 codes (R199). -/
def State.memberX (s : State) (m : Member) : List Nat :=
  match m.remote with | some p => p.x | none => (s.croft m.croft).words m.base m.n

/-- The residuals of a member: +0 without a carry or where its RID is not valid yet (R199). -/
def State.memberRes (s : State) (m : Member) : List Nat :=
  match m.remote with
  | some p => if p.carry then p.res else List.replicate m.n 0
  | none =>
    let c := s.croft m.croft
    if m.rid != 0 && vget c.collValid false m.rid then c.words m.region m.n else List.replicate m.n 0

/-- A peer package's COLL leaves the collective unit: the rest of it is done in its own package (R199; log 81). -/
def State.peerDone (s : State) (m : Member) : State := { s with peers := s.peers.del (m.croft - 2 ^ 20) }

/-- Run a generation's ring over its members in ring order (R199). -/
def State.runRing (s : State) (ms : List Member) : State :=
  match ms with
  | [] => s
  | m0 :: _ =>
    let parts := m0.parts
    let len := m0.n / parts
    let split (l : List Nat) : List (List Nat) := chunks len parts l
    let xs := ms.map fun m => split (s.memberX m)
    let res := ms.map fun m => split (s.memberRes m)
    let r0 : Ring := ⟨res, ms.map fun _ => [], ms.map fun _ => 0⟩
    let (vals, r) := (List.range parts).foldl (fun (a : List (List Nat) × Ring) c =>
      let x := Ring.chunk m0.op m0.nf (ms.map fun m => m.rid != 0) xs parts c a.2
      (a.1 ++ [x.1], x.2)) ([], r0)
    (indexed ms).foldl (fun s p =>
      if p.2.remote.isSome then s.peerDone p.2 else s.setCroft p.2.croft ((s.croft p.2.croft).endColl p.2 p.1 vals r)) s

/-- Members that disagree on OP, NF, n or P all fault with BOUNDS (R288). -/
def State.collDisagree (s : State) (ms : List Member) : State :=
  ms.foldl (fun s m =>
    let k := { m.cmd with next := 0 }
    if m.remote.isSome then s.peerDone m else
    (s.setCroft m.croft ((s.croft m.croft).setCopyFront k)).copyFault m.croft k { code := .bounds, addr := (joinAddr .sp m.base).toNat }) s

/-- The registrations of an owner's CNUM become those that remain (R288). -/
def State.setRegs (s : State) (o cnum : Nat) (rest : List (Nat × Nat)) : State :=
  let others := s.coll.filter fun (g : Nat × Nat × List (Nat × Nat)) => !(g.1 == o && g.2.1 == cnum)
  { s with coll := others ++ (if rest.isEmpty then [] else [(o, cnum, rest)]) }

/-- A generation's members agree (R288). -/
def membersAgree (m0 : Member) (gen : List Member) : Bool :=
  gen.all fun m => m.op == m0.op && m.nf == m0.nf && m.n == m0.n && m.parts == m0.parts

/-- The banks of a member's buffers let its COLL perform. -/
def State.memberAwake (s : State) (m : Member) : Bool :=
  m.remote.isSome || (s.croft m.croft).cmdAwake m.cmd.seq (⟨m.base, 4 * m.n, true⟩ :: (if m.rid == 0 then [] else [⟨m.region, 4 * m.n, true⟩]))

/-- The registrations of an owner's CNUM. -/
def State.regs (s : State) (o cnum : Nat) : List (Nat × Nat) :=
  match s.coll.find? fun g => g.1 == o && g.2.1 == cnum with | some g => g.2.2 | none => []

/-- The collective unit registers the COLLs that peer packages have sent it, after those it holds (R199, R288). -/
def State.enlist (s : State) (o cnum : Nat) : State :=
  let old := s.regs o cnum
  let new := (s.peers.filter fun p => p.2.owner == o && p.2.cnum == cnum && !old.contains (peerCroft p.1, 0)).map fun p => (peerCroft p.1, 0)
  if new.isEmpty then s else s.setRegs o cnum (old ++ new)

/-- The first P COLLs that are registered of an owner's CNUM form a generation (R288), with P that of the first of them (DEDUCED, log 115): registrations whose command has gone are dropped first. A
generation with a pre-empted member waits until that one is restored. -/
def State.formRegistered (s : State) (o cnum : Nat) : State :=
  match s.coll.find? fun g => g.1 == o && g.2.1 == cnum with
  | none => s
  | some g =>
    let ms := g.2.2.filterMap s.member
    match ms with
    | [] => s
    | m0 :: _ =>
      let gen := sortBy (fun (m : Member) => m.index * 2 ^ 20 + m.place) (ms.take m0.parts)
      let s' := s.setRegs o cnum ((ms.drop m0.parts).map fun m => (m.croft, m.cmd.seq))
      if ms.length < m0.parts || gen.any (·.away) then s
      else if membersAgree m0 gen then
        if gen.all s.memberAwake then s'.runRing gen else s
      else if gen.all fun m => m.remote.isSome || (s.croft m.croft).canRaise then s'.collDisagree gen
      else s

/-- A generation of an owner's CNUM forms, its crofts in peer packages among it (R199, R288). -/
def State.formGeneration (s : State) (o cnum : Nat) : State := (s.enlist o cnum).formRegistered o cnum

/-- COLL_GENERATION_FORM (R288). -/
def execCollGenerationForm (o cnum : Nat) : State → Host.Outcome State Fault Refusal := event fun s => s.formGeneration o cnum

/-! ### Completion (R39, R169, R240) -/

/-- The front command of the copy path completes: its flags, its barrier arrival, its engine arrival, and its latency's sample. -/
def State.copyComplete (s : State) (n : Nat) : State :=
  let c := s.croft n
  match c.copyFront with
  | none => s
  | some k =>
    if !k.fin || k.halt != .no then s
    else
      let (v, s) := s.freeCycles
      let c := { (c.raise k.flags).barrierArrive k.ab with copyq := c.copyq.tail, mons := { c.mons with copy := c.mons.copy.sample v } }
      (s.setCroft n (c.arrive k.arv).pruneFences).fieldsDone

end Sys2Proof.Machine
end

