-- ==== Sys2Proof/Machine/Index.lean ====
section
/-! DEFINITION. The index engine (R165 to R168, R366, R367): XGATH, XSCAT, XSCADD and XBAG as they are accepted, and as the index
unit performs them. -/

namespace Sys2Proof.Machine

/-! ### The descriptor (R366) -/

/-- n bytes of a 64-byte block from byte o, least significant first. -/
def blockField (d : BitVec 512) (o n : Nat) : Nat := d.toNat / 2 ^ (8 * o) % 2 ^ (8 * n)

/-- TBASE. -/
def ixTbase (d : BitVec 512) : Word64 := BitVec.ofNat 64 (blockField d 0x00 8)
/-- DBASE. -/
def ixDbase (d : BitVec 512) : Word64 := BitVec.ofNat 64 (blockField d 0x08 8)
/-- NROWS. -/
def ixNrows (d : BitVec 512) : Nat := blockField d 0x10 4
/-- ROWB4. -/
def ixRowb4 (d : BitVec 512) : Nat := blockField d 0x14 2
/-- ETYPE. -/
def ixEtype (d : BitVec 512) : Nat := blockField d 0x16 1
/-- CLS of ORD. -/
def ixCls (d : BitVec 512) : Nat := blockField d 0x17 1 % 16
/-- SEM of ORD. -/
def ixSem (d : BitVec 512) : Nat := blockField d 0x17 1 / 16 % 4
/-- SCOPE. -/
def ixScope (d : BitVec 512) : Nat := blockField d 0x18 1
/-- BAR. -/
def ixBar (d : BitVec 512) : Nat := blockField d 0x19 1
/-- The barrier object a descriptor names (R169, R366). -/
def ixBarrier (d : BitVec 512) : Option Nat := if ixBar d / 16 % 2 == 1 then some (ixBar d % 16) else none
/-- DSTR. -/
def ixDstr (d : BitVec 512) : Nat := blockField d 0x1C 4
/-- IDX. -/
def ixIdx (d : BitVec 512) : Nat := blockField d 0x20 4
/-- N. -/
def ixN (d : BitVec 512) : Nat := blockField d 0x24 4
/-- OFFS. -/
def ixOffs (d : BitVec 512) : Nat := blockField d 0x28 4
/-- NBAG. -/
def ixNbag (d : BitVec 512) : Nat := blockField d 0x2C 4
/-- ROWB (R366). -/
def ixRowb (d : BitVec 512) : Nat := 4 * ixRowb4 d

/-- The index commands by number: 0 XGATH, 1 XSCAT, 2 XSCADD, 3 XBAG. -/
def ixBag (op : Nat) : Bool := op == 3
/-- The command writes the table. -/
def ixToTable (op : Nat) : Bool := op == 1 || op == 2

/-- A descriptor's fields keep R366 and R60. -/
def ixFieldsOk (op : Nat) (d : BitVec 512) : Bool :=
  let e := ixEtype d
  1 ≤ ixNrows d && 1 ≤ ixRowb4 d && ixRowb4 d ≤ 4096 && (e == 0 || e == 1 || e == 2 || e == 8 || e == 11)
    && blockField d 0x17 1 < 64 && semScopeOk (BitVec.ofNat 2 (ixSem d)) (BitVec.ofNat 4 (ixScope d)) && ixScope d < 16
    && ixBar d < 32 && blockField d 0x1A 2 == 0 && blockField d 0x30 16 == 0
    && ixDstr d % 4 == 0 && ixRowb d ≤ ixDstr d && ixN d ≤ 65535
    && (if ixBag op then 1 ≤ ixNbag d && ixNbag d ≤ 65535 else ixNbag d == 0 && ixOffs d == 0)
    && (!(e == 1 || e == 2) || ixRowb4 d % 2 == 0)

/-- Rows of the data area: bags for XBAG, else indices. -/
def ixRows (op : Nat) (d : BitVec 512) : Nat := if ixBag op then ixNbag d else ixN d

/-- The bytes of the data area from DBASE (R367): none without rows. -/
def ixDataLen (op : Nat) (d : BitVec 512) : Nat := if ixRows op d == 0 then 0 else (ixRows op d - 1) * ixDstr d + ixRowb d

/-- An N32 list in scratchpad. -/
def Croft.n32 (c : Croft) (a n : Nat) : List Nat := (List.range n).map fun i => c.sp.le (a + 4 * i) 4

/-- The index list of a descriptor. -/
def Croft.ixList (c : Croft) (d : BitVec 512) : List Nat := c.n32 (ixIdx d) (ixN d)

/-- The offsets list of a descriptor: none but for XBAG. -/
def Croft.ixOffsList (c : Croft) (op : Nat) (d : BitVec 512) : List Nat := if ixBag op then c.n32 (ixOffs d) (ixNbag d + 1) else []

/-- Offsets never fall, and the last does not pass N (R165). -/
def offsOk : Nat → List Nat → Bool
  | _, [] => true
  | n, [x] => x ≤ n
  | n, x :: y :: r => x ≤ y && offsOk n (y :: r)

/-- An index command at issue (R367): its checks in order, then its acceptance. A descriptor in a bank that is down is BOUNDS before its fields
are read (R138, R280; DEDUCED, log 101). -/
def Croft.indexOp (c : Croft) (op : Nat) (o : XF) : Except Stop Croft := do
  let da := 128 * o.desc.toNat
  let descRead : SpAcc := ⟨da, 64, false⟩
  c.spBounds [descRead]
  c.spAwake [descRead]
  let d := BitVec.ofNat 512 (c.sp.le da 64)
  need (ixFieldsOk op d) (.flt .illop)
  aligned (ixTbase d) 4
  aligned (ixDbase d) 4
  aligned (joinAddr .sp (ixIdx d)) 4
  aligned (joinAddr .sp (ixOffs d)) 4
  let tlen := ixNrows d * ixRowb d
  let dlen := ixDataLen op d
  let (ts, ta) ← splitIn ownerOrSp (ixTbase d) tlen
  let (ds, dd) ← splitIn ownerOrSp (ixDbase d) dlen
  let lists : List SpAcc := ⟨ixIdx d, 4 * ixN d, false⟩ :: (if ixBag op then [⟨ixOffs d, 4 * (ixNbag d + 1), false⟩] else [])
  let rows := inSp ts [⟨ta, tlen, ixToTable op⟩] ++ inSp ds [⟨dd, dlen, !ixToTable op⟩]
  c.spBounds (rows ++ lists)
  c.spAwake (lists.drop 1)
  need (offsOk (ixN d) (c.ixOffsList op d)) (.fault { code := .bounds, addr := (joinAddr .sp (ixOffs d)).toNat })
  c.spHedge .X (descRead :: lists ++ rows)
  c.barrierSet (ixBarrier d)
  need (c.arvRoom o.arv.toNat) .wait
  let k : IndexCmd := { seq := c.issueSeq, pc := c.issuePc, launch := c.lastLaunch, arv := o.arv.toNat, op := op, desc := d }
  .ok { c.arvReserve o.arv.toNat with indexq := c.indexq ++ [k] }

/-- XGATH (R165, R367). -/
def execXgath (t : Tok) (o : XF) (x : Ext) : State → Host.Outcome State Fault Refusal :=
  issueNow (.xgath t o x) t fun c => c.indexOp 0 o

/-- XSCAT (R165, R367). -/
def execXscat (t : Tok) (o : XF) (x : Ext) : State → Host.Outcome State Fault Refusal :=
  issueNow (.xscat t o x) t fun c => c.indexOp 1 o

/-- XSCADD (R165, R367). -/
def execXscadd (t : Tok) (o : XF) (x : Ext) : State → Host.Outcome State Fault Refusal :=
  issueNow (.xscadd t o x) t fun c => c.indexOp 2 o

/-- XBAG (R165, R367). -/
def execXbag (t : Tok) (o : XF) (x : Ext) : State → Host.Outcome State Fault Refusal :=
  issueNow (.xbag t o x) t fun c => c.indexOp 3 o

/-! ### Performing (R165, R167, R368) -/

/-- Replace the command at the front of the index unit. -/
def Croft.setIndexFront (c : Croft) (k : IndexCmd) : Croft := { c with indexq := k :: c.indexq.tail }

/-- The front command may go on. -/
def Croft.indexMay (c : Croft) (k : IndexCmd) : Bool :=
  k.halt == .no && k.reply.isNone && !c.holdsFor (.command .index)

/-- The space and address of row r under a base. -/
def rowAddr (base : Word64) (off : Nat) : Space × Nat :=
  match splitAddr base with
  | some (space, a) => (space, a + off)
  | none => (.sp, 0)

/-- The table's row r. -/
def ixTableRow (d : BitVec 512) (r : Nat) : Space × Nat := rowAddr (ixTbase d) (r * ixRowb d)
/-- The data area's row i. -/
def ixDataRow (d : BitVec 512) (i : Nat) : Space × Nat := rowAddr (ixDbase d) (i * ixDstr d)

/-- Read a row for a croft. -/
def State.readRow (s : State) (n : Nat) (at_ : Space × Nat) (len : Nat) : Except TransFault (List Byte × State) :=
  match at_.1 with
  | .owner => s.cmdRead n at_.2 len
  | _ => .ok ((s.croft n).sp.readN at_.2 len, s)

/-- Write a row for a croft. -/
def State.writeRow (s : State) (n : Nat) (at_ : Space × Nat) (bytes : List Byte) (rmw : Bool) : Except WriteStop State :=
  match at_.1 with
  | .owner => s.cmdWrite n at_.2 bytes rmw
  | _ => .ok (s.setCroft n ((s.croft n).spWrite at_.2 bytes))

/-- Read several rows in order. -/
def State.readRowList (s : State) (n len : Nat) : List (Space × Nat) → Except TransFault (List (List Byte) × State)
  | [] => .ok ([], s)
  | a :: l =>
    match s.readRow n a len with
    | .error f => .error f
    | .ok (b, s) =>
      match State.readRowList s n len l with
      | .error f => .error f
      | .ok (bs, s) => .ok (b :: bs, s)

/-- The elements of a row as codes of its type. -/
def rowCodes (etype : Nat) (bytes : List Byte) : List Nat :=
  let w := tagWidth etype / 8
  (chunks w (bytes.length / w) bytes).map leNat

/-- One element of a sum of rows (R165): rounded once for a float type; for an integer type wrapped where rows are scattered, else
rounded as RND rounds it. -/
def sumElem (etype : Nat) (wrap : Bool) (xs : List Nat) : Nat × Flags :=
  if wrap && tagInt etype then intResult etype false ((xs.map fun x => tagIntVal etype x).foldl (· + ·) 0)
  else tagRnd etype 0 false (exactSum (xs.map fun x => tagValue etype x))

/-- Rows added element by element, len bytes each. -/
def sumRows (etype : Nat) (wrap : Bool) (len : Nat) (rows : List (List Byte)) : List Byte × Flags :=
  let w := tagWidth etype / 8
  let cs := rows.map (rowCodes etype)
  let rs := (List.range (len / w)).map fun j => sumElem etype wrap (cs.map fun r => r.getD j 0)
  (rs.flatMap fun r => leBytes w r.1, rs.foldl (fun a r => a ||| r.2) 0)

/-- The distinct rows an index list names, in order of first occurrence. -/
def distinctRows (nrows : Nat) (l : List Nat) : List Nat :=
  l.foldl (fun d v => if nrows ≤ v || d.contains v then d else d ++ [v]) []

/-- How many indices, distinct rows or bags a command works through. -/
def Croft.ixUnits (c : Croft) (k : IndexCmd) : Nat :=
  if k.op == 2 then (distinctRows (ixNrows k.desc) (c.ixList k.desc)).length else ixRows k.op k.desc

/-- The indices of bag b. -/
def Croft.ixBagList (c : Croft) (d : BitVec 512) (b : Nat) : List Nat :=
  let lo := c.sp.le (ixOffs d + 4 * b) 4
  let hi := c.sp.le (ixOffs d + 4 * (b + 1)) 4
  ((c.ixList d).take hi).drop lo

/-- The reply of a command (R166). Of XBAG's indices those of its bags count, and of XGATH's rows those that a row of the table filled (DEDUCED,
log 12). -/
def Croft.ixReply (c : Croft) (k : IndexCmd) : Word64 :=
  let d := k.desc
  let l := if ixBag k.op then (List.range (ixNbag d)).flatMap (c.ixBagList d) else c.ixList d
  let bad := (l.filter fun v => ixNrows d ≤ v).length
  let done :=
    if ixBag k.op then ((List.range (ixNbag d)).filter fun b => !(c.ixBagList d b).isEmpty).length
    else if k.op == 0 then l.length - bad
    else (distinctRows (ixNrows d) l).length
  BitVec.ofNat 64 (bad * 2 ^ 32 + done)

/-- What one unit of a command reads, where it writes, whether as an RMW, and what it writes of the bytes read: none where the unit
writes nothing. -/
structure IxUnit where
  reads : List (Space × Nat)
  dest  : Space × Nat
  rmw   : Bool
  out   : List (List Byte) → List Byte × Flags

/-- Unit u of a command (R165, R368). -/
def Croft.ixUnit (c : Croft) (k : IndexCmd) (u : Nat) : Option IxUnit :=
  let d := k.desc
  let len := ixRowb d
  let l := c.ixList d
  let inRange (v : Nat) : Bool := v < ixNrows d
  let copyRow (bs : List (List Byte)) : List Byte × Flags := (bs.headD (List.replicate len 0), 0)
  match k.op with
  | 0 =>
    let v := l.getD u 0
    some ⟨if inRange v then [ixTableRow d v] else [], ixDataRow d u, false, copyRow⟩
  | 1 =>
    let v := l.getD u 0
    if inRange v then some ⟨[ixDataRow d u], ixTableRow d v, true, copyRow⟩ else none
  | 2 =>
    let r := (distinctRows (ixNrows d) l).getD u 0
    let froms := ((indexed l).filter fun p => p.2 == r).map fun p => ixDataRow d p.1
    some ⟨ixTableRow d r :: froms, ixTableRow d r, true, sumRows (ixEtype d) true len⟩
  | _ =>
    let rows := ((c.ixBagList d u).filter inRange).map (ixTableRow d)
    some ⟨rows, ixDataRow d u, false, sumRows (ixEtype d) false len⟩

/-- The scratchpad rows a unit touches, for the gates of their banks. -/
def IxUnit.local_ (x : IxUnit) (len : Nat) : List SpAcc :=
  (x.dest :: x.reads).flatMap fun a => if a.1 == .sp then [SpAcc.mk a.2 len false] else []

/-- A translation fault of the front command of the index unit (R165, R368, R372). -/
def State.indexTrans (s : State) (n : Nat) (k : IndexCmd) (f : TransFault) : State :=
  s.commandTrans n .index .X k.pc k.seq f f.addr k.done ((s.croft n).setIndexFront { k with halt := .sillu })

/-- One unit of the front command performs. -/
def State.indexUnit (s : State) (n : Nat) (k : IndexCmd) : State :=
  let c := s.croft n
  let k' := { k with done := k.done + 1 }
  match c.ixUnit k k.done with
  | none => s.setCroft n (c.setIndexFront k')
  | some x =>
    if !c.cmdAwake k.seq (x.local_ (ixRowb k.desc)) then s
    else
      match s.readRowList n (ixRowb k.desc) x.reads with
      | .error f => s.indexTrans n k f
      | .ok (bs, s1) =>
        let r := x.out bs
        match s1.writeRow n x.dest r.1 x.rmw with
        | .error (.trans f) => s.indexTrans n k f
        | .error (.held sts got) => s.holdWrite n (.command .index) sts got x.dest.2
        | .ok s2 => s2.setCroft n ((s2.croft n).setIndexFront { k' with flags := k.flags ||| r.2 })

/-- What the index unit does next (R368): one unit of the front command, or its reply once none is left. -/
def State.indexStep (s : State) (n : Nat) : State :=
  let c := s.croft n
  match c.indexq with
  | [] => s
  | k :: _ =>
    if !c.indexMay k then s
    else if k.done < c.ixUnits k then s.indexUnit n k
    else s.setCroft n (c.setIndexFront { k with reply := some (c.ixReply k) })

/-- INDEX_QUEUE_START (R368). -/
def execIndexQueueStart (n : Nat) : State → Host.Outcome State Fault Refusal := event fun s => s.indexStep n

/-! ### Completion (R166, R169) -/

/-- QR has room for one more entry: landings in flight hold theirs (R174, R323). -/
def Croft.qrRoom (c : Croft) : Bool := !c.placing && c.qr.length + c.pendR < 16

/-- The entries at QR's end that G has pushed at the vc that the clock has reached. -/
def Croft.qrNew (c : Croft) : Nat := if c.qrLate.1 == c.landLimit then Nat.min c.qrLate.2 c.qr.length else 0

/-- X's entry enters QR, before those that G has pushed at the same vc (R41). -/
def Croft.pushQrX (c : Croft) (v : Word64) : Croft :=
  let n := c.qr.length - c.qrNew
  { c with qr := c.qr.take n ++ v :: c.qr.drop n }

/-- G's entries enter QR (R41, R243). -/
def Croft.pushQrG (c : Croft) (vs : List Word64) : Croft := { c with qr := c.qr ++ vs, qrLate := (c.landLimit, c.qrNew + vs.length) }

/-- The front command of the index unit completes (R166): its flags (R335), its QR entry, its barrier arrival, its engine arrival. -/
def State.indexComplete (s : State) (n : Nat) : State :=
  let c := s.croft n
  match c.indexq with
  | [] => s
  | k :: rest =>
    match k.reply with
    | none => s
    | some v =>
      if k.halt != .no || !c.qrRoom then s
      else
        let c1 := ({ c with indexq := rest } : Croft).pushQrX v
        (s.setCroft n (((c1.raise k.flags).barrierArrive (ixBarrier k.desc)).arrive k.arv)).fieldsDone

end Sys2Proof.Machine
end

