-- ==== Sys2Proof/Machine/Gen.lean ====
section
/-! DEFINITION. The generation engine (R242 to R257, R297 to R308): the ten G commands as they are accepted, as they perform and as
they complete, the Thresher, the Philox draw, masks, budgets, acceptance, staging and commit. -/

namespace Sys2Proof.Machine

/-! ### Parameter blocks (R244) -/

/-- The G commands by number, in the order of R243: 0 GSEED, 1 GSHORT, 2 GSLOW, 3 GSAMP, 4 GMASK, 5 GBUDG, 6 GACPT, 7 GDRAFT, 8 GSTAGE,
9 GCOMP. The bytes of a block that its command names, as offset and length. -/
def blockNames : Nat → List (Nat × Nat)
  | 0 => [(0, 8)] | 1 => [(0, 32)] | 2 => [(0, 6)] | 3 => [(0, 4)] | 4 => [(0, 8), (0x1C, 4)] | 5 => [(0, 2), (0x1C, 4)]
  | 6 => [(0, 64)] | 7 => [] | 8 => [(0, 13)] | _ => [(0, 16)]

/-- Every byte that the block's table does not name is 0. -/
def blockZeros (op : Nat) (b : BitVec 512) : Bool :=
  (List.range 64).all fun i => (blockNames op).any (fun p => p.1 ≤ i && i < p.1 + p.2) || blockField b i 1 == 0

/-- LBASE. -/
def shLbase (b : BitVec 512) : Nat := blockField b 0x00 4
/-- V. -/
def shV (b : BitVec 512) : Nat := blockField b 0x04 4
/-- KS. -/
def shKs (b : BitVec 512) : Nat := blockField b 0x08 4
/-- THR. -/
def shThr (b : BitVec 512) : Nat := blockField b 0x0C 4
/-- TOPP. -/
def shTopp (b : BitVec 512) : Nat := blockField b 0x10 4
/-- SHBASE. -/
def shShb (b : BitVec 512) : Nat := blockField b 0x14 4
/-- ROWID. -/
def shRow (b : BitVec 512) : Nat := blockField b 0x18 4
/-- STEP of GMASK, GBUDG and GSHORT. -/
def blkStep (b : BitVec 512) : Nat := blockField b 0x1C 4
/-- CBASE. -/
def slCbase (b : BitVec 512) : Nat := blockField b 0 4
/-- CAP. -/
def slCap (b : BitVec 512) : Nat := blockField b 4 2
/-- MBASE. -/
def mkMbase (b : BitVec 512) : Nat := blockField b 0 4
/-- MCAP. -/
def mkMcap (b : BitVec 512) : Nat := blockField b 4 4
/-- SRC. -/
def stSrc (b : BitVec 512) : Nat := blockField b 0 4
/-- SBASE. -/
def stSbase (b : BitVec 512) : Nat := blockField b 4 4
/-- SCAP. -/
def stScap (b : BitVec 512) : Nat := blockField b 8 2
/-- ESZ. -/
def stEsz (b : BitVec 512) : Nat := blockField b 10 1
/-- N. -/
def stN (b : BitVec 512) : Nat := blockField b 11 1
/-- RESET. -/
def stReset (b : BitVec 512) : Nat := blockField b 12 1
/-- BTAB. -/
def cpBtab (b : BitVec 512) : Nat := blockField b 0 8
/-- POS. -/
def cpPos (b : BitVec 512) : Nat := blockField b 8 4
/-- BLKSH. -/
def cpBlksh (b : BitVec 512) : Nat := blockField b 12 1
/-- Draft token Di. -/
def acDraft (b : BitVec 512) (i : Nat) : Nat := blockField b (4 * i) 4
/-- A field of GACPT's first word. -/
def acField (b : BitVec 512) (hi lo : Nat) : Nat := blockField b 0 4 / 2 ^ lo % 2 ^ (hi + 1 - lo)

/-! ### Issue (R297, R298) -/

/-- The bytes of the loaded staging region (R255). -/
def Staging.bytes (g : Staging) : Nat := 64 * g.esz * g.cap

/-- The scratchpad ranges that a command's block names (R242, R298): GCOMP's are the loaded staging region. The Hayward checks GSLOW's issue against
CBASE alone (R307; DEDUCED, log 98). -/
def Croft.genRanges (c : Croft) (op : Nat) (b : BitVec 512) : List SpAcc :=
  match op with
  | 1 => [⟨shLbase b, 4 * shV b, false⟩, ⟨shShb b, 512, true⟩]
  | 2 => [⟨slCbase b, 8 * slCap b, true⟩]
  | 4 => [⟨mkMbase b, mkMcap b, true⟩]
  | 8 => [⟨stSrc b, 64 * stEsz b * stN b, false⟩, ⟨stSbase b, 64 * stEsz b * stScap b, true⟩]
  | 9 => [⟨c.staging.base, c.staging.bytes, false⟩]
  | _ => []

/-- The logits that a GSLOW accepted now will reread (R307): those of the last GSHORT of its slot in the work queue, else those that a slot in a
state of R298 holds. -/
def Croft.slowReach (c : Croft) (slot : Nat) : List SpAcc :=
  match (c.genq.filter fun k => k.op == 1 && k.k == slot).getLast? with
  | some k => [⟨shLbase k.block, 4 * shV k.block, false⟩]
  | none => let r := vget c.rows {} slot; if r.st == .fast || r.st == .slow then [⟨r.lbase, 4 * r.v, false⟩] else []

/-- The scratchpad ranges that a command will touch (R138, R280): those of its block, and the logits that a GSLOW rereads. -/
def Croft.genReach (c : Croft) (op slot : Nat) (b : BitVec 512) : List SpAcc :=
  c.genRanges op b ++ if op == 2 then c.slowReach slot else []

/-- A range cut at the last byte of the scratchpad: what lies past it faults at perform (R298; DEDUCED, log 13). -/
def SpAcc.cut (x : SpAcc) : SpAcc := { x with n := Nat.min x.n (spSize - x.a) }

/-- GBUDG arms the budget at its issue (R251, R301); a GSHORT that names its slot disarms it. -/
def Croft.genArm (c : Croft) (op : Nat) (o : GF) (x : Ext) (b : BitVec 512) : Croft :=
  if op == 5 then
    { c with budget := some { slot := o.k.toNat, due := c.vclock + x.x0.toNat, resume := blockField b 0 2, step := blkStep b
                              pc := c.issuePc, seq := c.issueSeq } }
  else if op == 1 then
    match c.budget with
    | some g => if g.slot == o.k.toNat then { c with budget := none } else c
    | none => c
  else c

/-- A bank that is down at the issue of a G command faults there with BOUNDS (R138, R280; DEDUCED, log 13). -/
def Croft.genGates (c : Croft) (l : List SpAcc) : Except Stop Unit :=
  match l.find? fun x => !(banksOf x.a x.n).all c.gateUp with
  | none => .ok ()
  | some x => .error (.fault { code := .bounds, addr := (joinAddr .sp x.a).toNat })

/-- A G command at issue (R297, R298): it waits for its block, a place in the work queue and its arrival, its banks are up, it is checked by the
Hayward, and is accepted. -/
def Croft.genOp (c : Croft) (op : Nat) (o : GF) (x : Ext) : Except Stop Croft := do
  let (b, c) ← if o.p then
      match c.qg with
      | ⟨_, some v⟩ :: q => .ok (v, { c with qg := q })
      | _ => .error .wait
    else .ok (0, c)
  need (c.genq.length < 8 && c.arvRoom o.arv.toNat) .wait
  let ranges := (c.genRanges op b).map SpAcc.cut
  c.genGates ((c.genReach op o.k.toNat b).map SpAcc.cut)
  c.spHedge .G ranges
  let k : GenCmd :=
    { seq := c.issueSeq, pc := c.issuePc, launch := c.lastLaunch, arv := o.arv.toNat, op := op, k := o.k.toNat
      word := c.imem.le (4 * c.issuePc) 4, x0 := x.x0.toNat
      block := b, vc := c.vclock, shut := c.shutBanks }
  let c := c.genArm op o x b
  .ok { c.arvReserve o.arv.toNat with genq := c.genq ++ [k] }

/-- GSEED (R248, R305). -/
def execGseed (t : Tok) (o : GF) (x : Ext) : State → Host.Outcome State Fault Refusal :=
  issueNow (.gseed t o x) t fun c => c.genOp 0 o x

/-- GSHORT (R245, R306). -/
def execGshort (t : Tok) (o : GF) (x : Ext) : State → Host.Outcome State Fault Refusal :=
  issueNow (.gshort t o x) t fun c => c.genOp 1 o x

/-- GSLOW (R246, R307). -/
def execGslow (t : Tok) (o : GF) (x : Ext) : State → Host.Outcome State Fault Refusal :=
  issueNow (.gslow t o x) t fun c => c.genOp 2 o x

/-- GSAMP (R247, R305). -/
def execGsamp (t : Tok) (o : GF) (x : Ext) : State → Host.Outcome State Fault Refusal :=
  issueNow (.gsamp t o x) t fun c => c.genOp 3 o x

/-- GMASK (R250, R304). -/
def execGmask (t : Tok) (o : GF) (x : Ext) : State → Host.Outcome State Fault Refusal :=
  issueNow (.gmask t o x) t fun c => c.genOp 4 o x

/-- GBUDG (R251, R301). -/
def execGbudg (t : Tok) (o : GF) (x : Ext) : State → Host.Outcome State Fault Refusal :=
  issueNow (.gbudg t o x) t fun c => c.genOp 5 o x

/-- GACPT (R253, R300). -/
def execGacpt (t : Tok) (o : GF) (x : Ext) : State → Host.Outcome State Fault Refusal :=
  issueNow (.gacpt t o x) t fun c => c.genOp 6 o x

/-- GDRAFT (R254, R303). -/
def execGdraft (t : Tok) (o : GF) (x : Ext) : State → Host.Outcome State Fault Refusal :=
  issueNow (.gdraft t o x) t fun c => c.genOp 7 o x

/-- GSTAGE (R255, R308). -/
def execGstage (t : Tok) (o : GF) (x : Ext) : State → Host.Outcome State Fault Refusal :=
  issueNow (.gstage t o x) t fun c => c.genOp 8 o x

/-- GCOMP (R256, R302). -/
def execGcomp (t : Tok) (o : GF) (x : Ext) : State → Host.Outcome State Fault Refusal :=
  issueNow (.gcomp t o x) t fun c => c.genOp 9 o x

/-! ### Slots and masks -/

/-- A row slot of a croft (R242). -/
def Croft.row (c : Croft) (k : Nat) : RowSlot := vget c.rows {} k

/-- Replace a row slot. -/
def Croft.setRow (c : Croft) (k : Nat) (r : RowSlot) : Croft := { c with rows := vset c.rows k r }

/-- The reset of R242 where a block names another STEP. -/
def RowSlot.atStep (r : RowSlot) (step : Nat) : RowSlot := if r.step == step then r else { step := step }

/-- The length of a mask (R249). -/
def maskLen (m : Mask) : Nat := m.foldl (fun n p => n + p.2) 0

/-- The bits of a mask. -/
def maskBits (m : Mask) : List Bool := m.flatMap fun p => List.replicate p.2 p.1

/-- A mask in the long mask form (R249). -/
def maskDwords (m : Mask) : List Word64 :=
  BitVec.ofNat 64 (m.length * 2 ^ 48 + maskLen m) :: m.map fun p => BitVec.ofNat 64 (bit p.1 * 2 ^ 31 + (p.2 - 1))

/-- A mask whose length differs from a row's (R245, R298). -/
def maskBreaks (m : Option Mask) (v : Nat) : Bool := match m with | some m => maskLen m != v | none => false

/-- A delivered mask enters a slot (R299): a row that has been sampled keeps the mask of its GSHORT until the next one. -/
def RowSlot.deliver (r : RowSlot) (m : Mask) : RowSlot := { r with mask := some m, rowMask := if r.tokv then r.rowMask else some m }

/-! ### The Thresher (R245, R246) -/

/-- Whether a z stands above another: −0 below +0, as MIN and MAX order them (R160; DEDUCED, log 14). -/
def zBelow (a b : Nat) : Bool := FV.lt true (fp32.value a) (fp32.value b)

/-- z of a logit (R245): −Inf for a NaN. -/
def scaleLogit (ks x : Nat) : Nat :=
  let v := fp32.value x
  if v.isNan then 0xFF800000 else (rne32 (v.mul (fp32.value ks))).1

/-- The flags of scaling a logit (R245, R104): INV for a NaN, OVF where the product overflows. -/
def scaleFlags (ks x : Nat) : Flags :=
  let v := fp32.value x
  if v.isNan then fINV else (rne32 (v.mul (fp32.value ks))).2

/-- The allowed elements of a row under a mask: index and logit, in rising order of index. -/
def Croft.allowed (c : Croft) (mask : Option Mask) (lbase v : Nat) : List (Nat × Nat) :=
  let xs := indexed (c.words lbase v)
  match mask with
  | none => xs
  | some m => ((maskBits m).zip xs).filterMap fun p => if p.1 then some p.2 else none

/-- The allowed elements of a row with their z, in rising order of index. -/
def Croft.rowCands (c : Croft) (mask : Option Mask) (lbase v ks : Nat) : List Cand :=
  (c.allowed mask lbase v).map fun p => ⟨p.1, scaleLogit ks p.2⟩

/-- The candidate of greatest z, the first on ties. -/
def bestCand : List Cand → Option Cand
  | [] => none
  | x :: l => some (l.foldl (fun a b => if zBelow a.z b.z then b else a) x)

/-- w of a z under the row's maximum (R245). -/
def weight (zmax z : Nat) : Nat :=
  match fp32.value zmax with
  | .inf _ => if z == zmax then 0x3F800000 else 0
  | m => exp2 (rne32 (FV.add (fp32.value z) m.neg)).1

/-- The flags of a weight's difference z − Z (R245, R104): OVF where it overflows. -/
def weightFlags (zmax z : Nat) : Flags :=
  match fp32.value zmax with
  | .inf _ => 0
  | m => (rne32 (FV.add (fp32.value z) m.neg)).2

/-- The exact sum of the weights of some candidates. -/
def weightSum (zmax : Nat) (l : List Cand) : FV := exactSum (l.map fun x => fp32.value (weight zmax x.z))

/-- The sheaf of a row of v elements (R245): for each of 64 segments its greatest allowed element. -/
def sheafOf (v : Nat) (l : List Cand) : List (Option Cand) :=
  let sl := ceilDiv v 64
  (List.range 64).map fun i => bestCand (l.filter fun x => i * sl ≤ x.idx && x.idx < (i + 1) * sl)

/-- A sheaf entry in memory (R245). -/
def candBytes (o : Option Cand) : List Byte :=
  match o with
  | none => leBytes 8 (2 ^ 63 + 0xFF800000)
  | some x => leBytes 8 (x.idx * 2 ^ 32 + x.z)

/-- Insert a candidate into a list sorted by falling z. -/
def insertCand (a : Cand) : List Cand → List Cand
  | [] => [a]
  | b :: l => if zBelow b.z a.z || (!zBelow a.z b.z && a.idx < b.idx) then a :: b :: l else b :: insertCand a l

/-- Candidates sorted by falling z, the lower index first on ties (R246). -/
def sortCands (l : List Cand) : List Cand := l.foldr insertCand []

/-- The length of the shortest prefix whose exact weight reaches a goal; all of the list where none does. -/
def prefixLen (zmax : Nat) (goal : FV) : FV → List Cand → Nat
  | _, [] => 0
  | acc, x :: l =>
    let acc := FV.add acc (fp32.value (weight zmax x.z))
    if FV.lt false acc goal then 1 + prefixLen zmax goal acc l else 1

/-- The nucleus of a sorted list (R246, R247) for a TOPP and the total it is measured against. -/
def nucleus (zmax topp : Nat) (total : FV) (l : List Cand) : List Cand :=
  let t := fp32.value topp
  if t.isNan || !FV.lt false t (.num false 1 0) then l
  else if !FV.lt false (.num false 0 0) t then l.take 1
  else l.take (prefixLen zmax (t.mul total) (.num false 0 0) l)

/-! ### The draw (R247) -/

/-- One round of Philox4x32-10. -/
def philoxRound (x : (Nat × Nat × Nat × Nat) × (Nat × Nat)) : (Nat × Nat × Nat × Nat) × (Nat × Nat) :=
  let (c0, c1, c2, c3) := x.1
  let (k0, k1) := x.2
  let p := 0xD2511F53 * c0
  let q := 0xCD9E8D57 * c2
  (((q / 2 ^ 32) ^^^ c1 ^^^ k0, q % 2 ^ 32, (p / 2 ^ 32) ^^^ c3 ^^^ k1, p % 2 ^ 32),
    ((k0 + 0x9E3779B9) % 2 ^ 32, (k1 + 0xBB67AE85) % 2 ^ 32))

/-- c0 after the ten rounds. -/
def philox (key : Word64) (row step draw : Nat) : Nat :=
  ((List.range 10).foldl (fun x _ => philoxRound x) ((row, step, draw, 0), (bitsOf key 31 0, bitsOf key 63 32))).1.1

/-- The first candidate whose cumulative weight exceeds a goal. -/
def pickCand (zmax : Nat) (goal : FV) : FV → List Cand → Option Nat
  | _, [] => none
  | acc, x :: l =>
    let acc := FV.add acc (fp32.value (weight zmax x.z))
    if FV.lt false goal acc then some x.idx else pickCand zmax goal acc l

/-- The list that GSAMP draws from (R247). -/
def RowSlot.drawList (r : RowSlot) : List Cand :=
  match r.st with
  | .fast => nucleus r.z r.topp (fp32.value r.s) (sortCands (r.sheaf.filterMap id))
  | _ => r.cands

/-- GSAMP's token (R247): none where the list is empty, for which the spec states no token. -/
def RowSlot.draw (r : RowSlot) (key : Word64) (draw : Nat) : Option Nat :=
  let l := r.drawList
  pickCand r.z (FV.mul (.num false (philox key r.row r.step draw) (-32)) (weightSum r.z l)) (.num false 0 0) l

/-! ### Checks at perform (R298) -/

/-- BOUNDS at a scratchpad address. -/
def genBounds (a : Nat) : Flt := { code := .bounds, addr := (joinAddr .sp a).toNat }

/-- ALIGN, then BOUNDS, over a command's ranges (R298): a bank that was down at issue is out of reach, also where it has come up since (R138). -/
def GenCmd.rangeFault (k : GenCmd) (l : List SpAcc) : Option Flt :=
  match l.find? fun x => x.a % 64 != 0 with
  | some x => some { code := .align, addr := (joinAddr .sp x.a).toNat }
  | none =>
    match l.find? fun x => spSize < x.a + x.n || (banksOf x.cut.a x.cut.n).any k.shut.contains with
    | some x => some (genBounds x.a)
    | none => none

/-- ILLOP of a command's block, of a slot's state, or of a GDRAFT's depth (R298, R299). -/
def Croft.genIllop (c : Croft) (k : GenCmd) : Bool :=
  let b := k.block
  let r := c.row k.k
  !blockZeros k.op b ||
  (match k.op with
   | 1 =>
     let ks := fp32.value (shKs b)
     !(1 ≤ shV b && shV b ≤ 262144) || !ks.isFin || ks.isZero || 2 ^ 21 < shLbase b + 4 * shV b
   | 2 => !(1 ≤ slCap b && slCap b ≤ 4096) || !(r.st == .fast || r.st == .slow)
   | 3 => r.st == .idle || r.st == .slow
   | 4 => !(64 ≤ mkMcap b && mkMcap b ≤ 32832 && mkMcap b % 64 == 0)
   | 5 => c.overlay.len ≤ blockField b 0 2
   | 6 =>
     let first := acField b 3 0
     acField b 31 24 != 0 || 15 < first + k.k || ((List.range k.k).any fun i => 262143 < acDraft b (i + 1))
       || (List.range (k.k + 1)).any fun i => !((c.row (first + i)).tokv || (c.row (first + i)).st == .withheld)
   | 7 =>
     let s := vget c.stages {} k.k
     let x := k.x0
     let lim := x / 2 ^ 26 % 2 == 1
     let lo := if lim then x % 16 else s.dmin
     let hi := if lim then x / 16 % 16 else s.dmax
     x / 2 ^ 27 % 2 == 1 && !(lo ≤ x / 256 % 16 && x / 256 % 16 ≤ hi)
   | 8 =>
     let g := c.staging
     !(1 ≤ stScap b && stScap b ≤ 4096 && 1 ≤ stEsz b && stEsz b ≤ 64 && 1 ≤ stN b && stN b ≤ 64 && stReset b ≤ 1)
       || (stReset b == 0 && !(g.base == stSbase b && g.cap == stScap b && g.esz == stEsz b))
   | 9 =>
     let sem := blockField b 14 1
     let scope := blockField b 15 1
     2 ^ 53 ≤ cpBtab b || cpBtab b % 8 != 0 || 12 < cpBlksh b || 15 < blockField b 13 1 || 3 < sem || 10 < scope
       || ((sem == 0) != (scope == 0)) || !c.staging.valid || c.staging.fill < c.staging.last + 1
   | _ => false)

/-- The ranges checked at perform: those of the block, and the logits that GSLOW rereads. -/
def Croft.genPerformRanges (c : Croft) (k : GenCmd) : List SpAcc :=
  c.genRanges k.op k.block ++
    (if k.op == 2 then [⟨(c.row k.k).lbase, 4 * (c.row k.k).v, false⟩] else [])

/-- BOUNDS of GSHORT and GSTAGE beyond their ranges (R255, R306, R308). -/
def Croft.genBoundsMore (c : Croft) (k : GenCmd) : Option Flt :=
  let b := k.block
  match k.op with
  | 1 => if overlap (shShb b) 512 (shLbase b) (4 * shV b) then some (genBounds (shShb b)) else none
  | 8 =>
    let e := 64 * stEsz b
    let fill := if stReset b == 1 then 0 else c.staging.fill
    if overlap (stSrc b) (e * stN b) (stSbase b) (e * stScap b) || stScap b < fill + stN b then some (genBounds (stSbase b)) else none
  | _ => none

/-- LENMIS of a mask against the row of a GSHORT or a GSLOW (R245, R298). A WITHHELD slot is not thresholded. -/
def Croft.genMaskBad (c : Croft) (k : GenCmd) : Bool :=
  match k.op with
  | 1 =>
    let r := (c.row k.k).atStep (blkStep k.block)
    r.st != .withheld && maskBreaks r.mask (shV k.block)
  | 2 => maskBreaks (c.row k.k).rowMask (c.row k.k).v
  | _ => false

/-- The fault of a command as it starts, the first of ILLOP, ALIGN, BOUNDS, LENMIS (R298). -/
def Croft.genFault (c : Croft) (k : GenCmd) : Option Flt :=
  if c.genIllop k then some { code := .illop }
  else match k.rangeFault (c.genPerformRanges k) with
    | some f => some f
    | none =>
      match c.genBoundsMore k with
      | some f => some f
      | none => if c.genMaskBad k then some { code := .lenmis } else none

/-! ### Performing (R242) -/

/-- Replace the command at the front of the work queue. -/
def Croft.setGenFront (c : Croft) (k : GenCmd) : Croft := { c with genq := k :: c.genq.tail }

/-- A program fault of the front command (R298): it keeps its block until ERET retries it or the issue ends. -/
def State.genRaise (s : State) (n : Nat) (k : GenCmd) (f : Flt) : State :=
  let c := s.croft n
  if !c.canRaise then s
  else s.raiseAsync n { flt := f, eng := .G, pc := k.pc, seq := k.seq } fun c => c.setGenFront { k with halt := .faulted }

/-- A translation fault of GCOMP at a unit (R191, R372). -/
def State.genTrans (s : State) (n : Nat) (k : GenCmd) (f : TransFault) : State :=
  s.commandTrans n .gen .G k.pc k.seq f f.addr k.done ((s.croft n).setGenFront { k with halt := .sillu })

/-- Where unit u of a GCOMP goes, from the base of its block (R256): cache position POS + i of entry i. -/
def compDest (b : BitVec 512) (esz base u : Nat) : Nat :=
  base + 64 * esz * ((cpPos b + u / esz) % 2 ^ cpBlksh b) + 64 * (u % esz)

/-- The units of a GCOMP (R256). -/
def Croft.compUnits (c : Croft) : Nat := (c.staging.last + 1) * c.staging.esz

/-- Write one unit of a GCOMP whose block base is known. -/
def State.compWrite (s : State) (n : Nat) (k : GenCmd) (base : Nat) : State :=
  let c := s.croft n
  let u := k.done
  let a := compDest k.block c.staging.esz base u
  if base % 64 != 0 then s.genRaise n { k with done := 0 } { code := .align, addr := base }
  else if 2 ^ 53 < a + 64 then s.genRaise n { k with done := 0 } { code := .bounds, addr := base }
  else
    match s.cmdWrite n a (c.sp.readN (c.staging.base + 64 * u) 64) false with
    | .error (.trans f) => s.genTrans n { k with base := base } f
    | .error (.held sts got) => s.holdWrite n (.command .gen) sts got a
    | .ok s =>
      let c := s.croft n
      s.setCroft n (c.setGenFront { k with base := base, done := u + 1, fin := if u + 1 == c.compUnits then some [] else none })

/-- One unit of a GCOMP (R191, R256): the block table is read before an entry's first unit. -/
def State.compUnit (s : State) (n : Nat) (k : GenCmd) : State :=
  let c := s.croft n
  let esz := c.staging.esz
  if k.done % esz == 0 then
    match s.cmdRead n (cpBtab k.block + 8 * ((cpPos k.block + k.done / esz) / 2 ^ cpBlksh k.block)) 8 with
    | .error f => s.genTrans n k f
    | .ok (b, s) => s.compWrite n k (leNat b)
  else s.compWrite n k k.base

/-- The front command may go on. -/
def Croft.genMay (c : Croft) (k : GenCmd) : Bool :=
  k.halt == .no && k.fin.isNone && !c.holdsFor (.command .gen)

/-- What the start of a command fixes: GSAMP reads RNGSEED then (R248). -/
def State.genBegin (s : State) (n : Nat) (k : GenCmd) : List Word64 × State :=
  let c := s.croft n
  let r := c.row k.k
  if k.op == 3 && r.st != .withheld then
    match r.draw c.rngseed (blockField k.block 0 4) with
    | some tok => ([BitVec.ofNat 64 tok], s)
    | none => ([(Config.freeToken s.fresh).setWidth 64], { s with fresh := s.fresh + 1 })
  else ([], s)

/-- The bytes of a delivered mask at MBASE (R249, R250). -/
def Croft.maskWrite (c : Croft) (k : GenCmd) (m : Mask) : Croft :=
  c.spWrite (mkMbase k.block) ((maskDwords m).flatMap fun d => leBytes 8 d.toNat)

/-- A GMASK has made its checks at perform (R298, R304): a mask that came while it was queued is written now; else it waits for its delivery
or its deadline. -/
def Croft.maskStart (c : Croft) (k : GenCmd) : Croft :=
  match k.mask with
  | some m => (c.setGenFront { k with done := 1, fin := some [] }).maskWrite k m
  | none => c.setGenFront { k with done := 1, fin := none }

/-- What G does next (R242): its front command's checks are made and it starts, and a GCOMP writes its next unit. -/
def State.genStep (s : State) (n : Nat) : State :=
  let c := s.croft n
  match c.genq with
  | [] => s
  | k :: _ =>
    if !c.genMay k then s
    else match c.genFault k with
      | some f => s.genRaise n k f
      | none =>
        if !c.cmdAwake k.seq (c.genPerformRanges k) then s
        else if k.op == 9 then s.compUnit n k
        else if k.op == 4 then s.setCroft n (c.maskStart k)
        else
          let (f, s) := s.genBegin n k
          s.setCroft n (c.setGenFront { k with done := 1, fin := some f })

/-- GEN_QUEUE_START (R242). -/
def execGenQueueStart (n : Nat) : State → Host.Outcome State Fault Refusal := event fun s => s.genStep n

/-! ### Effects at completion -/

/-- A reply's KIND (R243). -/
def genReply (kind rest : Nat) : Word64 := BitVec.ofNat 64 (kind * 2 ^ 56 + rest)

/-- WH of a reply (R245, R247). -/
def replyWh : Nat := 2 ^ 33

/-- The count of a croft's GSHORTs and slow rows, sampled every 1,024 (R271). -/
def Croft.countShort (c : Croft) (slow : Bool) : Croft :=
  let a := c.shorts + 1
  let b := c.slows + bit slow
  if a == 1024 then { c with shorts := 0, slows := 0, mons := { c.mons with slow := c.mons.slow.sample b } }
  else { c with shorts := a, slows := b }

/-- GSHORT on a slot that is not WITHHELD and allows an element (R245): the slot. -/
def threshold (r : RowSlot) (b : BitVec 512) (l : List Cand) : RowSlot :=
  let zmax := match bestCand l with | some x => x.z | none => 0
  let s := (rne32 (weightSum zmax l)).1
  let sheaf := sheafOf (shV b) l
  let sm := (rne32 (weightSum zmax (sheaf.filterMap id))).1
  let goal := (fp32.value (shThr b)).mul (fp32.value s)
  let fast := !(fp32.value (shThr b)).isNan && !goal.isNan && !FV.lt false (fp32.value sm) goal
  { r with
    st := if fast then .fast else .slow, tokv := false, rowMask := r.mask, lbase := shLbase b, v := shV b, ks := shKs b, thr := shThr b
    topp := shTopp b, shb := shShb b, row := shRow b, z := zmax, s := s, sm := sm, sheaf := sheaf, cands := [] }

/-- The flags that a GSHORT raises over its allowed elements (R245, R104). DEDUCED, log 51. -/
def Croft.shortFlags (c : Croft) (r : RowSlot) (b : BitVec 512) (l : List Cand) : Flags :=
  let f := (c.allowed r.mask (shLbase b) (shV b)).foldl (fun f p => f ||| scaleFlags (shKs b) p.2) 0
  l.foldl (fun f x => f ||| weightFlags r.z x.z) f ||| (if r.st == .slow then fSLOWROW else 0)

/-- GSHORT completes (R245, R299). A row that allows no element becomes WITHHELD, with a MASKLATE record. -/
def State.shortDone (s : State) (n : Nat) (k : GenCmd) : State × List Word64 :=
  let c := s.croft n
  let b := k.block
  let r := (c.row k.k).atStep (blkStep b)
  if r.st == .withheld then (s.setCroft n ((c.setRow k.k r).countShort false), [genReply 4 replyWh])
  else
    let l := c.rowCands r.mask (shLbase b) (shV b) (shKs b)
    if l.isEmpty then
      ((s.setCroft n ((c.setRow k.k { r with st := .withheld, tokv := false }).countShort false)).record n true
        (recordWord .masklate k.k) 0 0, [genReply 4 replyWh])
    else
      let r := threshold r b l
      let slow := r.st == .slow
      let f := c.shortFlags r b l
      let c := ((c.spWrite r.shb (r.sheaf.flatMap candBytes)).setRow k.k r).countShort slow
      (s.setCroft n (c.raise f), [genReply 4 (bit slow * 2 ^ 32 + r.sm)])

/-- GSLOW completes (R246). -/
def Croft.slowDone (c : Croft) (k : GenCmd) : Croft × List Word64 :=
  let r := c.row k.k
  let l := c.rowCands r.rowMask r.lbase r.v r.ks
  let zmax := match bestCand l with | some x => x.z | none => 0
  let keep := nucleus zmax r.topp (weightSum zmax l) (sortCands l)
  let cands := keep.take (slCap k.block)
  let c := (c.spWrite (slCbase k.block) (cands.flatMap fun x => candBytes (some x))).setRow k.k
    { r with st := .resolved, z := zmax, cands := cands }
  (c, [genReply 5 (bit (slCap k.block < keep.length) * 2 ^ 32 + cands.length)])

/-- GSAMP completes (R247, R299). -/
def Croft.sampDone (c : Croft) (k : GenCmd) (f : List Word64) : Croft × List Word64 :=
  let r := c.row k.k
  match f with
  | tok :: _ => (c.setRow k.k { r with tokv := true, token := tok.toNat }, [genReply 6 tok.toNat])
  | [] => (c.setRow k.k { r with tokv := false }, [genReply 6 replyWh])

/-- A delivered mask enters its slot (R299). -/
def Croft.maskDone (c : Croft) (k : GenCmd) : Croft :=
  match k.mask with
  | none => c
  | some m => c.setRow k.k (((c.row k.k).atStep (blkStep k.block)).deliver m)

/-- How many draft tokens a GACPT accepts (R253), from position a on; the first argument is what is left of the draft. -/
def Croft.acceptLen (c : Croft) (b : BitVec 512) : Nat → Nat → Nat
  | 0, a => a
  | n + 1, a =>
    let r := c.row (acField b 3 0 + a)
    if r.st != .withheld && r.token == acDraft b (a + 1) then c.acceptLen b n (a + 1) else a

/-- A stage after a GACPT of n drafted and a accepted tokens (R254). -/
def Stage.accept (s : Stage) (n a : Nat) : Stage :=
  let s := { s with prop := s.prop + n, acc := s.acc + a }
  let s := if 4096 ≤ s.prop then { s with prop := s.prop / 2, acc := s.acc / 2 } else s
  if 16 ≤ s.prop then { s with depth := Nat.max s.dmin (Nat.min s.dmax (s.acc * s.dmax / s.prop + 1)) } else s

/-- GACPT completes (R253). -/
def Croft.acptDone (c : Croft) (k : GenCmd) : Croft × List Word64 :=
  let b := k.block
  let n := k.k
  let a := c.acceptLen b n 0
  let r := c.row (acField b 3 0 + a)
  let held := r.st == .withheld
  let out := if held then 2 else if a == n then 0 else 1
  let f := if held then acField b 23 18 else if a == n then acField b 11 6 else acField b 17 12
  let stg := acField b 5 4
  let c := { c with staging := { c.staging with last := a, valid := true } }
  let c := if stg != 3 && !held then { c with stages := vset c.stages stg ((vget c.stages {} stg).accept n a) } else c
  (c, [genReply 3 (out * 2 ^ 36 + a * 2 ^ 32 + (if held then 0 else r.token)), BitVec.ofNat 64 f])

/-- A stage after a GDRAFT's control word (R254). -/
def Stage.control (s : Stage) (x : Nat) : Stage :=
  let s := if x / 2 ^ 28 % 2 == 1 then { s with prop := 0, acc := 0 } else s
  let s := if x / 2 ^ 26 % 2 == 1 then
      let lo := x % 16
      let hi := x / 16 % 16
      { s with dmin := lo, dmax := hi, depth := Nat.max lo (Nat.min hi s.depth) }
    else s
  if x / 2 ^ 27 % 2 == 1 then { s with depth := x / 256 % 16 } else s

/-- A stage as GDRAFT reports it (R254). -/
def Stage.report (s : Stage) (k : Nat) : Word64 :=
  genReply 7 (k * 2 ^ 48 + s.dmax * 2 ^ 44 + s.dmin * 2 ^ 40 + s.depth * 2 ^ 36 + s.prop * 2 ^ 16 + s.acc)

/-- GDRAFT completes (R254, R303). -/
def Croft.draftDone (c : Croft) (k : GenCmd) : Croft × List Word64 :=
  let s := (vget c.stages {} k.k).control k.x0
  ({ c with stages := vset c.stages k.k s }, [s.report k.k])

/-- GSTAGE completes (R255, R308). -/
def Croft.stageDone (c : Croft) (k : GenCmd) : Croft :=
  let b := k.block
  let e := 64 * stEsz b
  let g := if stReset b == 1 then { c.staging with base := stSbase b, cap := stScap b, esz := stEsz b, fill := 0, valid := false } else c.staging
  let c := c.spWrite (g.base + e * g.fill) (c.sp.readN (stSrc b) (e * stN b))
  { c with staging := { g with fill := g.fill + stN b } }

/-- What a command does at its completion: the module after it and its QR entries (R243, R299). -/
def State.genEffect (s : State) (n : Nat) (k : GenCmd) (f : List Word64) : State × List Word64 :=
  let c := s.croft n
  let on (x : Croft × List Word64) : State × List Word64 := (s.setCroft n x.1, x.2)
  match k.op with
  | 0 => on ({ c with rngseed := BitVec.ofNat 64 (blockField k.block 0 8) }, [])
  | 1 => s.shortDone n k
  | 2 => on (c.slowDone k)
  | 3 => on (c.sampDone k f)
  | 4 => on (c.maskDone k, [])
  | 5 => on (c.setRow k.k ((c.row k.k).atStep (blkStep k.block)), [])
  | 6 => on (c.acptDone k)
  | 7 => on (c.draftDone k)
  | 8 => on (c.stageDone k, [])
  | _ => on ({ c with staging := { c.staging with fill := 0, valid := false } }, [])

/-- How many QR entries a command pushes (R243). -/
def genReplies (op : Nat) : Nat := if op == 6 then 2 else if op == 1 || op == 2 || op == 3 || op == 7 then 1 else 0

/-- QR has room for a command's entries (R297). -/
def Croft.genRoom (c : Croft) (op : Nat) : Bool :=
  genReplies op == 0 || (!c.placing && c.qr.length + c.pendR + genReplies op ≤ 16)

/-- The front command completes (R242, R297): its effect, its QR entries, its arrival. -/
def State.genComplete (s : State) (n : Nat) : State :=
  let c := s.croft n
  match c.genq with
  | [] => s
  | k :: rest =>
    match k.fin with
    | none => s
    | some f =>
      if k.halt != .no || !c.genRoom k.op then s
      else
        let (s, vs) := s.genEffect n k f
        let c := s.croft n
        (s.setCroft n ((({ c with genq := rest } : Croft).pushQrG vs).arrive k.arv)).fieldsDone

/-! ### Masks and budgets (R250, R251) -/

/-- A request's mask fits its GMASK (R250): the same slot, STEP and MBASE, and no longer than MCAP. -/
def GenCmd.takes (k : GenCmd) (q : MaskReq) : Bool :=
  k.op == 4 && k.k == q.slot && blkStep k.block == q.step

/-- The last vc of a GMASK (R250). -/
def GenCmd.deadline (k : GenCmd) : Nat := k.vc + k.x0

/-- A mask reaches a GMASK (R250, R304): its bytes at MBASE, once the command has made its checks at perform (R298), then the mask. One that is
longer than MCAP, or for another buffer, is refused. -/
def Croft.deliver (c : Croft) (k : GenCmd) (q : MaskReq) : Croft :=
  if q.mbase != mkMbase k.block || mkMcap k.block < 8 * (maskDwords q.mask).length || 4096 < q.mask.length then c
  else
    let c := if k.done == 1 then c.maskWrite k q.mask else c
    { c with genq := c.genq.map fun (g : GenCmd) =>
        if g.seq == k.seq then { g with mask := some q.mask, fin := if g.done == 1 then some [] else none } else g }

/-- Drop the first mask request that meets a condition from an owner's list. -/
def State.dropMask (s : State) (o : Nat) (f : MaskReq → Bool) : State :=
  match s.owners.find o with
  | none => s
  | some w => { s with owners := s.owners.put o { w with masks := w.masks.eraseP f } }

/-- Sillu delivers the next mask of a croft (R250): held until a GMASK of its slot has been accepted, delivered to the one of its STEP by the
deadline, one that stands stopped at its fault too, and discarded otherwise. -/
def State.maskDeliver (s : State) (n : Nat) : State :=
  let c := s.croft n
  match c.owner.bind fun o => (s.owners.find o).map fun w => (o, w) with
  | none => s
  | some (o, w) =>
    let mine (q : MaskReq) : Bool := q.croft == n && c.genq.any fun k => k.op == 4 && k.k == q.slot && k.mask.isNone
    match w.masks.find? mine with
    | none => s
    | some q =>
      let s := s.dropMask o mine
      match c.genq.find? fun k => k.takes q && k.mask.isNone && c.vcNow ≤ k.deadline with
      | none => s
      | some k => s.setCroft n (c.deliver k q)

/-- MASK_DELIVERY (R250). -/
def execMaskDelivery (n : Nat) : State → Host.Outcome State Fault Refusal := event fun s => s.maskDeliver n

/-- A GMASK whose deadline has passed completes (R250, R299): its slot becomes WITHHELD, and a MASKLATE record is sent. -/
def State.maskLate (s : State) (n : Nat) : State :=
  let c := s.croft n
  match c.genq with
  | [] => s
  | k :: rest =>
    if k.op != 4 || k.done != 1 || k.fin.isSome || k.halt != .no || c.vcNow ≤ k.deadline then s
    else
      let c : Croft := { c.setRow k.k { (c.row k.k).atStep (blkStep k.block) with st := .withheld } with genq := rest }
      let s := (s.setCroft n (c.arrive k.arv)).record n true (recordWord .masklate k.k) 0 0
      let late (q : MaskReq) : Bool := q.croft == n && k.takes q
      (match c.owner with | some o => s.dropMask o late | none => s).fieldsDone

/-- MASK_DEADLINE (R250). -/
def execMaskDeadline (n : Nat) : State → Host.Outcome State Fault Refusal := event fun s => s.maskLate n

/-- An armed budget has expired (R251, R301): its vc has come, and no GSHORT of its slot issues there. -/
def Croft.budgetOver (c : Croft) (b : Budget) : Bool :=
  match c.mode with
  | .fixed => b.due ≤ c.vcNow && (b.due < c.nextVc || !c.shortNext b.slot)
  | .score => b.due < c.nextVc

/-- BUDGET at the vc at which an armed budget expires (R251). -/
def State.budgetExpire (s : State) (n : Nat) : State :=
  let c := s.croft n
  match c.budget with
  | none => s
  | some b =>
    if !c.budgetOver b || !c.canRaise then s
    else
      let f : Raised := { flt := { code := .budget, aux := b.slot }, eng := .G, pc := b.pc, seq := b.seq, async := true }
      match c.mode with
      | .fixed => s.raiseFirst n (Nat.max c.vclock b.due) f id
      | .score => s.raiseFirst n c.vclock f id

/-- BUDGET_EXPIRY (R251). -/
def execBudgetExpiry (n : Nat) : State → Host.Outcome State Fault Refusal := event fun s => s.budgetExpire n

end Sys2Proof.Machine
end

