-- ==== Sys2Proof/Machine/Plan.lean ====
section
/-! DEFINITION. Contracts and contention plans as Sillu makes and installs them (R139, R140, R143, R144), with the events of the Reeve's
rounds. -/

namespace Sys2Proof.Machine

/-! ### The plan rule (R143) -/

/-- A croft in a plan: its number, its contract, its grade. -/
structure PlanRow where
  croft : Nat
  con   : Word64
  grade : Nat
  deriving DecidableEq, Repr

/-- One rung down the ladder of a contract's families (R106). -/
def rungDown (w : Word64) (g : Nat) : Option Nat := [4, 3, 2, 1].find? fun h => h < g && onLadders w h

/-- The summed demand of a plan (R142, R143). -/
def planDemand (l : List PlanRow) : Nat := l.foldl (fun n r => n + demand r.con r.grade) 0

/-- Row r moves down before row q (R143): lower RANK, then the higher croft number. -/
def PlanRow.before (r q : PlanRow) : Bool :=
  conRank r.con < conRank q.con || (conRank r.con == conRank q.con && q.croft < r.croft)

/-- The row that moves down next: the first in that order above its FLOOR. -/
def planNext (l : List PlanRow) : Option PlanRow :=
  (l.filter fun r => conFloor r.con < r.grade).foldl
    (fun o r => match o with | none => some r | some q => if r.before q then some r else some q) none

/-- The plan rule; the first argument bounds the moves, five grades for each of four crofts. None where the floors still demand more than
128 slots. -/
def planRule : Nat → List PlanRow → Option (List PlanRow)
  | 0, _ => none
  | f + 1, l =>
    if planDemand l ≤ 128 then some l
    else match planNext l with
      | none => none
      | some r => planRule f (l.map fun q => if q.croft == r.croft then { q with grade := (rungDown q.con q.grade).getD q.grade } else q)

/-- The plan for some crofts with contracts, each starting at its CEIL. -/
def planOf (l : List (Nat × Word64)) : Option (List PlanRow) := planRule 21 (l.map fun p => ⟨p.1, p.2, conCeil p.2⟩)

/-- The crofts of a core. -/
def coreCrofts (core : Nat) : List Nat := [4 * core, 4 * core + 1, 4 * core + 2, 4 * core + 3]

/-- The crofts of a core that have a contract. -/
def State.coreContracts (s : State) (core : Nat) : List (Nat × Word64) :=
  (coreCrofts core).filterMap fun n => if (s.croft n).contract == 0 then none else some (n, (s.croft n).contract)

/-- CONTRACT for a contract request (R139). -/
def contractWord (d0 d1 : Word64) : Word64 := BitVec.ofNat 64 (bitsOf d0 21 0 + bitsOf d1 31 0 * 2 ^ 32)

/-- The cores on which an owner holds crofts. -/
def Owner.cores (w : Owner) : List Nat := dedupe (w.crofts.map (· / 4))

/-- A contract can be admitted on every croft of an owner (R140). -/
def State.planFits (s : State) (w : Owner) (con : Word64) : Bool :=
  demand con (conCeil con) ≤ conShare con
    && w.cores.all fun k =>
      (planOf ((coreCrofts k).filterMap fun n =>
        if w.crofts.contains n then some (n, con)
        else if (s.croft n).contract == 0 then none else some (n, (s.croft n).contract))).isSome

/-! ### Installing a plan (R144) -/

/-- A croft takes its row of a new plan: what falls is installed now, what rises waits for the rising plan. A change of an earlier plan
that has not been made is dropped (R145), unless the new plan names its grade too. A croft that has no share yet has no slot to run at any other grade than its plan's (R144). -/
def Croft.takePlan (c : Croft) (g sh : Nat) : Croft :=
  let c := if c.share == 0 then { c with grade := g, want := g } else { c with want := if g == c.want then g else c.grade }
  let c := { c with planSt := .installed, plan := none, rise := none, riseOn := false }
  if sh < c.share || (sh == c.share && g < c.want) then { c with plan := some (g, sh) }
  else if c.share < sh || c.want < g then { c with rise := some (g, sh) }
  else c

/-- Sillu recomputes and installs the plan of a core (R143, R144): the K-steps of the slots that have come before start at the grades in
force until now. -/
def State.installPlan (s : State) (core : Nat) : State :=
  match planOf (s.coreContracts core) with
  | none => s
  | some l => l.foldl (fun s r => s.setCroft r.croft (((s.croft r.croft).millTo s.time).takePlan r.grade (demand r.con r.grade))) s

/-- A contract is admitted on every croft of an owner (R140, R144): each enters its core's plan with a share of 0 and is not free until
its share is in force. -/
def State.admitContract (s : State) (o : Nat) (con : Word64) : State :=
  match s.owners.find o with
  | none => s
  | some w =>
    let s := { s with owners := s.owners.put o { w with contract := some con } }
    let s := w.crofts.foldl (fun s n => s.setCroft n
      { s.croft n with contract := con, share := 0, want := conCeil con, grade := conCeil con, released := false }) s
    w.cores.foldl State.installPlan s

/-- RISING_PLAN_INSTALL (R144): once no falling plan of the core is left, its rising plan stands for the next round boundary. -/
def State.installRising (s : State) (core : Nat) : State :=
  if (coreCrofts core).any fun n => (s.croft n).plan.isSome then s
  else (coreCrofts core).foldl (fun s n =>
    let c := s.croft n
    if c.rise.isSome then s.setCroft n { c with riseOn := true } else s) s

/-- RISING_PLAN_INSTALL (R144). -/
def execRisingPlanInstall (core : Nat) : State → Host.Outcome State Fault Refusal := event fun s => s.installRising core

/-! ### Rounds and nests (R125, R141, R147, R148) -/

/-- A round boundary over the crofts of the module, by number (R141): each core's shares are laid out as contiguous blocks from slot 0, croft 0's
first. `core` and `start` say where the next block begins. -/
def layRounds (t : Nat) : Nat → Nat → List (Nat × Croft) → List (Nat × Croft)
  | _, _, [] => []
  | core, start, (n, c) :: r =>
    let start := if n / 4 == core then start else 0
    let c := c.roundStart t start
    (n, c) :: layRounds t (n / 4) (start + c.share) r

/-- ROUND_BOUNDARY (R141): every Mill starts a round on the same cy, a multiple of 128; `round` counts the boundaries that have come. -/
def State.roundBoundary (s : State) : State :=
  { s with crofts := layRounds (128 * s.round) 0 0 s.crofts, round := s.round + 1 }

/-- ROUND_BOUNDARY (R141). -/
def execRoundBoundary : State → Host.Outcome State Fault Refusal := event State.roundBoundary

/-- A croft's next K-steps in the slots that have come (R125, R141). -/
def State.millStep (s : State) (n : Nat) : State :=
  s.setCroft n (((s.croft n).kstep ((s.croft n).millCy s.time)).getD (s.croft n))

/-- MILL_KSTEP (R125). -/
def execMillKstep (n : Nat) : State → Host.Outcome State Fault Refusal := event fun s => s.millStep n

/-- The landing of a croft's nest that is due, or that a breach or a replay lets land at a boundary (R147, R148, R150). -/
def Croft.nestDue (c : Croft) : Option Pending :=
  c.lands.find? fun p => p.op.isNest && p.due ≤ c.landLimit && c.mayLand p

/-- NEST_LANDING (R147). In FIXED mode results land in their order, so it waits for those before it. -/
def Croft.nestLand (c : Croft) : Croft :=
  match c.nestDue with
  | none => c
  | some p =>
    if c.mode == .score || c.lands.head? == some p then ({ c with lands := c.lands.erase p } : Croft).landDone p else c

/-- NEST_LANDING (R147). -/
def execNestLanding (n : Nat) : State → Host.Outcome State Fault Refusal := croftEvent n Croft.nestLand

/-- A nest's contracted landing vc has come at cy t, and its last step has not performed in the slots before it (R147, R148). While an ECC freeze
lasts it has not come: the freeze moves the landing by its 24 cy (R233). -/
def Croft.breached (c : Croft) (t : Nat) : Bool :=
  match c.nest with
  | none => false
  | some n =>
    !c.freeze.ecc && !n.replay && !n.breach && n.k < n.steps && (c.kstep (c.millCy t)).isNone
      && c.lands.any fun p => p.op.isNest && p.due ≤ c.landLimit

/-- NEST_BREACH (R148): the nest lands late, and Sillu gets the record. -/
def State.nestBreach (s : State) (n : Nat) : State :=
  let c := s.croft n
  if c.breached s.time then
    (s.setCroft n { c with nest := c.nest.map fun (x : Nest) => { x with breach := true } }).record n false (recordWord .breach 0xFF) 0 0
  else s

/-- NEST_BREACH (R148). -/
def execNestBreach (n : Nat) : State → Host.Outcome State Fault Refusal := event fun s => s.nestBreach n

end Sys2Proof.Machine
end

