-- ==== Sys2Proof/Machine/Message.lean ====
section
/-! DEFINITION. Boot, temperature and the service messages of Sillu (R21, R197, R260 to R270): the header and its checks, then ADMIT to
DROP, but for LOAD and LAUNCH. -/

namespace Sys2Proof.Machine

/-! ### Bytes -/

/-- n bytes of a string from offset o, least significant first (R3). -/
def byteField (b : List Byte) (o n : Nat) : Nat := leNat ((b.drop o).take n)

/-- n bytes of a string from offset o. -/
def byteSlice (b : List Byte) (o n : Nat) : List Byte := (b.drop o).take n

/-- n bytes from offset o are 0. -/
def zeroBytes (b : List Byte) (o n : Nat) : Bool := (byteSlice b o n).all (· == 0)

end Sys2Proof.Machine

namespace Sys2Proof

open Sys2Proof.Machine

/-! ### A message's header (R266) -/

/-- The payload of a message. -/
def Msg.payload (m : Msg) : List Byte := m.bytes.drop 32
/-- OP. -/
def Msg.op (m : Msg) : Nat := byteField m.bytes 0x04 2
/-- TAG. -/
def Msg.tag (m : Msg) : Word64 := BitVec.ofNat 64 (byteField m.bytes 0x08 8)
/-- SEQ. -/
def Msg.seq (m : Msg) : Nat := byteField m.bytes 0x18 8

/-- The bytes are those of a service message: a whole header with MAGIC. -/
def Msg.isService (m : Msg) : Bool := 32 ≤ m.bytes.length && byteSlice m.bytes 0 2 == [0x5A, 0x53]

/-- The header's other fields keep R266 for a request. -/
def Msg.headerOk (m : Msg) : Bool :=
  byteField m.bytes 0x02 1 == 1 && byteField m.bytes 0x03 1 == 0 && byteField m.bytes 0x06 2 == 0
    && byteField m.bytes 0x10 4 == m.payload.length && m.payload.length ≤ 0x4000000 && zeroBytes m.bytes 0x14 4

end Sys2Proof

namespace Sys2Proof.Machine

/-! ### Cryptography (R260 to R263, R268, R269) -/

/-- The private half of the device identity key, as the ROM derives it from a fused value and an info string (R262). -/
def identitySecret : List Byte := hkdf Config.fusedValue.1 Config.fusedValue.2 32

/-- The public half of the device identity key: 32 bytes (R262). -/
def identityKey : List Byte := ed25519Public identitySecret

/-- The signature under the device identity key over bytes: 64 bytes (R263). -/
def identitySign (l : List Byte) : List Byte := ed25519Sign identitySecret l

/-- A signature verifies (R94, R260, R268). -/
def signatureOk (key msg sig : List Byte) : Bool := ed25519Verify key msg sig

/-- The info string of a memory key's seal: "ZK1640 key seal" (R269). -/
def sealInfo : List Byte := [0x5A, 0x4B, 0x31, 0x36, 0x34, 0x30, 0x20, 0x6B, 0x65, 0x79, 0x20, 0x73, 0x65, 0x61, 0x6C]

/-- A memory key is unsealed (R269): X25519 with the identity key, HKDF-SHA-512 to a key and a nonce, AES-256-GCM; 64 bytes, none where the tag
fails. -/
def unsealKey (eph ct tag aad : List Byte) : Option (List Byte) :=
  let okm := hkdf (x25519 (clampScalar (sha512 identitySecret)) eph) sealInfo 44
  gcmOpen (okm.take 32) (okm.drop 32) aad ct tag

/-! ### Boot (R260, R261) -/

/-- An image keeps the header of R261. -/
def imageOk (b : List Byte) : Bool :=
  let n := byteField b 0x008 4
  byteSlice b 0 4 == [0x53, 0x49, 0x4C, 0x31] && 1 ≤ byteField b 0x004 4 && 0x100 ≤ n && n ≤ 0x4000000 && n ≤ b.length
    && zeroBytes b 0x00C 0xB4

/-- The digest of an image: SHA-512 over its signed length, with SIG taken as zero (R260, R261). -/
def imageDigest (b : List Byte) : List Byte :=
  let s := b.take (byteField b 0x008 4)
  sha512 (s.take 0x0C0 ++ List.replicate 64 0 ++ s.drop 0x100)

/-- An image's signature verifies under Norud's root key (R260). -/
def imageSigned (b : List Byte) : Bool := signatureOk (leBytes 32 Config.rootKey.toNat) (imageDigest b) (byteSlice b 0x0C0 64)

/-- The boot ROM accepts an image (R260). -/
def imageBoots (minVer : Nat) (b : List Byte) : Bool := imageOk b && imageSigned b && minVer ≤ byteField b 0x004 4

/-- BOOT (R260): the image of hall die 0's flash, else that of hall die 1's. -/
def State.bootRom (s : State) : State :=
  match s.boot with
  | .before =>
    match [s.flash0, s.flash1].find? (imageBoots s.minVer) with
    | some b => { s with boot := .running, msillu := imageDigest b }
    | none => { s with boot := .refused }
  | _ => s

/-- BOOT (R260). -/
def execBoot : State → Host.Outcome State Fault Refusal := event State.bootRom

/-! ### Temperature (R21) -/

/-- THERMAL_WARNING (R21): Sillu refuses new admissions and reports the die, with the real cy. -/
def State.warm (s : State) (die : Nat) : State := { s with hot := true }.send (.service 0x0100 die 0xFF s.time)

/-- THERMAL_WARNING (R21). -/
def execThermalWarning (die : Nat) : State → Host.Outcome State Fault Refusal := event fun s => s.warm die

/-- JUNCTION_TEMPERATURE_FALL (R21): no die is above 110 °C any longer. -/
def execJunctionTemperatureFall : State → Host.Outcome State Fault Refusal := event fun s => { s with hot := false }

/-- THERMAL_SHUTDOWN (R21): power goes from the whole module and every owner's work is lost; flash, fuses and operator keys stay. -/
def State.powerOff (s : State) : State :=
  { State.reset with power := false, flash0 := s.flash0, flash1 := s.flash1, minVer := s.minVer, opKeys := s.opKeys, agenda := s.agenda
                     me := s.me, fresh := s.fresh }

/-- THERMAL_SHUTDOWN (R21). -/
def execThermalShutdown : State → Host.Outcome State Fault Refusal := event State.powerOff

/-! ### The header (R266, R268) -/

/-- What Sillu makes of a request: the module after it, the status, the reply's payload. -/
abbrev Answer := State × Nat × List Byte

/-- A request that is refused changes nothing. -/
def refuse (s : State) (status : Nat) : Answer := (s, status, [])

/-- An endpoint's key in the table of sequence numbers: an owner's number, 128 for the management function. -/
def endpoint (fn : Option Nat) : Nat := fn.getD 128

/-- A management request's signature verifies under an operator key (R268): over the header and the payload before it. -/
def State.opSigned (s : State) (m : Msg) : Bool :=
  64 ≤ m.payload.length
    && s.opKeys.any fun k => signatureOk k (m.bytes.take (m.bytes.length - 64)) (m.bytes.drop (m.bytes.length - 64))

/-- A function has an endpoint behind it: the management function, or an admitted owner's (R264). -/
def State.hasFn (s : State) (fn : Option Nat) : Bool := match fn with | none => true | some o => (s.owners.find o).isSome

/-- A record as its 32 bytes (R227). -/
def Record.bytes (r : Record) : List Byte :=
  leBytes 8 r.codew.toNat ++ leBytes 8 r.addr.toNat ++ leBytes 2 r.croft ++ leBytes 1 r.owner ++ [0] ++ leBytes 4 r.pc ++ leBytes 8 r.vc

/-- KIND, OP, STATUS, TAG and payload of a message that Sillu sends (R266, R267). -/
def Sent.parts : Sent → Nat × Nat × Nat × Word64 × List Byte
  | .reply _ op status tag payload => (1, op, status, tag, payload)
  | .record _ r => (2, 0x0100, 0, 0, r.bytes)
  | .fieldDone _ num => (2, 0x0101, 0, 0, leBytes 8 num)
  | .service code die owner time => (2, 0x0102, 0, 0, leBytes 2 code ++ leBytes 1 die ++ leBytes 1 owner ++ leBytes 8 time ++ leBytes 4 0)

/-- A message that Sillu sends, as bytes (R266). An event's TAG is 0 (DESIGN CHOICE, log 104). -/
def Sent.bytes (m : Sent) (seq : Nat) : List Byte :=
  let (kind, op, status, tag, payload) := m.parts
  [0x5A, 0x53, 1, BitVec.ofNat 8 kind] ++ leBytes 2 op ++ leBytes 2 status ++ leBytes 8 tag.toNat ++ leBytes 4 payload.length ++ leBytes 4 0
    ++ leBytes 8 seq ++ payload

/-- Who may send a request: operators, owners, or both (R267). -/
inductive From where
  | operator | owner | both
  deriving DecidableEq, Repr

/-- Whether a function may carry a request. -/
def From.allows (f : From) (fn : Option Nat) : Bool :=
  match f, fn with
  | .both, _ => true
  | .operator, none => true
  | .owner, some _ => true
  | _, _ => false

/-- The codes of the requests (R267). -/
def requestOps : List Nat := [0x0001, 0x0002, 0x0003, 0x0004, 0x0005, 0x0010, 0x0011, 0x0012, 0x0020, 0x0021, 0x0030, 0x0031, 0x0032]

/-- Answer a message: none where the reply is sent later. -/
def State.answer (m : Msg) (status : Nat) (payload : List Byte) (s : State) : State := s.send (.reply m.fn m.op status m.tag payload)

/-- What comes before a request's own work (R266, R268): sequence, header, endpoint, signature. A code that is no request's is a header field out
of range; one of another request is not this one's. The reply is left to the caller where it is `none`. -/
def State.receive (s : State) (m : Msg) (op : Nat) (who : From) (body : List Byte → State → State × Option (Nat × List Byte)) : State :=
  if s.boot != .running || !s.hasFn m.fn || !m.isService || (m.op != op && requestOps.contains m.op) then s
  else
    let next := s.seqs.get 0 (endpoint m.fn)
    if m.seq != next then s.answer m 2 []
    else
      let s := { s with seqs := s.seqs.put (endpoint m.fn) (next + 1) }
      if !m.headerOk || m.op != op then s.answer m 1 []
      else if !who.allows m.fn then s.answer m 3 []
      else if m.fn.isNone && !s.opSigned m then s.answer m 3 []
      else
        let p := if m.fn.isNone then m.payload.take (m.payload.length - 64) else m.payload
        match body p s with
        | (s, some (status, out)) => s.answer m status out
        | (s, none) => s

/-- A request whose reply is sent at once. -/
def State.request (s : State) (m : Msg) (op : Nat) (who : From) (body : List Byte → State → Answer) : State :=
  s.receive m op who fun p s => let r := body p s; (r.1, some (r.2.1, r.2.2))

/-- A request of an owner. -/
def State.ownerRequest (s : State) (m : Msg) (op : Nat) (body : Nat → Owner → List Byte → State → Answer) : State :=
  s.request m op .owner fun p s =>
    match m.fn.bind fun o => (s.owners.find o).map fun w => (o, w) with
    | some (o, w) => body o w p s
    | none => refuse s 3

/-- Replace an owner. -/
def State.setOwner (s : State) (o : Nat) (w : Owner) : State := { s with owners := s.owners.put o w }

/-! ### ADMIT (R19, R22, R23, R193, R265, R269) -/

/-- The crofts of an admission record. -/
def admCrofts (p : List Byte) : List Nat := (List.range 1024).filter fun n => (byteField p (0x008 + n / 8) 1).testBit (n % 8)

/-- RES of a stack. -/
def admRes (p : List Byte) (st : Nat) : Nat := byteField p (0x090 + 4 * st) 4

/-- An admission record keeps R269. -/
def admOk (p : List Byte) : Bool :=
  p.length == 0x180 && (byteField p 0 1 ≤ 127 || byteField p 0 1 == 0xFF) && zeroBytes p 1 7
    && byteField p 0x088 8 % 8192 == 0 && byteField p 0x0D0 8 % 8192 == 0 && byteField p 0x0D8 8 % 8192 == 0
    && byteField p 0x0D0 8 < 2 ^ 53 && byteField p 0x0D0 8 + byteField p 0x0D8 8 ≤ 2 ^ 53
    && byteField p 0x0E0 1 ≤ 1 && zeroBytes p 0x0E1 7 && (byteField p 0x0E0 1 == 1 || zeroBytes p 0x0E8 32) && zeroBytes p 0x178 8

/-- The owner number of a record: the one it names, or the lowest free. -/
def State.admOwner (s : State) (p : List Byte) : Option Nat :=
  let o := byteField p 0 1
  if o == 0xFF then (List.range 128).find? fun k => (s.owners.find k).isNone
  else if (s.owners.find o).isNone then some o else none

/-- The first item of a record that is refused, as its byte offset (R268), in the order of the record. -/
def State.admRefused (s : State) (p : List Byte) : Option Nat :=
  let space := s.owners.foldl (fun n w => n + w.2.space) 0
  if s.hot || (s.admOwner p).isNone then some 0
  else if (admCrofts p).any fun n => (s.croft n).owner.isSome then some 0x008
  else if !s.lanesFor (linksOf (admCrofts p) ((List.range 16).filter fun st => 0 < admRes p st)) then some 0x008
  else if 2 ^ 41 < space + byteField p 0x088 8 then some 0x088
  else ((List.range 16).find? fun st => 2 ^ 29 < admRes p st + s.owners.foldl (fun n w => n + vget w.2.res 0 st) 0).map fun st => 0x090 + 4 * st

/-- The owner that a record admits. -/
def admittedOwner (p : List Byte) (key : List Byte) : Owner :=
  { crofts := admCrofts p, space := byteField p 0x088 8, res := Vector.ofFn fun i => admRes p i.val
    ftbase := byteField p 0x0D0 8, ftlen := byteField p 0x0D8 8
    signKey := if byteField p 0x0E0 1 == 1 then some (byteSlice p 0x0E8 32) else none, memKey := key }

/-- A croft passes to a new owner, or to none (R23): it is zeroed, and accepts nothing until the zeroing completes. -/
def State.zeroCroft (s : State) (n : Nat) (o : Option Nat) : State := s.setCroft n { Croft.reset with owner := o, zeroing := true }

/-- ADMIT (R265): everything is granted, or nothing. -/
def State.admitOp (p : List Byte) (s : State) : Answer :=
  if !admOk p then refuse s 1
  else match unsealKey (byteSlice p 0x108 32) (byteSlice p 0x128 64) (byteSlice p 0x168 16) (p.take 0x108) with
    | none => refuse s 1
    | some key =>
      match s.admRefused p, s.admOwner p with
      | none, some o =>
        let s := (admCrofts p).foldl (fun s n => s.zeroCroft n (some o)) s
        ({ s.setOwner o (admittedOwner p key) with seqs := s.seqs.put o 0, outSeqs := s.outSeqs.put o 0 }, 0, leBytes 8 o)
      | some off, _ => (s, 4, leBytes 8 off)
      | none, none => (s, 4, leBytes 8 0)

/-- ADMIT (R265). -/
def execAdmit (m : Msg) : State → Host.Outcome State Fault Refusal := event fun s => s.request m 0x0001 .operator State.admitOp

/-- ZEROING_COMPLETE (R23). -/
def execZeroingComplete (n : Nat) : State → Host.Outcome State Fault Refusal := croftEvent n fun c => { c with zeroing := false }

/-! ### REVOKE (R197) -/

/-- An owner's sectors return to the pool (R197): its pages are lost with its key. -/
def State.reclaim (s : State) (o : Nat) : State :=
  let rs := s.ownerRanges o
  let gone (h : Nat) : Bool := rs.any fun r => r.1 ≤ h && h < r.1 + r.2
  { s with
    hbm := s.hbm.filter fun c => !gone (c.1 / 8192)
    hbmPoison := s.hbmPoison.filter fun u => !gone (u / 128)
    granaries := Vector.ofFn fun i =>
      let k := vget s.granaries {} i.val
      { k with slow := k.slow.filter fun p => !gone (i.val * 2 ^ 24 + p), order := k.order.filter fun x => !gone (i.val * 2 ^ 24 + x.1) } }

/-- REVOKE (R197), in the order of its steps, then the owner's function is reset (R264) and its crofts leave their cores' plans (R143). -/
def State.revokeOwner (s : State) (o : Nat) (w : Owner) : State :=
  let s := w.crofts.foldl (fun s n => s.zeroCroft n none) s
  let s := (s.flushOwner o).reclaim o
  let s := { s with
    owners := s.owners.del o
    launches := s.launches.filter fun (l : Launch) => l.owner != o
    holds := s.holds.filter fun n => !w.crofts.contains n
    coll := s.coll.filter fun (g : Nat × Nat × List (Nat × Nat)) => g.1 != o
    peers := s.peers.filter fun p => p.2.owner != o
    saved := s.saved.filter fun (p : Nat × Saved) => p.2.owner != o
    spilled := s.spilled.filter fun (p : Spilled) => p.owner != o
    seqs := s.seqs.del o, outSeqs := s.outSeqs.del o }
  w.cores.foldl State.installPlan s

/-- REVOKE's request (R267). -/
def State.revokeOp (p : List Byte) (s : State) : Answer :=
  if p.length != 8 || 127 < byteField p 0 1 || !zeroBytes p 1 7 then refuse s 1
  else match s.owners.find (byteField p 0 1) with
    | none => refuse s 7
    | some w => (s.revokeOwner (byteField p 0 1) w, 0, [])

/-- REVOKE (R197). -/
def execRevoke (m : Msg) : State → Host.Outcome State Fault Refusal := event fun s => s.request m 0x0002 .operator State.revokeOp

/-! ### OPKEY, IMAGE, FLOOR (R267, R268) -/

/-- OPKEY (R267, R268): the last key is not removed. -/
def State.opkeyOp (p : List Byte) (s : State) : Answer :=
  let k := p.take 32
  if p.length != 40 || 1 < byteField p 32 1 || !zeroBytes p 33 7 then refuse s 1
  else if byteField p 32 1 == 1 then ({ s with opKeys := if s.opKeys.contains k then s.opKeys else s.opKeys ++ [k] }, 0, [])
  else if !s.opKeys.contains k || (s.opKeys.filter (· != k)).isEmpty then refuse s 7
  else ({ s with opKeys := s.opKeys.filter (· != k) }, 0, [])

/-- OPKEY (R268). -/
def execOpkey (m : Msg) : State → Host.Outcome State Fault Refusal := event fun s => s.request m 0x0003 .operator State.opkeyOp

/-- IMAGE (R267): an image that R260 would refuse is not written. -/
def State.imageOp (p : List Byte) (s : State) : Answer :=
  if !imageOk p then refuse s 1
  else if !imageSigned p || byteField p 0x004 4 < s.minVer then refuse s 3
  else ({ s with flash0 := p, flash1 := p }, 0, [])

/-- IMAGE (R267). -/
def execImage (m : Msg) : State → Host.Outcome State Fault Refusal := event fun s => s.request m 0x0004 .operator State.imageOp

/-- FLOOR (R267): the fused minimum version rises and never falls. -/
def State.floorOp (p : List Byte) (s : State) : Answer :=
  if p.length != 8 || !zeroBytes p 4 4 then refuse s 1
  else ({ s with minVer := Nat.max s.minVer (byteField p 0 4) }, 0, [])

/-- FLOOR (R267). -/
def execFloor (m : Msg) : State → Host.Outcome State Fault Refusal := event fun s => s.request m 0x0005 .operator State.floorOp

/-! ### QUOTE, CERT (R262, R263) -/

/-- The signed part of a quote (R263). -/
def State.quoteBody (s : State) (o : Nat) (w : Owner) (nonce : List Byte) : List Byte :=
  let l := w.objects.take 255
  nonce ++ s.msillu ++ leBytes 1 o ++ leBytes 1 l.length ++ List.replicate 6 0 ++ l.flatMap (·.1)

/-- QUOTE (R263). -/
def State.quoteOp (o : Nat) (w : Owner) (p : List Byte) (s : State) : Answer :=
  if p.length != 32 then refuse s 1
  else
    let b := s.quoteBody o w p
    (s, 0, b ++ identitySign b)

/-- QUOTE (R263). -/
def execQuote (m : Msg) : State → Host.Outcome State Fault Refusal := event fun s => s.ownerRequest m 0x0020 State.quoteOp

/-- CERT (R262). -/
def State.certOp (p : List Byte) (s : State) : Answer :=
  if p.isEmpty then (s, 0, identityKey ++ leBytes 64 Config.identityCert.toNat) else refuse s 1

/-- CERT (R262). -/
def execCert (m : Msg) : State → Host.Outcome State Fault Refusal := event fun s => s.request m 0x0021 .both State.certOp

/-! ### UNLOAD (R267) -/

/-- A field of an overlay is launched and not done. -/
def State.overlayBusy (s : State) (o h : Nat) : Bool := s.launches.any fun l => l.owner == o && l.handle == h && !l.told

/-- The overlay handle in a field record's header (R25). -/
def recHandle (r : List Byte) : Nat := byteField r 6 2

/-- UNLOAD (R267): an object none of whose overlays is loaded any longer is no longer quoted. -/
def State.unloadOp (o : Nat) (w : Owner) (p : List Byte) (s : State) : Answer :=
  let h := byteField p 0 2
  if p.length != 8 || !zeroBytes p 2 6 then refuse s 1
  else if (w.overlays.find h).isNone || s.overlayBusy o h then refuse s 7
  else
    let objs := (w.objects.map fun x => (x.1, x.2.filter (· != h), x.2.contains h)).filter fun x => !(x.2.2 && x.2.1.isEmpty)
    (s.setOwner o { w with overlays := w.overlays.del h, fields := w.fields.filter fun f => recHandle f.2 != h
                           objects := objs.map fun x => (x.1, x.2.1) }, 0, [])

/-- UNLOAD (R267). -/
def execUnload (m : Msg) : State → Host.Outcome State Fault Refusal := event fun s => s.ownerRequest m 0x0012 State.unloadOp

/-! ### GRAMMAR, CONTEXT, DROP (R267, R270) -/

/-- Transitions stand in order, do not overlap, and stay in range (R270). -/
def transOk (v nstates : Nat) : Option Nat → List (Nat × Nat × Nat) → Bool
  | _, [] => true
  | prev, (first, last, next) :: r =>
    (match prev with | none => true | some q => q < first) && first ≤ last && last < v && next < nstates && transOk v nstates (some last) r

/-- A token automaton: none where it breaks R270, which speaks of the transitions of one state: those of no state are not judged, and two states may
share some (DEDUCED, log 114). -/
def grammarOf (p : List Byte) : Option Grammar :=
  let ns := byteField p 0 4
  let v := byteField p 4 4
  let start := byteField p 8 4
  let nt := byteField p 12 4
  if 16 ≤ p.length && 1 ≤ ns && ns ≤ 2 ^ 20 && 1 ≤ v && v ≤ 262144 && start < ns && 1 ≤ nt && nt ≤ 2 ^ 24
      && p.length == 16 + 8 * ns + 12 * nt then
    let ix := (chunks 8 ns (byteSlice p 16 (8 * ns))).map fun b => (byteField b 0 4, byteField b 4 4)
    let tr := (chunks 12 nt (p.drop (16 + 8 * ns))).map fun b => (byteField b 0 4, byteField b 4 4, byteField b 8 4)
    let states := ix.map fun x => (tr.drop x.1).take x.2
    if ix.all (fun x => x.1 + x.2 ≤ nt) && states.all (transOk v ns none) then some ⟨v, start, states⟩ else none
  else none

/-- The mask of a state over a vocabulary of v tokens, from token t on (R270). -/
def stateMask (v t : Nat) : List (Nat × Nat × Nat) → Mask
  | [] => if t < v then [(false, v - t)] else []
  | (first, last, _) :: r => (if t < first then [(false, first - t)] else []) ++ (true, last + 1 - first) :: stateMask v (last + 1) r

/-- Join neighbouring runs of a mask. -/
def joinMask : Mask → Mask
  | [] => []
  | (b, n) :: r =>
    match joinMask r with
    | (b', n') :: r' => if b == b' then (b, n + n') :: r' else (b, n) :: (b', n') :: r'
    | [] => [(b, n)]

/-- The mask of a context's state; a dead state allows nothing (R270). -/
def Grammar.mask (g : Grammar) (st : Option Nat) : Mask :=
  match st with
  | none => [(false, g.v)]
  | some k => joinMask (stateMask g.v 0 (g.states.getD k []))

/-- A state after a token (R270). -/
def Grammar.advance (g : Grammar) (st : Option Nat) (tok : Nat) : Option Nat :=
  match st with
  | none => none
  | some k => ((g.states.getD k []).find? fun t => t.1 ≤ tok && tok ≤ t.2.1).map fun t => t.2.2

/-- GRAMMAR (R267, R270). -/
def State.grammarOp (o : Nat) (w : Owner) (p : List Byte) (s : State) : Answer :=
  match grammarOf p with
  | none => refuse s 8
  | some g =>
    let h := s.nextHandle
    ({ s.setOwner o { w with grammars := w.grammars.put h g } with nextHandle := h + 1 }, 0, leBytes 8 h)

/-- GRAMMAR (R270). -/
def execGrammar (m : Msg) : State → Host.Outcome State Fault Refusal := event fun s => s.ownerRequest m 0x0030 State.grammarOp

/-- CONTEXT (R267). -/
def State.contextOp (o : Nat) (w : Owner) (p : List Byte) (s : State) : Answer :=
  if p.length != 8 then refuse s 1
  else match w.grammars.find (byteField p 0 8) with
    | none => refuse s 7
    | some g =>
      let h := s.nextHandle
      ({ s.setOwner o { w with contexts := w.contexts.put h ⟨byteField p 0 8, some g.start⟩ } with nextHandle := h + 1 }, 0, leBytes 8 h)

/-- CONTEXT (R267). -/
def execContext (m : Msg) : State → Host.Outcome State Fault Refusal := event fun s => s.ownerRequest m 0x0031 State.contextOp

/-- DROP (R267): a grammar that a context still uses is in use. -/
def State.dropOp (o : Nat) (w : Owner) (p : List Byte) (s : State) : Answer :=
  let h := byteField p 0 8
  if p.length != 8 then refuse s 1
  else if (w.contexts.find h).isSome then (s.setOwner o { w with contexts := w.contexts.del h }, 0, [])
  else if (w.grammars.find h).isNone || w.contexts.any (fun c => c.2.grammar == h) then refuse s 7
  else (s.setOwner o { w with grammars := w.grammars.del h }, 0, [])

/-- DROP (R267). -/
def execDrop (m : Msg) : State → Host.Outcome State Fault Refusal := event fun s => s.ownerRequest m 0x0032 State.dropOp

/-! ### UNSUPPORTED_PACKET (R264) -/

/-- UNSUPPORTED_PACKET (R264): dropped and counted. With every port down nothing arrives (R260). -/
def State.dropPacket (s : State) : State := if s.boot == .running then { s with dropped := s.dropped + 1 } else s

/-- UNSUPPORTED_PACKET (R264). -/
def execUnsupportedPacket : State → Host.Outcome State Fault Refusal := event State.dropPacket

end Sys2Proof.Machine
end

