-- ==== Sys2Proof/Machine/Loader.lean ====
section
/-! DEFINITION. Sillu's loader (R51, R86 to R95, R140, R373): the parts of a loadable object, its checks in order, and what an accepted
object leaves. -/

namespace Sys2Proof.Machine

/-! ### The parts of an object (R86 to R89) -/

/-- A section entry (R87). -/
structure Sect where
  name : Nat
  kind : Nat
  attr : Nat
  addr : Nat
  off  : Nat
  size : Nat
  link : Nat
  deriving DecidableEq, Repr

/-- A symbol entry (R88). -/
structure Symb where
  name : Nat
  sect : Nat
  bind : Nat
  type : Nat
  value : Nat
  deriving DecidableEq, Repr

/-- A relocation entry (R89). -/
structure Reloc where
  sect : Nat
  type : Nat
  off  : Nat
  sym  : Nat
  add  : Int
  deriving DecidableEq, Repr

/-- The section entry at an offset of the file. -/
def sectAt (b : List Byte) (o : Nat) : Sect :=
  ⟨byteField b o 4, byteField b (o + 4) 1, byteField b (o + 5) 1, byteField b (o + 8) 8, byteField b (o + 16) 4, byteField b (o + 20) 4,
    byteField b (o + 24) 4⟩

/-- The section entries of an object. -/
def objSects (b : List Byte) : List Sect := (List.range (byteField b 0x08 4)).map fun i => sectAt b (byteField b 0x0C 4 + 32 * i)

/-- The symbol entries of an object. -/
def objSyms (b : List Byte) : List Symb :=
  (List.range (byteField b 0x10 4)).map fun i =>
    let o := byteField b 0x14 4 + 16 * i
    ⟨byteField b o 4, byteField b (o + 4) 2, byteField b (o + 6) 1, byteField b (o + 7) 1, byteField b (o + 8) 8⟩

/-- The relocation entries of an object. -/
def objRelocs (b : List Byte) : List Reloc :=
  (List.range (byteField b 0x20 4)).map fun i =>
    let o := byteField b 0x24 4 + 16 * i
    ⟨byteField b o 2, byteField b (o + 2) 1, byteField b (o + 4) 4, byteField b (o + 8) 4, signedOf 32 (byteField b (o + 12) 4)⟩

/-- The contents of a section. -/
def Sect.bytes (x : Sect) (b : List Byte) : List Byte := byteSlice b x.off x.size

/-- The NUL-terminated name at an offset of the string table. -/
def objName (b : List Byte) (n : Nat) : List Byte :=
  (byteSlice b (byteField b 0x18 4 + n) (byteField b 0x1C 4 - n)).takeWhile (· != 0)

/-- A section of a kind. -/
def Sect.isCode (x : Sect) : Bool := x.kind == 1
/-- A program header's section. -/
def Sect.isHeader (x : Sect) : Bool := x.kind == 2
/-- A DATA section. -/
def Sect.isData (x : Sect) : Bool := x.kind == 3
/-- A FIELD section. -/
def Sect.isField (x : Sect) : Bool := x.kind == 4

/-- The instruction words of a CODE section (R3). -/
def codeWords (l : List Byte) : List Nat := (chunks 4 (l.length / 4) l).map leNat

/-- The first index and refusal of a list of checks. -/
def firstBad {α : Type} (code : Nat) (ok : Nat → α → Bool) (l : List α) : Option (Nat × Nat) :=
  ((indexed l).find? fun p => !ok p.1 p.2).map fun p => (code, p.1)

/-! ### 0x01 to 0x04 (R86 to R90, R94) -/

/-- A table of n entries lies inside the file at a multiple of 8: one that does not is refused with 0x01 (DESIGN CHOICE, log 105). -/
def tableIn (len off n size : Nat) : Bool := off % 8 == 0 && off + n * size ≤ len

/-- SIGOFF is the signature's place where SIGNED is set, else one of the two values of R86, which need be no multiple of 8 (DESIGN CHOICE, log 105). -/
def sigoffOk (n flags off : Nat) : Bool := off == n - 64 || (flags < 2 && off == 0)

/-- The file header keeps R86. -/
def fileHeaderOk (b : List Byte) : Bool :=
  let n := b.length
  let flags := byteField b 0x06 2
  64 ≤ n && byteSlice b 0 4 == [0x46, 0x59, 0x4F, 0x31] && byteField b 4 2 == 1 && flags % 2 == 1 && flags < 4
    && 1 ≤ byteField b 0x08 4 && byteField b 0x08 4 ≤ 4096
    && tableIn n (byteField b 0x0C 4) (byteField b 0x08 4) 32 && tableIn n (byteField b 0x14 4) (byteField b 0x10 4) 16
    && tableIn n (byteField b 0x18 4) (byteField b 0x1C 4) 1 && tableIn n (byteField b 0x24 4) (byteField b 0x20 4) 16
    && sigoffOk n flags (byteField b 0x30 4) && (flags < 2 || (128 ≤ n && n % 8 == 0)) && zeroBytes b 0x34 12

/-- A section entry keeps R87 and lies inside the file; a value out of R87's range is refused as a reserved one is (DESIGN CHOICE, log 105). -/
def sectOk (b : List Byte) (i : Nat) (x : Sect) : Bool :=
  let o := byteField b 0x0C 4 + 32 * i
  1 ≤ x.kind && x.kind ≤ 4 && zeroBytes b (o + 6) 2 && zeroBytes b (o + 28) 4 && tableIn b.length x.off x.size 1
    && (if x.isData then x.attr < 64 && x.attr / 16 ≤ 2 else x.attr == 0 && x.addr == 0)
    && (x.isHeader || x.link == 0)

/-- A relocation's place is the header of a field record, and its symbol an overlay (R89, R90); another place, or a symbol of no CODE section, is
refused as another symbol is (DESIGN CHOICE, log 105). -/
def relocOk (b : List Byte) (r : Reloc) : Bool :=
  r.type == 4
    && (match (objSyms b)[r.sym]? with
        | some y => y.type == 5 && ((objSects b)[y.sect]?.map Sect.isCode).getD false
        | none => false)
    && (match (objSects b)[r.sect]? with | some x => x.isField && r.off % 64 == 0 && r.off + 64 ≤ x.size | none => false)

/-- SIGNED is set. -/
def objSigned (b : List Byte) : Bool := 2 ≤ byteField b 0x06 2

/-- The signature keeps R94. -/
def signOk (b : List Byte) (key : Option (List Byte)) : Bool :=
  match key, objSigned b with
  | none, false => true
  | none, true => false
  | some _, false => false
  | some k, true => signatureOk k (b.take (b.length - 64)) (b.drop (b.length - 64))

/-! ### Program headers (R91 to R93) -/

/-- A contract request keeps R92. -/
def requestOk (d0 d1 : Word64) : Bool :=
  let w := contractWord d0 d1
  bitsOf d0 63 22 == 0 && bitsOf d1 63 32 == 0 && 1 ≤ conShare w && conShare w ≤ 128 && 1 ≤ conKsteps w && 1 ≤ conLat w
    && onLadders w (conFloor w) && onLadders w (conCeil w) && conFloor w ≤ conCeil w

/-- The two dwords of a header's contract request. -/
def hdrRequest (h : List Byte) : Word64 × Word64 := (BitVec.ofNat 64 (byteField h 0x10 8), BitVec.ofNat 64 (byteField h 0x18 8))

/-- A CODE section holds an M word (R140). -/
def hasMword (ws : List Nat) : Bool := ws.any fun w => w / 2 ^ 29 == 3
/-- A CODE section holds a BAR word (R282). -/
def hasBar (ws : List Nat) : Bool := ws.any fun w => w / 2 ^ 29 == 1 && w / 2 ^ 17 % 64 == 0x30

/-- The fragment tables of a header from n tables' bytes (R91): table number and entries, and the bytes left. A table's pad bytes are not read
(DESIGN CHOICE, log 105). -/
def hdrFrags : Nat → List Byte → Option (List (Nat × List Nat) × List Byte)
  | 0, b => some ([], b)
  | n + 1, b =>
    let count := byteField b 1 1
    let size := (2 + 2 * count + 3) / 4 * 4
    if b.length < size then none
    else (hdrFrags n (b.drop size)).map fun r => ((byteField b 0 1, (List.range count).map fun i => byteField b (2 + 2 * i) 2) :: r.1, r.2)

/-- The edge records of a header. -/
def hdrEdges (h : List Byte) : List (Nat × Nat) :=
  (List.range (byteField h 0x120 2)).map fun i => (byteField h (0x128 + 4 * i) 2, byteField h (0x12A + 4 * i) 2)

/-- The bytes after a header's edge records. -/
def hdrTail (h : List Byte) : List Byte := h.drop (0x128 + 4 * byteField h 0x120 2)

/-- The fragment tables of a header that keeps R91. -/
def hdrFragTables (h : List Byte) : List (Nat × List Nat) := match hdrFrags (byteField h 0x122 2) (hdrTail h) with | some r => r.1 | none => []

/-- A header's fields keep R91; zero bytes after its tables may be more than its padding needs (DESIGN CHOICE, log 105). -/
def hdrOk91 (h : List Byte) : Bool :=
  let tok := byteField h 8 8
  0x128 ≤ h.length && h.length % 4 == 0 && byteField h 2 1 ≤ 1 && byteField h 3 1 < 64 && zeroBytes h 4 4
    && tok < 2 ^ 36 && ((List.range 6).all fun k => !tok.testBit (7 * k))
    && byteField h 0x120 2 ≤ 4096 && byteField h 0x122 2 ≤ 128 && zeroBytes h 0x124 4
    && 0x128 + 4 * byteField h 0x120 2 ≤ h.length
    && (match hdrFrags (byteField h 0x122 2) (hdrTail h) with | some r => r.2.all (· == 0) | none => false)

/-- The contract request of an overlay's header agrees with its words (R91, R92, R95). -/
def hdrContractOk (h : List Byte) (ws : List Nat) : Bool :=
  let r := hdrRequest h
  if hasMword ws then requestOk r.1 r.2 else r.1 == 0 && r.2 == 0

/-- The templates' descriptors of a header: A, M, X, G. -/
def hdrHedge (h : List Byte) : List Word64 := (List.range 32).map fun i => BitVec.ofNat 64 (byteField h (0x20 + 8 * i) 8)

/-- The templates keep R93, and no two conflict under R49. -/
def hedgeOk (ds : List Word64) : Bool :=
  let ps := (List.range 4).map fun j => phaseOfDescs ((ds.drop (8 * j)).take 8)
  ps.all Option.isSome &&
    let qs := indexed (ps.filterMap id)
    qs.all fun p => qs.all fun q => p.1 == q.1 || (sharedByte p.2.writes (q.2.reads ++ q.2.writes)).isNone

/-! ### The wait graph (R51) -/

/-- An instruction word that carries a wait or signal code: its index and word. -/
def graphNodes (ws : List Nat) : List (Nat × Nat) :=
  (indexed ws).filter fun p => 1 ≤ p.2 / 2 ^ 29 && p.2 / 2 ^ 29 ≤ 6 && p.2 / 2 ^ 23 % 64 != 0

/-- The engine field of a word. -/
def wordEng (w : Nat) : Nat := w / 2 ^ 29
/-- The wait field of a word. -/
def wordWait (w : Nat) : Nat := w / 2 ^ 26 % 8
/-- The signal field of a word. -/
def wordSig (w : Nat) : Nat := w / 2 ^ 23 % 8

/-- Each node with the next one of its engine. -/
def streamEdges : List (Nat × Nat) → List (Nat × Nat)
  | [] => []
  | p :: r =>
    match r.find? fun q => wordEng q.2 == wordEng p.2 with
    | some q => (p.1, q.1) :: streamEdges r
    | none => streamEdges r

/-- A declared edge joins a push to a pop of the engines that their words name. -/
def edgeOk (ns : List (Nat × Nat)) (e : Nat × Nat) : Bool :=
  match ns.find? fun p => p.1 == e.1, ns.find? fun p => p.1 == e.2 with
  | some p, some q => wordSig p.2 == wordEng q.2 && wordWait q.2 == wordEng p.2
  | _, _ => false

/-- Take away the nodes that no node left leads to, as often as there are nodes; what is left lies on a cycle. -/
def peel (es : List (Nat × Nat)) : Nat → List Nat → List Nat
  | 0, l => l
  | n + 1, l => peel es n (l.filter fun x => es.any fun e => e.2 == x && l.contains e.1)

/-- A field names a token FIFO of another engine (R37, R38). -/
def namesFifo (eng f : Nat) : Bool := 1 ≤ f && f ≤ 6 && f != eng

/-- The wait graph of an overlay keeps R51. -/
def graphOk (ws : List Nat) (es : List (Nat × Nat)) : Bool :=
  let ns := graphNodes ws
  es.all (edgeOk ns)
    && ns.all (fun p => !namesFifo (wordEng p.2) (wordWait p.2) || es.any fun e => e.2 == p.1)
    && ns.all (fun p => !namesFifo (wordEng p.2) (wordSig p.2) || es.any fun e => e.1 == p.1)
    && (peel (streamEdges ns ++ es) ns.length (ns.map (·.1))).isEmpty

/-- The fragment tables keep R91 for an overlay of n words; a table number above 127 is refused with them (DESIGN CHOICE, log 105). -/
def fragsOk (n : Nat) (fs : List (Nat × List Nat)) : Bool :=
  fs.all (fun f => f.1 ≤ 127 && 1 ≤ f.2.length && f.2.length ≤ 64 && f.2.all (· < n))
    && (dedupe (fs.map (·.1))).length == fs.length

/-! ### Field records (R25 to R27) -/

/-- The launch-relevant fields of a field record: RANK, DIES, ARG, levels. -/
def recLevels (r : List Byte) : List Level :=
  (List.range 6).map fun i =>
    let d := byteField r (0x10 + 8 * i) 8
    ⟨d / 2 ^ 62, d % 65536 + 1⟩

/-- The dies of a record, in rising order. -/
def recDies (r : List Byte) : List Nat := (List.range 16).filter fun k => (byteField r 2 2).testBit k

/-- The product of the counts of a kind of level. -/
def kindCount (k : Nat) (l : List Level) : Nat := (l.filter fun x => x.kind == k).foldl (fun n x => n * x.count) 1

/-- A record keeps R25 to R27 but for its last condition. -/
def recOk (r : List Byte) : Bool :=
  let ls := recLevels r
  r.length == 64 && byteField r 0 2 == 0 && byteField r 4 2 % 2 ^ 12 == 0 && byteField r 2 2 != 0 && byteField r 8 8 < 2 ^ 53
    && ((List.range 6).all fun i => byteField r (0x12 + 8 * i) 6 % 2 ^ 46 == 0)
    && ls.all (fun x => x.kind != 0 || x.count == 1)
    && ls.foldl (fun n x => n * x.count) 1 ≤ 2 ^ 32
    && kindCount 3 ls ≤ (recDies r).length

/-- How many crofts an owner holds on a die. -/
def Owner.onDie (w : Owner) (die : Nat) : Nat := (w.crofts.filter fun n => n / 64 == die).length

/-- The owner holds a croft on every die to which the record sends a furrow (R27, R28). -/
def recPlaced (w : Owner) (r : List Byte) : Bool := ((recDies r).take (kindCount 3 (recLevels r))).all fun d => 0 < w.onDie d

/-- The records of a FIELD section. -/
def fieldRecords (l : List Byte) : List (List Byte) := chunks 64 (ceilDiv l.length 64) l

/-! ### DATA sections (R82, R87, R95, R373) -/

/-- The page size of a DATA section in bytes. -/
def Sect.pageSize (x : Sect) : Nat := if x.attr / 16 % 4 == 0 then 2 ^ 13 else if x.attr / 16 % 4 == 1 then 2 ^ 23 else 2 ^ 33

/-- The walk level of a DATA section's leaves (R186). -/
def Sect.level (x : Sect) : Nat := 4 - x.attr / 16 % 4

/-- The bytes of the pages that a DATA section maps. -/
def Sect.span (x : Sect) : Nat := ceilDiv x.size x.pageSize * x.pageSize

/-- The ranges of an owner's mapped pages, those spilled to a peer package among them. -/
def State.mappedRanges (s : State) (o : Nat) : List (Nat × Nat) :=
  ((s.leaves o).map fun m => (m.va, spanAt m.level)) ++ (s.spilled.filter fun p => p.owner == o).flatMap fun p => p.maps.map fun x => (x.1, 8192)

/-- Check DATA sections in order: aligned, inside the space granted, on pages that nothing maps. One whose pages end past 2^53 is refused with 0x0A too
(DESIGN CHOICE, log 105). -/
def dataOk : Nat → Nat → List (Nat × Nat) → List (Nat × Sect) → Option (Nat × Nat)
  | _, _, _, [] => none
  | used, space, ranges, (i, x) :: r =>
    if x.addr % x.pageSize != 0 || 2 ^ 53 < x.addr + x.span || space < used + x.span
        || ranges.any fun q => overlap q.1 q.2 x.addr x.span then some (0x0A, i)
    else dataOk (used + x.span) space ((x.addr, x.span) :: ranges) r

/-! ### The checks in order (R95) -/

/-- The CODE sections of an object with their indices. -/
def codeSects (b : List Byte) : List (Nat × Sect) := (indexed (objSects b)).filter fun p => p.2.isCode

/-- The HEADER section of a CODE section: the first in file order where several name it (DESIGN CHOICE, log 105). -/
def headerOf (b : List Byte) (i : Nat) : Option (Nat × Sect) := (indexed (objSects b)).find? fun p => p.2.isHeader && p.2.link == i

/-- An overlay of an object: the indices of its CODE and HEADER sections, its header's bytes, its words. -/
structure Over where
  code : Nat
  head : Nat
  hdr  : List Byte
  text : List Byte

/-- The overlays of an object in file order. -/
def objOvers (b : List Byte) : List Over :=
  (codeSects b).filterMap fun p => (headerOf b p.1).map fun h => ⟨p.1, h.1, h.2.bytes b, p.2.bytes b⟩

/-- Every HEADER of an object with its CODE section, in file order. -/
def objHeaders (b : List Byte) : List Over :=
  ((indexed (objSects b)).filter fun p => p.2.isHeader).filterMap fun h =>
    ((codeSects b).find? fun p => p.1 == h.2.link).map fun p => ⟨p.1, h.1, h.2.bytes b, p.2.bytes b⟩

/-- The words of an overlay. -/
def Over.words (v : Over) : List Nat := codeWords v.text

/-- A CODE section has a size of R87, and a header with an ENTRY inside it: 0x05 also for a size that is 0 or no multiple of 4 (DESIGN CHOICE,
log 105). -/
def codeOk (b : List Byte) (p : Nat × Sect) : Bool :=
  let hs := (objHeaders b).filter fun v => v.code == p.1
  4 ≤ p.2.size && p.2.size ≤ 65536 && p.2.size % 4 == 0 && !hs.isEmpty && hs.all fun v => byteField v.hdr 0 2 < p.2.size / 4

/-- 0x05: every CODE section keeps its check, and every HEADER names a CODE section; the spec names no code for one that names none (DESIGN CHOICE,
log 105). -/
def checkCode (b : List Byte) : Option (Nat × Nat) :=
  ((indexed (objSects b)).find? fun p =>
    (p.2.isCode && !codeOk b p) || (p.2.isHeader && !(codeSects b).any fun q => q.1 == p.2.link)).map fun p => (0x05, p.1)

/-- The first overlay that fails a check. -/
def checkOvers (code : Nat) (ok : Over → Bool) (l : List Over) : Option (Nat × Nat) := (l.find? fun v => !ok v).map fun v => (code, v.head)

/-- The contract that an overlay asks for: none without an M word. -/
def Over.contract (v : Over) : Option Word64 :=
  if hasMword v.words then some (contractWord (hdrRequest v.hdr).1 (hdrRequest v.hdr).2) else none

/-- The contract an object asks of an owner that has none yet. -/
def newContract (w : Owner) (l : List Over) : Option Word64 := if w.contract.isSome then none else (l.filterMap Over.contract).head?

/-- 0x06 of R140: one contract for all of an owner's overlays, and one that its cores' plans can hold. -/
def State.checkContract (s : State) (w : Owner) (l : List Over) : Option (Nat × Nat) :=
  match w.contract.or (newContract w l) with
  | none => none
  | some con =>
    match checkOvers 0x06 (fun v => match v.contract with | some x => x == con | none => true) l with
    | some e => some e
    | none =>
      if w.contract.isSome || s.planFits w con then none
      else (l.find? fun v => v.contract.isSome).map fun v => (0x06, v.head)

/-- 0x0B: every record of every FIELD section keeps R27. -/
def checkFields (w : Owner) (b : List Byte) : Option (Nat × Nat) :=
  ((indexed (objSects b)).find? fun p =>
    p.2.isField && !((fieldRecords (p.2.bytes b)).all fun r => recOk r && recPlaced w r)).map fun p => (0x0B, p.1)

/-! ### Mapping DATA sections (R95, R198) -/

/-- The leaf of a DATA section's page: W is set, the other attributes are those of ATTR (R87, R187). -/
def Sect.leaf (x : Sect) (rmask frame : Nat) : BitVec 64 :=
  BitVec.ofNat 64 (2 ^ 63 + 2 ^ 62 + x.attr % 2 * 2 ^ 61 + x.attr / 2 % 2 * 2 ^ 60 + x.attr / 4 % 2 * 2 ^ 59 + x.attr / 8 % 2 * 2 ^ 58 + 2 ^ 57
    + rmask * 2 ^ 39 + frame)

/-- Lay bytes down over the 8 KiB pages from a handle. -/
def State.fillPages (s : State) (h : Nat) (bytes : List Byte) : State :=
  (indexed (chunks 8192 (ceilDiv bytes.length 8192) bytes)).foldl (fun s p => s.storePage (h + p.1) 0 p.2) s

/-- Map one page of a DATA section (R95): a replicated page on the stack of every die on which the owner holds crofts, where they have pages (R198; DESIGN
CHOICE, logs 16 and 62). -/
def State.mapData (s : State) (o : Nat) (w : Owner) (x : Sect) (va : Nat) (bytes : List Byte) : Option State :=
  let n := pagesAt x.level
  let home := s.homeStack o
  (s.openPaths o x.level [va]).bind fun s =>
  if x.attr % 2 == 1 then
    (s.newReplica o (sortBy id (diesOf w.crofts)) n).bind fun (sts, p, s) =>
      let s := sts.foldl (fun s st => s.fillPages (onStack st p) bytes) s
      s.mapLeaf o va x.level (x.leaf (sts.foldl (fun m st => m + 2 ^ st) 0) (onStack (if sts.contains home then home else sts.headD 0) p))
  else (s.newPages o home n).bind fun (h, s) => (s.fillPages h bytes).mapLeaf o va x.level (x.leaf 0 h)

/-- Map a DATA section (R95, R373): none where no page is left for it. -/
def State.mapSection (s : State) (o : Nat) (w : Owner) (b : List Byte) (x : Sect) : Option State :=
  (List.range (ceilDiv x.size x.pageSize)).foldlM (fun s i =>
    s.mapData o w x (x.addr + i * x.pageSize) (byteSlice b (x.off + i * x.pageSize) (Nat.min x.pageSize (x.size - i * x.pageSize)))) s

/-- The DATA sections of an object with their indices. -/
def dataSects (b : List Byte) : List (Nat × Sect) := (indexed (objSects b)).filter fun p => p.2.isData

/-- Map the DATA sections of an object, in order (R95): the index of the first for which no page is left. -/
def State.mapObject (s : State) (o : Nat) (w : Owner) (b : List Byte) : Except Nat State :=
  (dataSects b).foldlM (fun s p => match s.mapSection o w b p.2 with | some s => .ok s | none => .error p.1) s

/-- The first of a list of refusals. -/
def firstRefusal (l : List (Option (Nat × Nat))) : Option (Nat × Nat) := l.findSome? id

/-- The refusal of an object by the loader, with the offending index: none where every check passes (R95). The index is that of the HEADER section
for 0x06 to 0x09, of the FIELD section for 0x0B, and 0 where the file as a whole is refused (DESIGN CHOICE, log 105). A DATA section for which no page is
left is refused with 0x0A (DESIGN CHOICE, log 62). -/
def State.loadCheck (s : State) (o : Nat) (w : Owner) (b : List Byte) : Option (Nat × Nat) :=
  if !fileHeaderOk b then some (0x01, 0)
  else
    let vs := objHeaders b
    firstRefusal [
      firstBad 0x01 (sectOk b) (objSects b),
      firstBad 0x01 (fun i _ => zeroBytes b (byteField b 0x24 4 + 16 * i + 3) 1) (objRelocs b),
      if signOk b w.signKey then none else some (0x02, 0),
      firstBad 0x03 (fun _ r => relocOk b r) (objRelocs b),
      if byteField b 0x2C 4 == 0 || (byteField b 0x28 2 == 1 && byteField b 0x2A 2 == 0) then none else some (0x04, 0),
      checkCode b,
      checkOvers 0x06 (fun v => hdrOk91 v.hdr && hdrContractOk v.hdr v.words) vs,
      s.checkContract w vs,
      checkOvers 0x07 (fun v => hedgeOk (hdrHedge v.hdr)) vs,
      checkOvers 0x08 (fun v => graphOk v.words (hdrEdges v.hdr)) vs,
      checkOvers 0x09 (fun v => fragsOk v.words.length (hdrFragTables v.hdr)) vs,
      dataOk w.mapped w.space (s.mappedRanges o) (dataSects b),
      match s.mapObject o w b with | .ok _ => none | .error i => some (0x0A, i),
      checkFields w b]

/-! ### What an accepted object leaves (R95) -/

/-- The overlay of an object under a handle (R91). -/
def Over.overlay (v : Over) (handle : Nat) : Overlay :=
  { handle := handle, len := v.words.length, entry := byteField v.hdr 0 2, mode := if byteField v.hdr 2 1 == 0 then .fixed else .score
    trailer := byteField v.hdr 3 1, tokens := byteField v.hdr 8 8, hedge := hdrHedge v.hdr, edges := hdrEdges v.hdr, frags := hdrFragTables v.hdr }

/-- The next overlay handle: 16 bits (R25), one that no loaded overlay has; where every one is in use, 0 again (DESIGN CHOICE, log 34). -/
def State.overlayHandle (s : State) (taken : List Nat) : Nat :=
  let used (h : Nat) : Bool := taken.contains h || s.owners.any fun p => (p.2.overlays.find h).isSome
  let h := s.nextHandle % 65536
  if !used h then h else ((List.range 65536).find? fun k => !used k).getD 0

/-- A handle for each of n overlays. -/
def State.overlayHandles : Nat → List Nat → State → List Nat × State
  | 0, l, s => (l, s)
  | n + 1, l, s => State.overlayHandles n (l ++ [s.overlayHandle l]) { s with nextHandle := s.nextHandle + 1 }

/-- The handle that a relocation patches in (R89, R95): its symbol's overlay's plus ADDEND, in 16 bits (DEDUCED, log 106). -/
def relocHandle (b : List Byte) (handles : List (Nat × Nat)) (x : Reloc) : Option Nat :=
  ((objSyms b)[x.sym]?).bind fun z => (handles.find? fun q => q.1 == z.sect).map fun q => ((q.2 + x.add) % 65536).toNat

/-- A field record with OVL patched through every OVLH relocation of its header (R89, R95). -/
def patchRecord (b : List Byte) (handles : List (Nat × Nat)) (sect k : Nat) (r : List Byte) : List Byte :=
  ((objRelocs b).filter fun x => x.sect == sect && x.off == 64 * k).foldl
    (fun r x => match relocHandle b handles x with | some h => r.take 6 ++ leBytes 2 h ++ r.drop 8 | none => r) r

/-- The field records of an object with their names, each OVL patched with its overlay's handle (R85, R89, R95). The names of a record are the
symbols of its section and offset. -/
def objFields (b : List Byte) (handles : List (Nat × Nat)) : List (List Byte × List Byte) :=
  (indexed (objSects b)).flatMap fun p =>
    if !p.2.isField then []
    else (indexed (fieldRecords (p.2.bytes b))).flatMap fun r =>
      ((objSyms b).filter fun y => y.sect == p.1 && y.value == 64 * r.1).map fun y => (objName b y.name, patchRecord b handles p.1 r.1 r.2)

/-- What an accepted object leaves: handles, overlays, fields, its digest, its DATA sections, its contract. A later object's field name stands before
an earlier one's (DESIGN CHOICE, log 105). -/
def State.loadObject (s : State) (o : Nat) (w : Owner) (b : List Byte) : Answer :=
  let vs := objOvers b
  let (hs, s) := s.overlayHandles vs.length []
  let loaded := (vs.zip hs).foldl (fun t p => t.put p.2 ⟨p.1.overlay p.2, p.1.text⟩) w.overlays
  let s := match s.mapObject o w b with | .ok s => s | .error _ => s
  let w' := { w with
    root := (s.owners.find o).bind fun x => x.root
    overlays := loaded
    fields := objFields b ((vs.zip hs).map fun p => (p.1.code, p.2)) ++ w.fields
    objects := w.objects ++ [(sha512 b, hs)]
    mapped := w.mapped + (dataSects b).foldl (fun n p => n + p.2.span) 0 }
  let s := s.setOwner o w'
  let s := match newContract w vs with
    | some con => s.admitContract o con
    | none => s
  (s, 0, hs.flatMap fun h => leBytes 8 h)

/-- LOAD (R95). -/
def State.loadOp (o : Nat) (w : Owner) (b : List Byte) (s : State) : Answer :=
  match s.loadCheck o w b with
  | some (code, i) => (s, 5, leBytes 4 code ++ leBytes 4 i)
  | none => s.loadObject o w b

/-- LOAD (R95). -/
def execLoad (m : Msg) : State → Host.Outcome State Fault Refusal := event fun s => s.ownerRequest m 0x0010 State.loadOp

end Sys2Proof.Machine
end

