-- ==== Sys2Proof/Machine/Walker.lean ====
section
/-! DEFINITION. Launching a field, the field walkers, and the overlay swap (R25 to R33, R47, R48, R267, R281, R282). -/

namespace Sys2Proof.Machine

/-! ### LAUNCH (R267, R268) -/

/-- A field's name in a request: NUL-terminated, padded with zeros to a multiple of 8. -/
def launchName (p : List Byte) : Option (List Byte) :=
  let name := p.takeWhile (· != 0)
  if p.length == ceilDiv (name.length + 1) 8 * 8 && (p.drop name.length).all (· == 0) then some name else none

/-- On some die the furrows of a field outnumber the crofts that its owner holds there (R282). -/
def recCrowded (w : Owner) (r : List Byte) : Bool :=
  ((recDies r).take (kindCount 3 (recLevels r))).any fun d => w.onDie d < kindCount 2 (recLevels r)

/-- A launch of a record (R25 to R28): every die its enumeration reaches gets one furrow for each point of the levels over crofts. -/
def launchOf (num o : Nat) (r : List Byte) : Launch :=
  let ls := recLevels r
  let dies := (recDies r).take (kindCount 3 ls)
  { num := num, owner := o, handle := recHandle r, rank := byteField r 5 1 / 16, dies := byteField r 2 2, arg := byteField r 8 8, levels := ls
    left := dies.map fun d => (d, kindCount 2 ls), parts := dies.length * kindCount 2 ls }

/-- The payload of a launch's reply once its record has entered the queue (R267). -/
def launchReply (num : Nat) : List Byte := leBytes 8 num

/-- LAUNCH (R267): the reply is sent when the record enters the launch queue of 16 records; until then the launch is held back. One refused under the
last condition of R27 has code 0x0B in its payload (DEDUCED, log 116). -/
def State.launchOp (o : Nat) (w : Owner) (tag : Word64) (p : List Byte) (s : State) : State × Option (Nat × List Byte) :=
  match launchName p with
  | none => (s, some (1, []))
  | some name =>
    match w.fields.find? fun f => f.1 == name with
    | none => (s, some (7, []))
    | some (_, r) =>
      match w.overlays.find (recHandle r) with
      | none => (s, some (7, []))
      | some v =>
        if !recOk r then (s, some (6, []))
        else if !recPlaced w r then (s, some (6, leBytes 8 0x0B))
        else if hasBar (codeWords v.code) && recCrowded w r then (s, some (6, []))
        else
          let n := s.nextLaunch
          let s1 := { s with nextLaunch := n + 1, launches := s.launches ++ [launchOf n o r] }
          if w.queue.length < 16 && w.held.isEmpty then (s1.setOwner o { w with queue := w.queue ++ [n] }, some (0, launchReply n))
          else (s1.setOwner o { w with held := w.held ++ [(n, tag)] }, none)

/-- LAUNCH's request. -/
def State.launchMsg (s : State) (m : Msg) : State :=
  s.receive m 0x0011 .owner fun p s =>
    match m.fn.bind fun o => (s.owners.find o).map fun w => (o, w) with
    | some (o, w) => s.launchOp o w m.tag p
    | none => (s, some (3, []))

/-- LAUNCH (R267). -/
def execLaunch (m : Msg) : State → Host.Outcome State Fault Refusal := event fun s => s.launchMsg m

/-- LAUNCH_QUEUE_ENTRY (R267): a launch held back enters the owner's queue, and its reply is sent. -/
def State.queueEntry (s : State) (o : Nat) : State :=
  match s.owners.find o with
  | none => s
  | some w =>
    match w.held with
    | [] => s
    | (n, tag) :: r =>
      if w.queue.length < 16 then
        (s.setOwner o { w with queue := w.queue ++ [n], held := r }).send (.reply (some o) 0x0011 0 tag (launchReply n))
      else s

/-- LAUNCH_QUEUE_ENTRY (R267). -/
def execLaunchQueueEntry (o : Nat) : State → Host.Outcome State Fault Refusal := event fun s => s.queueEntry o

/-! ### FURROW_DISPATCH (R28 to R31) -/

/-- The indices of a furrow's levels, level 1 first (R28): the digits of its die ordinal and of its number among the furrows of that die,
the outer level most significant; temporal and absent levels stand at 0. -/
def pointOf : List Level → Nat → Nat → List Nat × Nat × Nat
  | [], d, k => ([], d, k)
  | l :: r, d, k =>
    let (p, d, k) := pointOf r d k
    if l.kind == 3 then (d % l.count :: p, d / l.count, k)
    else if l.kind == 2 then (k % l.count :: p, d, k / l.count)
    else (0 :: p, d, k)

/-- The ordinal of a die among those set in DIES (R28). -/
def dieOrdinal (dies die : Nat) : Nat := ((List.range die).filter dies.testBit).length

/-- How many furrows of a launch a die has still to get. -/
def Launch.leftOn (l : Launch) (die : Nat) : Nat := (l.left.find die).getD 0

/-- The walkers have dispatched every furrow of a launch. -/
def Launch.gone (l : Launch) : Bool := l.left.all fun p => p.2 == 0

/-- The next furrow of a launch for a die (R28, R31). -/
def Launch.furrow (l : Launch) (die : Nat) : Furrow :=
  { launch := l.num, handle := l.handle, levels := l.levels, arg := l.arg
    point := (pointOf l.levels (dieOrdinal l.dies die) (kindCount 2 l.levels - l.leftOn die)).1 }

/-- A croft is free (R29): held, released, not vacated at a pre-emption (R235), zeroed, with no furrow, in no handler of the last one; after an issue that Sillu ended, its accepted commands have gone
(R230). -/
def Croft.free (c : Croft) : Bool :=
  c.owner.isSome && c.released && !c.vacated && !c.zeroing && c.furrow.isNone && c.nextFur.isNone
    && c.frame.isNone && (!c.ended || (c.copyq.isEmpty && c.indexq.isEmpty && c.genq.isEmpty))

/-- A launch by its number. -/
def State.launchNum (s : State) (n : Nat) : Option Launch := s.launches.find? fun l => l.num == n

/-- The launch whose furrow an owner sends to a die next (R29): the first of its queue with furrows left for it. -/
def State.dieLaunch (s : State) (die : Nat) (w : Owner) : Option Launch :=
  (w.queue.filterMap s.launchNum).find? fun l => 0 < l.leftOn die

/-- The free croft of an owner on a die with the lowest number (R29). -/
def State.freeCroft (s : State) (die : Nat) (w : Owner) : Option Nat := w.crofts.find? fun n => n / 64 == die && (s.croft n).free

/-- What an owner could dispatch on a die now: its number, launch and croft (R30). -/
def State.offers (s : State) (die : Nat) : List (Nat × Launch × Nat) :=
  s.owners.filterMap fun p =>
    match s.dieLaunch die p.2, s.freeCroft die p.2 with
    | some l, some n => some (p.1, l, n)
    | _, _ => none

/-- The key of a die and a rank in the walkers' memory of the owner last served. -/
def servedKey (die rank : Nat) : Nat := die * 16 + rank

/-- The offer that a die's walker takes (R30): of the highest RANK, the first owner after the one last served at that RANK there. -/
def State.pickOffer (s : State) (die : Nat) : Option (Nat × Launch × Nat) :=
  let os := s.offers die
  let top := os.foldl (fun m x => Nat.max m x.2.1.rank) 0
  let os := os.filter fun x => x.2.1.rank == top
  let start := s.served.get 0 (servedKey die top)
  (os.find? fun x => start ≤ x.1).or os.head?

/-- A furrow goes to a croft: one of the same launch starts there, one of another waits for the swap (R33). -/
def Croft.receive (c : Croft) (u : Furrow) : Croft :=
  let c := { c with ended := false }
  if c.lastLaunch == u.launch then { c with furrow := some u }.beginIssue else { c with nextFur := some u }

/-- Entries of the launch queue are freed once the walkers have dispatched the last furrow of the oldest field. -/
def State.freeEntries (s : State) (o : Nat) : State :=
  match s.owners.find o with
  | none => s
  | some w => s.setOwner o { w with queue := w.queue.dropWhile fun n => match s.launchNum n with | some l => l.gone | none => true }

/-- FURROW_DISPATCH (R29, R30). -/
def State.dispatch (s : State) (die : Nat) : State :=
  match s.pickOffer die with
  | none => s
  | some (o, l, n) =>
    let s := s.setCroft n ((s.croft n).receive (l.furrow die))
    let s := s.mapLaunch l.num fun l => { l with left := l.left.put die (l.leftOn die - 1) }
    ({ s with served := s.served.put (servedKey die l.rank) (o + 1) } : State).freeEntries o

/-- FURROW_DISPATCH (R29). -/
def execFurrowDispatch (die : Nat) : State → Host.Outcome State Fault Refusal := event fun s => s.dispatch die

/-! ### OVERLAY_SWAP (R33, R42, R47) -/

/-- Every issued instruction of an engine has landed. -/
def Croft.engLanded (c : Croft) (e : Eng) : Bool := !(c.lands.any fun p => p.eng == e)

/-- The queues that an outgoing overlay's trailer mask names have finished their work (R32, R33). -/
def Croft.trailerDone (c : Croft) : Bool :=
  let t := c.overlay.trailer
  let named (k : Nat) (ok : Bool) : Bool := !t.testBit k || ok
  named 0 ((c.queue .A).isEmpty && c.engLanded .A && c.stq.isNone && c.accs.isEmpty)
    && named 1 ((c.queue .M).isEmpty && c.engLanded .M && c.nest.isNone)
    && named 2 ((c.queue .V).isEmpty && c.engLanded .V && c.vpush.isNone)
    && named 3 ((c.queue .X).isEmpty && c.indexq.isEmpty)
    && named 4 ((c.queue .G).isEmpty && c.genq.isEmpty)
    && named 5 c.copyq.isEmpty

/-- A GMASK's deadline counts on from the restart of VCLOCK. -/
def GenCmd.rebase (t : Nat) (k : GenCmd) : GenCmd := if k.op == 4 then { k with vc := 0, x0 := k.vc + k.x0 - t } else k

/-- VCLOCK restarts at 0 (R33, R47): what counts in vc keeps its distance. -/
def Croft.restartClock (c : Croft) : Croft :=
  let t := c.landLimit
  { c with
    vclock := 0, nextVc := 0, atVc := 0, qrLate := (0, 0)
    lands := c.lands.map fun (p : Pending) => { p with due := p.due - t }
    stq := c.stq.map fun (q : StqRun) => { q with at_ := q.at_ - t }
    genq := c.genq.map (GenCmd.rebase t) }

/-- A swap may be made: no handler runs whose trap frame still holds words and results of the outgoing overlay, the trailer's queues are
done, and where the mode changes the croft has drained (R33, R42). -/
def Croft.swapReady (c : Croft) (v : Overlay) : Bool := c.frame.isNone && c.trailerDone && (c.mode == v.mode || c.drained)

/-- The swap (R33): the overlay is written into instruction memory, HANDLER becomes 0, and the furrow's first issue starts. -/
def Croft.swapTo (c : Croft) (v : Loaded) (u : Furrow) : Croft :=
  let c := c.restartClock
  { c with imem := c.imem.writeN 0 v.code, overlay := v.ov, handler := 0, lastLaunch := u.launch, furrow := some u, nextFur := none }.startIssue

/-- The overlay that a croft's next furrow brings. -/
def State.nextOverlay (s : State) (c : Croft) : Option (Loaded × Furrow) :=
  match c.nextFur, c.owner.bind s.owners.find with
  | some u, some w => (w.overlays.find u.handle).map fun v => (v, u)
  | _, _ => none

/-- OVERLAY_SWAP (R33). -/
def State.swap (s : State) (n : Nat) : State :=
  let c := s.croft n
  match s.nextOverlay c with
  | some (v, u) => if c.swapReady v.ov then s.setCroft n (c.swapTo v u) else s
  | none => s

/-- OVERLAY_SWAP (R33). -/
def execOverlaySwap (n : Nat) : State → Host.Outcome State Fault Refusal := event fun s => s.swap n

end Sys2Proof.Machine
end

