-- ==== Sys2Proof/Machine/Events.lean ====
section
/-! DEFINITION. What the croft's units do between packets: walks and owner accesses complete, commands complete, STQ and VPUSH move
their entries, phase markers take effect, banks wake and lose their power. -/

namespace Sys2Proof.Machine

/-! ### WALK_COMPLETE (R188 to R190) -/

/-- The home sectors of the 8 KiB page a walk found (R190). -/
def State.walkSectors (s : State) (r : WalkEnd) (va : Nat) : Nat :=
  match r.leaf with
  | some e => s.pageSectors (pteCmp e) (leafHandle e r.level va)
  | none => 0

/-- PGPROBE's reply enters QC, and its signal is pushed (R190, R332). -/
def Croft.probeDone (c : Croft) (id : Nat) (v : Word64) : Croft :=
  match c.accs.find? fun a => a.id == id with
  | none => c
  | some a => (({ c with accs := c.accs.filter fun (b : Access) => b.id != id }.fillQc id v).pushSig .A a.sig).pruneFences

/-- A walk that found nothing raises TRANSNP for the instruction that still waits for it (R188): A's next one, behind any marker. -/
def State.walkFault (s : State) (n : Nat) (w : Walk) (r : WalkEnd) : State :=
  match (s.croft n).nextOf .A with
  | some q =>
    if q.seq == w.seq then
      s.raiseSys n { code := .transnp, addr := w.va, aux := r.level * 2 ^ 28, eng := .A, pc := q.pc, seq := q.seq, write := w.write }
    else s
  | none => s

/-- Walk k of croft n ends (R189): its translation enters the caches, a PGPROBE gets its reply. -/
def State.walkDone (s : State) (n k : Nat) : State :=
  let c := s.croft n
  match c.walks[k]?, c.owner with
  | some w, some o =>
    let r := s.lookup n o w.va
    let s := s.walkSample n o w.va
    let s := (s.setCroft n { s.croft n with walks := c.walks.eraseIdx k }).fillTlb n o w.va r
    if w.probe then s.setCroft n ((s.croft n).probeDone w.seq (probeReply r (s.walkSectors r w.va)))
    else if r.leaf.isNone then s.walkFault n w r
    else s
  | _, _ => s

/-- WALK_COMPLETE (R189). -/
def execWalkComplete (n k : Nat) : State → Host.Outcome State Fault Refusal := event fun s => s.walkDone n k

/-! ### OWNER_ACCESS_COMPLETE (R191, R206 to R210) -/

/-- Replace an access of a croft. -/
def Croft.setAccess (c : Croft) (a : Access) : Croft := { c with accs := c.accs.map fun (b : Access) => if b.id == a.id then a else b }

/-- An access has performed: it leaves the list with its fences' holds, and its signal is pushed (R39). -/
def Croft.accessDone (c : Croft) (a : Access) : Croft :=
  (({ c with accs := c.accs.filter fun (b : Access) => b.id != a.id } : Croft).pushSig .A a.sig).pruneFences

/-- A translation fault of an access goes to Sillu, and the access stays stopped (R188, R191). -/
def State.accessTrans (s : State) (n : Nat) (a : Access) (write : Bool) (f : TransFault) : State :=
  if (s.croft n).freeze.sys.isSome then s
  else (s.setCroft n ((s.croft n).setAccess { a with halt := .sillu })).raiseSys n
    { code := f.code, addr := f.addr, aux := f.level * 2 ^ 28, eng := .A, pc := a.pc, seq := a.seq, write := write, access := some a.id }

/-- A load performs: its entry fills (R161, R314). -/
def State.performLoad (s : State) (n : Nat) (a : Access) (q id : Nat) (form : Payload) : State :=
  match s.ownerRead n a.va a.len with
  | .error f => s.accessTrans n a false f
  | .ok (bytes, s) => s.setCroft n (((s.croft n).landOp (ldqFill q id form bytes)).accessDone a)

/-- A store performs (R339). -/
def State.performStore (s : State) (n : Nat) (a : Access) : State :=
  match s.ownerWrite n a.va a.bytes false with
  | .error (.trans f) => s.accessTrans n a true f
  | .error (.held sts got) => s.holdWrite n (.access a.id) sts got a.va
  | .ok s => s.setCroft n ((s.croft n).accessDone a)

/-- The write of an ATOM that keeps its old value: none, but its page must still allow one. -/
def State.atomWrite (s : State) (n : Nat) (a : Access) (writes : Bool) (new : Nat) : Except WriteStop State :=
  if writes then s.ownerWrite n a.va (leBytes a.len new) true
  else match (s.croft n).owner with
    | none => .error (.trans ⟨.transnp, a.va, 1⟩)
    | some o => match s.extent o a.va a.len true with
      | .error e => .error (.trans e)
      | .ok _ => .ok s

/-- An ATOM performs (R221): one read, compare and write, its flags, its reply in QC. -/
def State.performAtom (s : State) (n : Nat) (a : Access) (size op : Nat) (cmp v : Word64) (reply : Option Nat) : State :=
  match s.ownerRead n a.va a.len with
  | .error f => s.accessTrans n a true f
  | .ok (bytes, s1) =>
    let old := leNat bytes
    let r := atomNew (8 * size) op old cmp.toNat v.toNat
    let writes := atomWrites (8 * size) op old cmp.toNat
    match s1.atomWrite n a writes r.1 with
    | .error (.trans f) => s.accessTrans n a true f
    | .error (.held sts got) => s.holdWrite n (.access a.id) sts got a.va
    | .ok s =>
      let c := (s.croft n).raise (if writes then r.2 else 0)
      let c := match reply with | some id => c.fillQc id (BitVec.ofNat 64 old) | none => c
      s.setCroft n (c.accessDone a)

/-- An access performs. -/
def State.perform (s : State) (n : Nat) (a : Access) : State :=
  match a.kind with
  | .ldq q id form => s.performLoad n a q id form
  | .stq => s.performStore n a
  | .atom size op cmp v reply => s.performAtom n a size op cmp v reply
  | .probe _ => s

/-- An access whose end nothing of the croft awaits: an STQ, or an ATOM without a reply. -/
def Access.quiet (a : Access) : Bool := match a.kind with | .stq | .atom _ _ _ _ none => true | _ => false

/-- The handler cannot go on before an access has performed: its reply is awaited, or something of A stands behind it. -/
def Croft.needs (c : Croft) (a : Access) : Bool :=
  !a.quiet || !(c.queue .A).isEmpty || c.accs.any (fun b => a.seq < b.seq && !b.quiet) || c.copyq.any fun k => a.seq < k.seq

/-- An access may perform: what is ordered before it has performed, and neither Sillu nor the Granary holds it. -/
def Croft.accessMay (c : Croft) (a : Access) : Bool :=
  a.halt == .no && ({ c with pressed := c.pressed && c.needs a } : Croft).orderReady a.seq a.ord.cls a.va a.len && !c.holdsFor (.access a.id)

/-- Access k of croft n performs where it may. -/
def State.accessStep (s : State) (n k : Nat) : State :=
  match (s.croft n).accs[k]? with
  | none => s
  | some a => if (s.croft n).accessMay a then s.perform n a else s

/-- OWNER_ACCESS_COMPLETE (R206). -/
def execOwnerAccessComplete (n k : Nat) : State → Host.Outcome State Fault Refusal := event fun s => s.accessStep n k

/-! ### COMMAND_COMPLETION (R39, R166, R169, R242) -/

/-- The front command of a path completes. -/
def State.complete (s : State) (n : Nat) (p : Path) : State :=
  match p with
  | .copy => s.copyComplete n
  | .index => s.indexComplete n
  | .gen => s.genComplete n

/-- COMMAND_COMPLETION (R39). -/
def execCommandCompletion (n : Nat) (p : Path) : State → Host.Outcome State Fault Refusal := event fun s => s.complete n p

/-! ### VPUSH_TRANSFER, STQ_ENTRY_POP (R163, R164, R339) -/

/-- The next dword of a VPUSH enters QS where there is room (R163). -/
def Croft.vpushStep (c : Croft) : Croft :=
  match c.vpush with
  | none => c
  | some ⟨[]⟩ => { c with vpush := none }
  | some ⟨v :: r⟩ =>
    if c.qs.length + c.pendS < 16 then { c with qs := c.qs ++ [v], vpush := if r.isEmpty then none else some ⟨r⟩ } else c

/-- VPUSH_TRANSFER (R163). -/
def execVpushTransfer (n : Nat) : State → Host.Outcome State Fault Refusal := croftEvent n Croft.vpushStep

/-- An STQ's pops go on while the clock stands before A's next instruction, until its last pop (R339). -/
def Croft.stqAhead (c : Croft) : Bool := c.mode == .fixed && c.atVc == c.nextVc && c.packet.any fun p => p.1 == .A

/-- The vc at which an STQ's next pop comes now (R164, R339): its own in FIXED mode, that at which the clock stands where A's next instruction
holds it, and in SCORE mode no earlier than the cycle at hand. None where it has not come. -/
def Croft.stqVc (c : Croft) (r : StqRun) : Option Nat :=
  match c.mode with
  | .fixed => if r.at_ ≤ c.landLimit then some r.at_ else if c.stqAhead then some c.nextVc else none
  | .score => if r.at_ ≤ c.landLimit then some c.landLimit else none

/-- The next entry of an STQ is popped from QS (R339). -/
def Croft.stqStep (c : Croft) : Croft :=
  match c.stq, c.qs with
  | some r, v :: q => match c.stqVc r with | some t => ({ c with qs := q } : Croft).stqTake r v t | none => c
  | _, _ => c

/-- STQ_ENTRY_POP (R339). -/
def execStqEntryPop (n : Nat) : State → Host.Outcome State Fault Refusal := croftEvent n Croft.stqStep

/-! ### PHASE_MARKER_EFFECT (R48, R49, R334) -/

/-- Every access of an engine's open phase has performed (R49, R214): a PGPROBE touches no memory, and what a handler set aside counts too. -/
def Croft.phaseQuiet (c : Croft) (e : Eng) : Bool :=
  let landed := !c.inFlight.any fun p => p.eng == e && p.op.onSp
  match e with
  | .A => c.copyq.isEmpty && c.stqs.isEmpty && c.accs.all Access.isProbe && landed
  | .M => c.nest.isNone && landed
  | .X => c.indexq.isEmpty
  | .G => c.genq.isEmpty
  | _ => true

/-- The marker that would take effect on an engine now: one at the head of its queue with its ranges latched, the old phase quiet. -/
def Croft.marker (c : Croft) (e : Eng) : Option (QEntry × Phase) :=
  match c.queue e with
  | q :: _ =>
    match q.item with
    | .marker (some p) => if c.phaseQuiet e then some (q, p) else none
    | _ => none
  | [] => none

/-- The engine's new phase opens, and its marker leaves the queue (R49). -/
def Croft.openPhase (c : Croft) (e : Eng) (p : Phase) : Croft :=
  { c.setQueue e (c.queue e).tail with phases := vset c.phases e.ix p }

/-- HEDGE of a marker (R334): a landing fault that names the PHASE and the marker's engine; the marker stands again at the head of its
queue. -/
def markerFault (e : Eng) (q : QEntry) (a : Nat) : Raised :=
  { flt := { code := .hedge, addr := (joinAddr .sp a).toNat }, eng := e, pc := q.pc, seq := q.seq, land := true }

/-- A marker takes effect, or fails its check at the vc the clock has reached (R49, R334). -/
def State.markerStep (s : State) (n : Nat) (e : Eng) : State :=
  let c := s.croft n
  match c.marker e with
  | none => s
  | some (q, p) =>
    match c.phaseClash e p with
    | none => s.setCroft n (c.openPhase e p)
    | some a => if c.canRaise then s.raiseFirst n (match c.mode with | .fixed => c.freeVc | .score => c.nextVc) (markerFault e q a) id else s

/-- PHASE_MARKER_EFFECT (R49). -/
def execPhaseMarkerEffect (n : Nat) (e : Eng) : State → Host.Outcome State Fault Refusal := event fun s => s.markerStep n e

/-! ### BANK_WAKE_END, BANK_POWER_OFF (R136, R138) -/

/-- A bank holds only zeros. -/
def Croft.blankBank (c : Croft) (b : Nat) : Croft := { c with sp := c.sp.clear (65536 * b) 65536 }

/-- A bank's wake ends (R138): it is up, reads as zero, and its flags are 1 (R136); a later change of its gate begins. -/
def Croft.wakeEnd (c : Croft) (b : Nat) : Croft :=
  if b < 32 && c.gate b == .waking then
    let c := c.blankBank b
    ({ c with gates := vset c.gates b .up, zclear := c.zclear.filter fun (p : Nat × Bool) => p.1 / 64 != b } : Croft).nextTurn b
  else c

/-- BANK_WAKE_END (R138). -/
def execBankWakeEnd (n b : Nat) : State → Host.Outcome State Fault Refusal := croftEvent n fun c => c.wakeEnd b

/-- Every access issued before a bank went down has performed (R138, R280). -/
def Croft.bankQuiet (c : Croft) (b : Nat) : Bool := (vget c.gateAcc [] b).all fun q => !c.spIssued.contains q

/-- A bank loses its power and its contents (R138); a later change of its gate begins. -/
def Croft.bankOff (c : Croft) (b : Nat) : Croft :=
  if b < 32 && c.gate b == .falling && c.bankQuiet b then ({ c.blankBank b with gates := vset c.gates b .down } : Croft).nextTurn b else c

/-- BANK_POWER_OFF (R138). -/
def execBankPowerOff (n b : Nat) : State → Host.Outcome State Fault Refusal := croftEvent n fun c => c.bankOff b

end Sys2Proof.Machine
end

