-- ==== Sys2Proof/Machine/Context.lean ====
section
/-! DEFINITION. The bytes of a saved context (R237, R257): the places of its parts, and the contents of those parts whose fields the spec lists. -/

namespace Sys2Proof.Machine

/-- The parts of a context in the order of their places (R237). -/
inductive ContextPart where
  | header | registers | queues | fifos | entries | trapFrame | mill | generation | vregs | landing | zero | live | acm | scratchpad
  deriving DecidableEq, Repr

/-- The parts of a context's fixed part (R237). -/
def ContextPart.all : List ContextPart :=
  [.header, .registers, .queues, .fifos, .entries, .trapFrame, .mill, .generation, .vregs, .landing, .zero, .live, .acm, .scratchpad]

/-- The bytes of a context's part (R237). -/
def ContextPart.bytes : ContextPart → Nat
  | .header => 64 | .registers => 512 | .queues => 1536 | .fifos => 1024 | .entries => 1536 | .trapFrame => 1536 | .mill => 1984
  | .generation => 8192 | .vregs => 16640 | .landing => 34816 | .zero => 1792 | .live => 65536 | .acm => 262144 | .scratchpad => 2097152

/-- The offset of a context's part (R237). -/
def ContextPart.offset : ContextPart → Nat
  | .header => 0x000000 | .registers => 0x000040 | .queues => 0x000240 | .fifos => 0x000840 | .entries => 0x000C40 | .trapFrame => 0x001240
  | .mill => 0x001840 | .generation => 0x002000 | .vregs => 0x004000 | .landing => 0x008100 | .zero => 0x010900 | .live => 0x011000
  | .acm => 0x021000 | .scratchpad => 0x061000

/-- The parts of a context's generation area (R257). -/
inductive GenPart where
  | slots | stages | staging | budget | work | zero
  deriving DecidableEq, Repr

/-- The offset of a part of the generation area and its bytes (R257). -/
def GenPart.place : GenPart → Nat × Nat
  | .slots => (0x0000, 1024) | .stages => (0x0400, 192) | .staging => (0x04C0, 64) | .budget => (0x0500, 64) | .work => (0x0540, 1024)
  | .zero => (0x0940, 5824)

/-! ### The contents of the parts

The spec lists what a part holds and not where in the part each field stands: fields stand in the order listed, each little-endian in 8 bytes where no
width is said (DESIGN CHOICE, log 110). -/

/-- A part's bytes filled up with zeros to its size. -/
def padBytes (n : Nat) (l : List Byte) : List Byte := (l ++ List.replicate n 0).take n

/-- Numbers as dwordBytes. -/
def dwordBytes (l : List Nat) : List Byte := l.flatMap (leBytes 8)

/-- The run-packed image of a run register in 520 bytes: the R84 header and 64 pairs (R237). -/
def VReg.image (v : VReg) : List Byte := padBytes 520 (dwordBytes ((packedDwords v).map (·.toNat)))

/-- Element i of the live tile in 16 bytes: its code, or its window with its state above the 96 bits (R237). -/
def Live.image (l : Live) (i : Nat) : List Byte :=
  match l.kind with
  | .window => leBytes 16 ((l.wins.getD i {}).st * 2 ^ 96 + ((l.wins.getD i {}).w % 2 ^ 96).toNat)
  | _ => leBytes 16 (l.vals.getD i 0).toNat

/-- The unissued entries of six engine queues, markers left out. -/
def entriesOf (q : Vector (List QEntry) 6) : List QEntry := q.toList.flatten.filter QEntry.counts

/-- A croft's unissued entries, those set aside at a handler's entry last. -/
def Croft.unissued (c : Croft) : List QEntry :=
  entriesOf c.queues ++ match c.frame with | some f => entriesOf f.queues | none => []

/-- The words of a croft's unissued entries and the two before each, which may extend it, by word index (R235). -/
def Croft.contextWords (c : Croft) : Table Nat :=
  (dedupe (c.unissued.flatMap fun q => [q.pc - 2, q.pc - 1, q.pc])).foldl (fun (t : Table Nat) p => t.put p (c.imem.le (4 * p) 4)) []

/-- The extension words that stand before a word, in fetch order, at most two. -/
def extBefore (words : Table Nat) (pc : Nat) : List Nat :=
  let ext (p : Nat) : Bool := p < pc && isExtWord (BitVec.ofNat 32 (words.get 0 p))
  if !ext (pc - 1) then [] else if pc < 2 || !ext (pc - 2) then [words.get 0 (pc - 1)] else [words.get 0 (pc - 2), words.get 0 (pc - 1)]

/-- An unissued entry in 12 bytes, verbatim: its word, then its extension words (R235, R237). -/
def QEntry.image (words : Table Nat) (q : QEntry) : List Byte :=
  leBytes 4 (words.get 0 q.pc) ++ padBytes 8 ((extBefore words q.pc).flatMap (leBytes 4))

/-- The code of a slot's state in a context. -/
def SlotState.code : SlotState → Nat
  | .idle => 0 | .fast => 1 | .slow => 2 | .resolved => 3 | .withheld => 4

/-- A row slot in 64 bytes: the fields of its GSHORT's block at their places there (R244), then what R257 lists. -/
def RowSlot.image (r : RowSlot) : List Byte :=
  padBytes 64 (([r.lbase, r.v, r.ks, r.thr, r.topp, r.shb, r.row, r.step].flatMap (leBytes 4)) ++ leBytes 1 r.st.code ++ leBytes 1 (bit r.tokv)
    ++ leBytes 2 (bit r.mask.isSome) ++ [r.token, r.s, r.sm].flatMap (leBytes 4))

/-- A drafter stage in 64 bytes. -/
def Stage.image (x : Stage) : List Byte := padBytes 64 (dwordBytes [x.prop, x.acc, x.depth, x.dmin, x.dmax])

/-- The staging region's 64 bytes. -/
def Staging.image (x : Staging) : List Byte := padBytes 64 (dwordBytes [x.base, x.cap, x.esz, x.fill, x.last, bit x.valid])

/-- The budget's 64 bytes: its slot, the vc that remain, RESUME, and the armed bit. -/
def Croft.budgetImage (c : Croft) : List Byte :=
  padBytes 64 (match c.budget with | some b => dwordBytes [b.slot, b.due - c.vclock, b.resume, 1] | none => [])

/-- The vc that remain to a GMASK's deadline, 0 for another command (R257). -/
def GenCmd.remains (c : Croft) (k : GenCmd) : Nat := if k.op == 4 then k.vc + k.x0 - c.vclock else 0

/-- An entry of the work queue in 128 bytes: its word, its block, and its progress, a GMASK's remaining vc among it (R257). -/
def GenCmd.image (c : Croft) (k : GenCmd) : List Byte :=
  padBytes 128 (dwordBytes [k.word] ++ leBytes 64 k.block.toNat ++ dwordBytes [k.x0, k.done, k.base, k.arv, k.remains c])

/-- The contents of a part of the generation area (R257). -/
def Croft.genPart (c : Croft) : GenPart → List Byte
  | .slots => c.rows.toList.flatMap RowSlot.image
  | .stages => c.stages.toList.flatMap Stage.image
  | .staging => c.staging.image
  | .budget => c.budgetImage
  | .work => padBytes 1024 (c.genq.flatMap (GenCmd.image c))
  | .zero => List.replicate 5824 0

/-- The parts of the generation area in the order of their places. -/
def GenPart.all : List GenPart := [.slots, .stages, .staging, .budget, .work, .zero]

/-- The values of an operand queue, its pending entries 0, in 16 entries of n bytes. -/
def slotBytes (n : Nat) (l : List Nat) : List Byte := padBytes (16 * n) (l.flatMap (leBytes n))

/-- The control registers that the second part lists (R237). -/
def Croft.contextCrs (c : Croft) : List Nat :=
  [c.qstat.toNat, c.fcode.toNat, c.faddr.toNat, c.fpc.toNat, c.handler.toNat, c.rngseed.toNat, c.landing.toNat]

/-- The non-zero bytes of a list as cells from an offset. -/
def cellsAt (off : Nat) (l : List Byte) : Memory := ((indexed l).filter fun x => x.2 != 0).map fun x => (off + x.1, x.2)

/-- A memory's cells from an offset. -/
def shifted (off : Nat) (m : Memory) : Memory := m.map fun x => (off + x.1, x.2)

/-- A barrier object in 16 bytes: INIT, PEND, PHASE. -/
def Barrier.image (b : Barrier) : List Byte := leBytes 4 b.ini ++ leBytes 4 b.pend ++ leBytes 8 b.phase

/-- A command of the copy queue in 48 bytes: its word index and arrival target, source, destination, length, and its progress. -/
def CopyCmd.image (k : CopyCmd) : List Byte :=
  let f : List Nat :=
    match k.kind with
    | .copy src _ dst _ _ units => [src, dst, units]
    | .copyd src dst _ _ blocks => [src, dst, blocks]
    | .coll base _ _ _ _ _ region n => [base, region, n]
    | .glsend _ _ wbase _ _ _ gbase plc _ => [wbase, gbase, plc.length]
  padBytes 48 (leBytes 4 k.pc ++ leBytes 4 k.arv ++ dwordBytes (f ++ [k.done, k.out]))

/-- A pending access in 16 bytes: its word index, its length, its address. -/
def Access.image (a : Access) : List Byte := leBytes 4 a.pc ++ leBytes 4 a.len ++ leBytes 8 a.va

/-- The FIFO part: token counts, arrivals, reservations, barrier objects, the copy queue, pending accesses. -/
def Croft.fifoImage (c : Croft) : List Byte :=
  padBytes 64 ((c.tok.toList ++ c.arv.toList ++ c.arvRes.toList).flatMap (leBytes 1)) ++ c.abs.toList.flatMap Barrier.image
    ++ padBytes 384 (c.copyq.flatMap CopyCmd.image) ++ c.accs.flatMap Access.image

/-- The trap frame's set-aside entries, then the splitter's position. -/
def Croft.frameImage (c : Croft) (words : Table Nat) : List Byte :=
  match c.frame with
  | none => []
  | some f => (entriesOf f.queues).flatMap (QEntry.image words) ++ dwordBytes [f.split.pc]

/-- A range as the dword of R93. -/
def rangeDword (write : Bool) (r : Rng) : Nat := bit write * 2 ^ 32 + r.len / 64 * 2 ^ 16 + r.base / 64

/-- A phase in 64 bytes: its ranges as R93 has them. -/
def Phase.image (p : Phase) : List Byte :=
  padBytes 64 (dwordBytes (p.reads.map (rangeDword false) ++ p.writes.map (rangeDword true)))

/-- The code of a bank's gate in a context. -/
def Gate.code : Gate → Nat
  | .up => 0 | .waking => 1 | .falling => 2 | .down => 3

/-- The Mill part: the phases of A, M, X and G, zero flags, gates, shadow and active tables, a nest's counters, the armed replay, the ACM records, the
live record. -/
def Croft.millImage (c : Croft) : List Byte :=
  [Eng.A, .M, .X, .G].flatMap (fun e => (vget c.phases {} e.ix).image)
    ++ ((List.range 256).map fun i => BitVec.ofNat 8 ((List.range 8).foldl (fun n k => n + bit (c.zflag (8 * i + k)) * 2 ^ k) 0))
    ++ c.gates.toList.flatMap (fun g => leBytes 1 g.code) ++ dwordBytes ((c.mtab.toList ++ c.active.toList).map (·.toNat))
    ++ dwordBytes (match c.nest with | some n => [n.steps, n.k, n.walk, n.cost, n.rounds, n.grade, n.len, 1] | none => List.replicate 8 0)
    ++ dwordBytes (match c.armed with | some r => [r.toNat, 1] | none => [0, 0])
    ++ dwordBytes (c.records.toList.map (·.toNat) ++ [c.live.lrec.toNat])

/-- A memory's space in a context. -/
def Space.number : Space → Nat
  | .owner => 0 | .sp => 1 | .acm => 2

/-- What a result in flight changes: a number for the kind of its destination, which one it is, and its value. -/
def LandOp.image : LandOp → Nat × Nat × List Byte
  | .nothing => (0, 0, [])
  | .setS d v => (1, d, leBytes 8 v.toNat)
  | .setB d v => (2, d, leBytes 8 v.toNat)
  | .pushA v => (3, 0, leBytes 8 v.toNat)
  | .pushS v => (4, 0, leBytes 8 v.toNat)
  | .setCr k v => (5, k, leBytes 8 v.toNat)
  | .setV _ d _ r => (6, d, r.vd.image)
  | .vfault f => (7, f.code, [])
  | .vpop d _ r => (8, d, match r with | some v => v.image | none => [])
  | .fill q _ v => (9, q, leBytes 8 v.toNat)
  | .fillV q _ v => (10, q, v.image)
  | .fillG _ v => (11, 0, leBytes 64 v.toNat)
  | .store space a bytes => (12 + space.number, a, bytes)
  | .atomSp a size op c v _ => (15, a, dwordBytes [size, op, c.toNat, v.toNat])
  | .zflags b n _ => (16, b, leBytes 8 n)
  | .gates lo hi up => (17, lo, dwordBytes [hi, bit up])
  | .abInit k n => (18, k, leBytes 8 n)
  | .abExp k n => (19, k, leBytes 8 n)
  | .abArv k n => (20, k, leBytes 8 n)
  | .shadow n v => (21, n, leBytes 8 v.toNat)
  | .armReplay r => (22, 0, leBytes 8 r.toNat)
  | .zeroLive replay => (23, 0, leBytes 8 (bit replay))
  | .zeroTile t => (24, t, [])
  | .tile t _ r _ => (25, t, leBytes 8 r.toNat)
  | .pushR vs => (26, vs.length, dwordBytes (vs.map (·.toNat)))
  | .map a bytes vs => (27, a, bytes ++ dwordBytes (vs.map (·.toNat)))
  | .wrow t r _ vals => (28, 64 * t + r, vals.flatMap fun v => leBytes 4 v.toNat)
  | .nest => (29, 0, [])

/-- An entry of the landing list in 544 bytes: destination, the vc that remain until it lands, its signal and engine, and its value (R231). -/
def Pending.image (p : Pending) (left : Nat) : List Byte :=
  let x := p.op.image
  padBytes 544 (leBytes 4 x.1 ++ leBytes 4 x.2.1 ++ leBytes 8 left ++ leBytes 4 p.sig ++ leBytes 4 p.eng.code ++ x.2.2)

/-- The landing list, what stands in a handler's first, with the vc that remain to each entry. -/
def Croft.landingImages (c : Croft) : List (List Byte) :=
  (match c.frame with | some f => f.land.map fun p => p.image p.due | none => []) ++ c.lands.map fun p => p.image (p.due - c.vclock)

/-- A pending landing buffer in 16,448 bytes: its tile and record, then its elements (R232, R237). -/
def LandOp.buffer : LandOp → Option (List Byte)
  | .tile t rows r _ => some (padBytes 64 (dwordBytes [t, r.toNat]) ++ padBytes 16384 (wordsBytes rows))
  | _ => none

/-- A QV entry in its header and runs, padded to 64 bytes (R237). -/
def VReg.entryImage (v : VReg) : List Byte :=
  padBytes (64 * ceilDiv (8 + 8 * v.runs.length) 64) (dwordBytes ((packedDwords v).map (·.toNat)))

/-- The variable part of a context (R237): landing buffers, QV entries, the entries of the landing list beyond the 64th. -/
def Croft.moreImage (c : Croft) : List Byte :=
  (c.inFlight.filterMap fun p => p.op.buffer).flatten ++ (c.qv.toList.flatMap fun q => q.filterMap (·.val)).flatMap VReg.entryImage
    ++ (c.landingImages.drop 64).flatten

/-- The contents of a context's part as cells (R237). -/
def Saved.part (v : Saved) (p : ContextPart) : Memory :=
  let c := v.croft
  let at_ (l : List Byte) : Memory := cellsAt p.offset (padBytes p.bytes l)
  match p with
  | .header => at_ (dwordBytes [v.owner, v.source, c.overlay.handle, (match c.mode with | .fixed => 0 | .score => 1), bit c.frame.isSome, c.vclock])
  | .registers => at_ (dwordBytes (c.s.toList.map (·.toNat) ++ c.shadow.toList.map (·.toNat) ++ c.b.toList.map (·.toNat) ++ c.contextCrs))
  | .queues => at_ (slotBytes 8 (c.qc.map fun x => (x.val.getD 0).toNat) ++ slotBytes 8 (c.qa.map (·.toNat)) ++ slotBytes 8 (c.qs.map (·.toNat))
      ++ slotBytes 8 (c.qr.map (·.toNat)) ++ slotBytes 64 (c.qg.map fun x => (x.val.getD 0).toNat))
  | .entries => at_ ((entriesOf c.queues).flatMap (QEntry.image v.words))
  | .generation => at_ (GenPart.all.flatMap c.genPart)
  | .vregs => at_ (c.v.toList.flatMap VReg.image)
  | .live => at_ ((List.range 4096).flatMap c.live.image)
  | .fifos => at_ c.fifoImage
  | .trapFrame => at_ (c.frameImage v.words)
  | .mill => at_ c.millImage
  | .landing => at_ (c.landingImages.take 64).flatten
  | .acm => shifted p.offset c.acm
  | .scratchpad => shifted p.offset c.sp
  | .zero => []

/-- The context in memory (R237): its fixed part, then its variable part at 0x26_1000. -/
def Saved.image (v : Saved) : Memory := ContextPart.all.flatMap v.part ++ cellsAt contextFixed v.croft.moreImage

end Sys2Proof.Machine
end

