-- ==== Sys2Proof/Machine/Service.lean ====
section
/-! DEFINITION. What Sillu does for a croft: system faults and held writes (R195, R232, R241), memory errors (R233, R234), the SVC
services (R340, R341), bells (R272), pre-emption and restoration (R235 to R238). -/

namespace Sys2Proof.Machine

/-! ### System faults (R232) -/

/-- A halt that Sillu's answer lifts. -/
def Halt.lift (h : Halt) : Halt := if h == .sillu then .no else h

/-- Sillu resolves a croft's system fault: whatever it stopped goes on at its restart point. -/
def Croft.resume (c : Croft) : Croft :=
  { c with
    freeze := { c.freeze with sys := none }
    copyq := c.copyq.map fun (k : CopyCmd) => { k with halt := k.halt.lift }
    indexq := c.indexq.map fun (k : IndexCmd) => { k with halt := k.halt.lift }
    genq := c.genq.map fun (k : GenCmd) => { k with halt := k.halt.lift }
    accs := c.accs.map fun (a : Access) => { a with halt := a.halt.lift } }

/-- A halt that a fault's delivery to the handler keeps until ERET. -/
def Halt.deliver (h : Halt) : Halt := if h == .sillu then .faulted else h

/-- Sillu gives a croft's system fault to its handler: whatever it stopped stays stopped until ERET (R232). -/
def Croft.giveFault (c : Croft) : Croft :=
  { c with
    freeze := { c.freeze with sys := none }
    copyq := c.copyq.map fun (k : CopyCmd) => { k with halt := k.halt.deliver }
    indexq := c.indexq.map fun (k : IndexCmd) => { k with halt := k.halt.deliver }
    genq := c.genq.map fun (k : GenCmd) => { k with halt := k.halt.deliver }
    accs := c.accs.map fun (a : Access) => { a with halt := a.halt.deliver } }

/-- The croft with A's next instruction holding some operands. -/
def Croft.keepWith (c : Croft) (q : QEntry) (i : Instr) (ops : List Word64) : Croft :=
  c.setQueue .A ((c.queue .A).map fun p => if p == q then { p with item := .ins i ops } else p)

/-- The ATOM or STQ that stands next on A takes the operands it popped before its translation failed: they stay with it for the retry
(R221, R339). -/
def Croft.keepOperands (c : Croft) : Croft :=
  match c.nextOf .A with
  | none => c
  | some q =>
    match q.item with
    | .ins (.atom t o x) [] =>
      if atomPops x ≤ c.qa.length then ({ c with qa := c.qa.drop (atomPops x) } : Croft).keepWith q (.atom t o x) (c.qa.take (atomPops x)) else c
    | .ins (.stq t o x) [] =>
      match c.qs with
      | v :: qs => ({ c with qs := qs } : Croft).keepWith q (.stq t o x) [v]
      | [] => c
    | _ => c

/-- Deliver a system fault to the handler as a program fault with the same code (R232): with ASYNC where a command raised it, at the vc of
the packet that could not issue where an instruction did. -/
def State.deliverFault (s : State) (n : Nat) (f : SysFault) : State :=
  let c := (s.croft n).giveFault
  if !c.canRaise then s
  else
    let r : Raised := { flt := { code := f.code, aux := f.aux, addr := f.addr }, eng := f.eng, pc := f.pc, seq := f.seq }
    match f.async, f.access with
    | some _, _ => (s.setCroft n c).raiseAt n c.freeVc { r with async := true }
    | none, some _ => (s.setCroft n c).raiseAt n c.freeVc r
    | none, none => (s.setCroft n c.keepOperands).raiseAt n c.nextVc r

/-- A spilled page of an owner is mapped at an address. -/
def Spilled.at_ (p : Spilled) (o page : Nat) : Bool := p.owner == o && p.maps.any fun x => x.1 == page

/-- Bring a spilled page back to a stack of the module, at its virtual addresses (R195, R241): none where no page is left. Where no stack has the
sectors it comes to the home stack all the same (DESIGN CHOICE, log 47). -/
def State.bringBack (s : State) (p : Spilled) : Option State :=
  let home := s.homeStack p.owner
  let st := if s.sectorsFit p.owner home 64 then home else (s.roomStack p.owner home 64).getD home
  ((s.openPaths p.owner 4 (p.maps.map (·.1))).bind fun s => s.newPages p.owner st 1).bind fun (h, s) =>
    let s := { (s.putPage h p.bytes p.bad).touchPage h with spilled := s.spilled.filter (· != p) }
    p.maps.foldlM (fun s x => s.mapLeaf p.owner x.1 4 (leafAt x.2 h)) s

/-- The leaf of a first-touch page (R241): W and CMP. -/
def touchLeaf (h : Nat) : BitVec 64 := BitVec.ofNat 64 (2 ^ 63 + 2 ^ 62 + 2 ^ 59 + 2 ^ 57 + h)

/-- Map a zero page at an address of first-touch space (R241): none where no page is left. -/
def State.firstTouch (s : State) (o va : Nat) : Option State :=
  ((s.openPaths o 4 [va]).bind fun s => s.newPages o (s.homeStack o) 1).bind fun (h, s) =>
    (s.owners.find o).bind fun w => (s.setOwner o { w with mapped := w.mapped + 8192 }).mapLeaf o va 4 (touchLeaf h)

/-- An address stands in the owner's first-touch space, and its page keeps the logical space (R241, R373). -/
def Owner.mayTouch (w : Owner) (va : Nat) : Bool :=
  w.ftbase ≤ va && va < w.ftbase + w.ftlen && w.mapped + 8192 ≤ w.space

/-- Sillu serves a TRANSNP (R241). The croft just resumes where the page has been mapped since, as it is where another croft's fault on it was
served first. Where no page is left the handler takes the fault (DESIGN CHOICE, log 62). -/
def State.serveMissing (s : State) (n o : Nat) (w : Owner) (f : SysFault) : State :=
  let a := f.missing.getD f.addr
  let page := a / 8192 * 8192
  let go (r : Option State) : State := match r with | some s => s.setCroft n (s.croft n).resume | none => s.deliverFault n f
  if (s.walk [] o a).leaf.isSome then go (some s)
  else match s.spilled.find? fun p => p.at_ o page with
    | some p => go (s.bringBack p)
    | none => go (if w.mayTouch a then s.firstTouch o page else none)

/-- An owner's use summed over all stacks exceeds its reserves summed over all stacks (R195). -/
def State.overAll (s : State) (o : Nat) : Bool :=
  (List.range 16).foldl (fun k st => k + s.res o st) 0 < (List.range 16).foldl (fun k st => k + s.use o st) 0

/-- Sillu moves an owner's pages off a stack until a page's sectors fit there (R195). -/
def State.movePages (s : State) (o st : Nat) : State :=
  balloon (fun s => s.sectorsFit o st 64) ((s.pagesOn o st).map fun p => fun (s : State) => s.spill o st p.2) s

/-- Sillu serves an OUTOFSPACE (R195). -/
def State.serveSpace (s : State) (n o : Nat) (f : SysFault) : State :=
  if s.overAll o then s.deliverFault n f
  else
    let s := s.movePages o f.aux
    s.setCroft n (s.croft n).resume

/-- SILLU_FAULT_SERVICE (R232). -/
def State.serveFault (s : State) (n : Nat) : State :=
  let c := s.croft n
  match c.freeze.sys, c.owner.bind fun o => (s.owners.find o).map fun w => (o, w) with
  | some f, some (o, w) =>
    match f.code with
    | .transnp => s.serveMissing n o w f
    | .outofspace => s.serveSpace n o f
    | _ => s.deliverFault n f
  | _, _ => s

/-- SILLU_FAULT_SERVICE (R232). -/
def execSilluFaultService (n : Nat) : State → Host.Outcome State Fault Refusal := event fun s => s.serveFault n

/-! ### Held writes (R193, R195) -/

/-- A held write is let go. -/
def State.letGo (s : State) (n : Nat) : State :=
  { s.setCroft n { s.croft n with freeze := { (s.croft n).freeze with held := none } } with holds := s.holds.filter (· != n) }

/-- A held write tries again. -/
def State.retryWrite (s : State) (n : Nat) (h : Hold) : State :=
  match h.who with
  | .access id => match (s.croft n).accs.find? fun a => a.id == id with | some a => s.perform n a | none => s
  | .command .copy => s.copyStep n
  | .command .index => s.indexStep n
  | .command .gen => s.genStep n

/-- A hold goes on since a cy. -/
def Croft.heldSince (c : Croft) (t : Nat) : Croft :=
  { c with freeze := { c.freeze with held := c.freeze.held.map fun (h : Hold) => { h with since := t } } }

/-- A held write tries again in its turn: the sectors it had obtained are its own, only writes held before it keep sectors from it, and where it is
held again it keeps its place and its time (R195, R198). -/
def State.retryHeld (s : State) (n : Nat) (h : Hold) : State :=
  let later := (s.holds.dropWhile (· != n)).drop 1
  let s := ({ s.letGo n with holds := s.holds.takeWhile (· != n) } : State).retryWrite n h
  let s := { s with holds := s.holds ++ later }
  if (s.croft n).freeze.held.isSome then s.setCroft n ((s.croft n).heldSince h.since) else s

/-- A held write gets its sectors now. -/
def State.mayGrant (s : State) (n : Nat) (h : Hold) : Bool := ((s.retryHeld n h).croft n).freeze.held.isNone

/-- The stacks of which a held write lacks sectors now. -/
def State.lackNow (s : State) (n : Nat) (h : Hold) : List Nat :=
  match ((s.retryHeld n h).croft n).freeze.held with | some h' => h'.lacking | none => []

/-- The balloon engine of a stack works for croft n's held write until it lacks no sectors there, where no write held before it waits for the stack
(R195). -/
def State.balloonFor (s : State) (n : Nat) (h : Hold) (st : Nat) : State :=
  if s.stackHeld (s.holds.takeWhile (· != n)) st then s else balloon (fun s => !(s.lackNow n h).contains st) (s.balloonSteps st) s

/-- HELD_WRITE_GRANT (R195, R198): on each stack that the write lacks sectors of now, the balloon engine works for the first write held there; a write
that fits performs, and another obtains what it can. -/
def State.grantHeld (s : State) (n : Nat) : State :=
  match (s.croft n).freeze.held with
  | none => s
  | some h =>
    ((s.lackNow n h).foldl (fun s st => s.balloonFor n h st) s).retryHeld n h

/-- HELD_WRITE_GRANT (R195). -/
def execHeldWriteGrant (n : Nat) : State → Host.Outcome State Fault Refusal := event fun s => s.grantHeld n

/-- Where a path's front command stands, and with what it is stopped. -/
def Croft.haltFront (c : Croft) (p : Path) : Option (Nat × Nat × Eng × Croft) :=
  match p with
  | .copy => match c.copyq with | k :: r => some (k.pc, k.seq, .A, { c with copyq := { k with halt := .sillu } :: r }) | [] => none
  | .index => match c.indexq with | k :: r => some (k.pc, k.seq, .X, { c with indexq := { k with halt := .sillu } :: r }) | [] => none
  | .gen => match c.genq with | k :: r => some (k.pc, k.seq, .G, { c with genq := { k with halt := .sillu } :: r }) | [] => none

/-- OUTOFSPACE of a held write at 4,096 cy (R195, R225). Where another system fault of the croft awaits Sillu, that one goes first, and the write is
held afresh when it performs again (DEDUCED, log 86). -/
def State.timeoutHeld (s : State) (n : Nat) : State :=
  match (s.croft n).freeze.held with
  | none => s
  | some h =>
    let s := s.letGo n
    let c := s.croft n
    if c.freeze.sys.isSome then s
    else
      match h.who with
      | .access id =>
        match c.accs.find? fun x => x.id == id with
        | none => s
        | some x =>
          (s.setCroft n (c.setAccess { x with halt := .sillu })).raiseSys n
            { code := .outofspace, addr := h.addr, aux := h.lacking.headD 0, eng := .A, pc := x.pc, seq := x.seq, write := true, access := some id }
      | .command p =>
        match c.haltFront p with
        | none => s
        | some (pc, seq, e, c) =>
          (s.setCroft n c).raiseSys n { code := .outofspace, addr := h.addr, aux := h.lacking.headD 0, eng := e, pc := pc, seq := seq, write := true, async := some p }

/-- HOLD_TIMEOUT (R195). -/
def execHoldTimeout (n : Nat) : State → Host.Outcome State Fault Refusal := event fun s => s.timeoutHeld n

/-! ### Memory errors (R233, R234) -/

/-- The owner's ECCFREEZE record: at most one per croft in each 2^24 cy, counted in rounds of 128 cy, with the freezes since the last. -/
def State.eccRecord (s : State) (n : Nat) : State :=
  let c := s.croft n
  let due := match c.eccTold with | none => true | some t => 2 ^ 17 ≤ s.round - t
  match c.owner with
  | none => s
  | some o =>
    if due then
      let r : Record := ⟨recordWord .eccfreeze c.eccs, 0, n, o, 0, c.vclock⟩
      (s.setCroft n { c with eccs := 0, eccTold := some s.round }).send (.record o r)
    else s

/-- The croft's slots and its clock stand until 24 cy after an error at cy t (R147, R233): those of a freeze that still lasts then, or has not
reached the clock yet, are put off further; a clock that runs stops. -/
def Croft.eccStand (c : Croft) (t : Nat) : Croft :=
  let d := t + 24 - Nat.max c.stand t
  { c.idleTo (t + 24) with
    stand := t + 24
    now := if c.freeze.ecc || t < c.stand then c.now + d else Nat.max t c.now
    freeze := { c.freeze with ecc := c.freeze.ecc || c.stand ≤ t } }

/-- ECC_CORRECTABLE (R233) at the present cy: a freeze begins, the Mill having used its slots before and the clock having run until now; or one
goes on until 24 cy after this error. Sillu gets a record for each freeze. -/
def State.eccFreeze (s : State) (n : Nat) : State :=
  let c := ((s.croft n).catchUp s.time).millTo s.time
  let stood := c.eccStand s.time
  if s.time < c.stand then s.setCroft n stood
  else ((s.setCroft n { stood with eccs := c.eccs + 1 }).record n false (recordWord .eccfreeze 1) 0 0).eccRecord n

/-- ECC_CORRECTABLE (R233). -/
def execEccCorrectable (n : Nat) : State → Host.Outcome State Fault Refusal := event fun s => s.eccFreeze n

/-- The end of an ECC freeze (R233): the croft's clock stood for 24 cy. -/
def Croft.eccEnd (c : Croft) : Croft :=
  if c.freeze.ecc then { c with freeze := { c.freeze with ecc := false }, now := c.now + 24 } else c

/-- ECC_FREEZE_END (R233). -/
def execEccFreezeEnd (n : Nat) : State → Host.Outcome State Fault Refusal := croftEvent n Croft.eccEnd

/-- The 64-byte unit of HBM that an owner address of a croft reads (R198). -/
def State.unitOf (s : State) (n va : Nat) : Option Nat :=
  ((s.croft n).owner.bind fun o => let r := s.walk [] o va; r.leaf.map fun e => (r.level, e)).map fun x =>
    (readStack x.2 (n / 64) (leafHandle x.2 x.1 va) * 8192 + va % 8192) / 64

/-- SRAM_UNCORRECTABLE (R234): an error in croft SRAM makes a POISON record with the space code and Sillu ends the issue; one in HBM
poisons its 64-byte unit. -/
def State.poisonAt (s : State) (n : Nat) (w : Word64) : State :=
  match splitAddr w with
  | some (.owner, a) =>
    match s.unitOf n a with
    | some u => { s with hbmPoison := if s.hbmPoison.contains u then s.hbmPoison else s.hbmPoison ++ [u] }
    | none => s
  | some (space, a) =>
    let s := s.setCroft n ((s.croft n).catchUp s.time)
    (s.record n true (recordWord .poison (bitsOf w 57 56)) (joinAddr space (a / 64 * 64)).toNat 0).endIssue n
  | none => s

/-- SRAM_UNCORRECTABLE (R234). -/
def execSramUncorrectable (n : Nat) (w : BitVec 64) : State → Host.Outcome State Fault Refusal := event fun s => s.poisonAt n w

/-! ### Services (R340, R341) -/

/-- The scratchpad byte at which a service's argument range starts: none where it breaks R341. -/
def Croft.svcRange (c : Croft) (w : Word64) (n : Nat) (write : Bool) : Option Nat :=
  match splitAddr w with
  | some (.sp, a) =>
    let mine : List Rng := [⟨a, n⟩]
    let clash (p : Phase) : Bool := (sharedByte mine (if write then p.reads ++ p.writes else p.writes)).isSome
    if a % 64 == 0 && c.spReach ⟨a, n, write⟩ && !c.phases.toList.any clash then some a else none
  | _ => none

/-- A range touches a bank that still wakes. -/
def Croft.svcWaits (c : Croft) (a n : Nat) : Bool := (banksOf a n).any c.gateWaits

/-- What a service answers: the module after it and its status; none while it waits for a bank to wake. -/
abbrev Served := Option (State × Word64)

/-- Service 1 on its argument block (R270, R341): the context advances, and the mask of its state is queued for delivery. -/
def State.askMask (s : State) (n : Nat) (b : List Byte) : Option State :=
  let ok := byteField b 0 1 ≤ 15 && zeroBytes b 1 3 && zeroBytes b 0x0C 4 && zeroBytes b 0x1C 36
  let h := byteField b 0x10 8
  let tok := byteField b 0x18 4
  match (s.croft n).owner.bind fun o => (s.owners.find o).map fun w => (o, w) with
  | none => none
  | some (o, w) =>
    match w.contexts.find h with
    | none => none
    | some x =>
      match w.grammars.find x.grammar with
      | none => none
      | some g =>
        if !ok then none
        else
          let st := if tok == 0xFFFFFFFF then x.state else g.advance x.state tok
          let q : MaskReq := ⟨n, byteField b 0 1, byteField b 4 4, byteField b 8 4, g.mask st⟩
          some (s.setOwner o { w with contexts := w.contexts.put h { x with state := st }, masks := w.masks ++ [q] })

/-- Service 1, the grammar-mask request. -/
def State.svcMask (s : State) (n : Nat) (w : Word64) : Served :=
  let c := s.croft n
  match c.svcRange w 64 false with
  | none => some (s, 1)
  | some a =>
    if c.svcWaits a 64 then none
    else match s.askMask n (c.sp.readN a 64) with
      | none => some (s, 1)
      | some s => some (s, 0)

/-- A monitor as service 2 writes it. -/
def Monitor.bytes (m : Monitor) : List Byte := leBytes 8 m.lo ++ leBytes 8 m.hi ++ (List.range 32).flatMap fun i => leBytes 4 (m.bins.get 0 i)

/-- The owner's snapshot set of a croft (R271, R341). -/
def State.snapBytes (s : State) (n : Nat) : List Byte :=
  let c := s.croft n
  let gran := match c.owner.bind s.owners.find with | some w => (w.granSnap.find (n / 64)).getD {} | none => {}
  c.snapO.copy.bytes ++ c.snapO.walk.bytes ++ c.snapO.mill.bytes ++ gran.bytes ++ c.snapO.slow.bytes ++ List.replicate 48 0

/-- Service 2, the monitor snapshot read. -/
def State.svcSnap (s : State) (n : Nat) (w : Word64) : Served :=
  let c := s.croft n
  match c.svcRange w 768 true with
  | none => some (s, 1)
  | some a => if c.svcWaits a 768 then none else some (s.setCroft n (c.spWrite a (s.snapBytes n)), 0)

/-- What Sillu does for service k (R341). -/
def State.serve (s : State) (n k : Nat) (w : Word64) : Served :=
  match k with
  | 0 => some (s, 0)
  | 1 => s.svcMask n w
  | 2 => s.svcSnap n w
  | _ => some (s, BitVec.allOnes 64)

/-- SVC_SERVICE_DONE (R340): the status enters S[a], the SVC finishes, the croft resumes. -/
def State.svcDone (s : State) (n : Nat) : State :=
  match (s.croft n).freeze.svc with
  | none => s
  | some (k, a, w, sig) =>
    match s.serve n k w with
    | none => s
    | some (s, status) =>
      let c := s.croft n
      let c := { c with freeze := { c.freeze with svc := none }, s := if a == 0 then c.s else vset c.s a status }
      s.setCroft n (c.pushSig .C sig)

/-- SVC_SERVICE_DONE (R340). -/
def execSvcServiceDone (n : Nat) : State → Host.Outcome State Fault Refusal := event fun s => s.svcDone n

/-! ### Bells (R272) -/

/-- A bell copies a croft's live monitors into the set that its owner reads. -/
def Croft.latchO (c : Croft) : Croft := { c with snapO := c.mons }

/-- A bell copies a croft's live monitors into the set that Sillu reads. -/
def Croft.latchS (c : Croft) : Croft := { c with snapS := c.mons }

/-- The bell of an owner: one SNAP's ring, at the snapshot sets its owner reads; it reaches the monitors kept for its pre-empted crofts (R337). -/
def State.ringOwner (s : State) (o : Nat) : State :=
  match s.owners.find o with
  | none => s
  | some w =>
    match w.crofts.find? fun n => 0 < (s.croft n).bells with
    | none => s
    | some m =>
      let s := s.setCroft m { s.croft m with bells := (s.croft m).bells - 1 }
      let s := w.crofts.foldl (fun s n => s.setCroft n (s.croft n).latchO) s
      let s := { s with saved := s.saved.map fun (p : Nat × Saved) => if p.2.owner == o then (p.1, { p.2 with croft := p.2.croft.latchO }) else p }
      s.setOwner o { w with granSnap := w.granLive }

/-- Sillu's bell (R272): every croft's and every owner's set that Sillu reads, the free pools' and the count of dropped packets. -/
def State.ringAll (s : State) : State :=
  { s with
    crofts := s.crofts.map fun p => (p.1, p.2.latchS)
    saved := s.saved.map fun (p : Nat × Saved) => (p.1, { p.2 with croft := p.2.croft.latchS })
    owners := s.owners.map fun p => (p.1, { p.2 with granSillu := p.2.granLive })
    dropSnap := s.dropped, poolSnap := s.poolLive }

/-- BELL_RING (R272). -/
def execBellRing (b : Bell) : State → Host.Outcome State Fault Refusal :=
  event fun s => match b with | .owner o => s.ringOwner o | .package => s.ringAll

/-! ### Pre-emption (R235 to R238, R257) -/

/-- What a context holds (R235 to R237): a freeze ends first, the nest stands at its next K-step boundary, a held write and a system fault
are saved as accesses and commands to perform afresh, a BAR that waits is an unissued entry, and instruction memory is not saved. -/
def Croft.context (c : Croft) : Croft :=
  let c := c.resume.stepEnd
  { c with
    freeze := { c.freeze with ecc := false, held := none }
    furrow := c.furrow.map fun (u : Furrow) => { u with barTry := none }
    imem := [], tlb := [] }

/-- What stays with a croft whatever context it holds: its owner, contract and plan, its slots and counts, its caches. Its monitors go with the
context (R337; DEDUCED, log 102). -/
def Croft.keepPlace (here c : Croft) : Croft :=
  { c with
    owner := here.owner, contract := here.contract, grade := here.grade, want := here.want, share := here.share, plan := here.plan
    planSt := here.planSt, rise := here.rise, riseOn := here.riseOn, slots := here.slots, slot := here.slot, stand := here.stand
    used := here.used, now := here.now, bells := here.bells, eccs := here.eccs, eccTold := here.eccTold, tlb := here.tlb
    imem := here.imem, released := here.released, vacated := here.vacated, zeroing := here.zeroing }

/-- Mask requests follow their croft's context. -/
def MaskReq.move (source n : Nat) (q : MaskReq) : MaskReq := if q.croft == source then { q with croft := n } else q

/-- What others keep under a croft's number follows its context: registrations of COLLs, and mask requests. -/
def State.moveContext (s : State) (o source n : Nat) : State :=
  let s := s.moveRegs source n
  match s.owners.find o with
  | none => s
  | some w => s.setOwner o { w with masks := w.masks.map (MaskReq.move source n) }

/-- PREEMPT (R235): the croft's context is saved, and the croft takes no furrow until a context or a release reaches it. -/
def State.preempt (s : State) (n : Nat) : State :=
  let c := ((s.croft n).catchUp s.time).millTo s.time
  match c.owner with
  | none => s
  | some o =>
    if c.zeroing then s
    else
      let id := s.nextSaved
      let s := s.setCroft n { c.keepPlace Croft.reset with vacated := true }
      let s := { s with saved := s.saved.put id { owner := o, source := n, croft := c.context, words := c.contextWords }, nextSaved := id + 1, holds := s.holds.filter (· != n) }
      s.moveContext o n (awayCroft id)

/-- PREEMPT (R235). -/
def execPreempt (n : Nat) : State → Host.Outcome State Fault Refusal := event fun s => s.preempt n

/-- A croft may take a saved context (R238): held by the same owner, idle, its contracted share in force. -/
def Croft.mayRestore (c : Croft) (o : Nat) : Bool :=
  c.owner == some o && !c.zeroing && c.furrow.isNone && c.nextFur.isNone && c.copyq.isEmpty && c.indexq.isEmpty && c.genq.isEmpty
    && c.accs.isEmpty && c.queuesEmpty && (c.contract == 0 || 0 < c.share)

/-- A context goes on at a croft (R237, R238): the overlay is reloaded, and the clock restarts at the next round boundary, before which no slot
is the croft's. -/
def Croft.takeContext (here c : Croft) (v : Option Loaded) (t : Nat) : Croft :=
  { here.keepPlace c with
    imem := match v with | some v => here.imem.writeN 0 v.code | none => here.imem
    now := Nat.max here.now t, slot := t, slots := 0, vacated := false }

/-- RESTORE (R238): the context goes on at croft n with its VCLOCK, landing list and nest as saved; the source croft is released. -/
def State.restore (s : State) (id n : Nat) : State :=
  match s.saved.find id with
  | none => s
  | some v =>
    let c := s.croft n
    if !c.mayRestore v.owner then s
    else
      let ov := (s.owners.find v.owner).bind fun w => w.overlays.find v.croft.overlay.handle
      let s := s.setCroft v.source { s.croft v.source with vacated := false }
      let s := s.setCroft n ((s.croft n).takeContext v.croft ov (128 * s.round))
      ({ s with saved := s.saved.del id } : State).moveContext v.owner (awayCroft id) n

/-- RESTORE (R238). -/
def execRestore (id n : Nat) : State → Host.Outcome State Fault Refusal := event fun s => s.restore id n

end Sys2Proof.Machine
end

