-- ==== Sys2Proof/Machine/Fetch.lean ====
section
/-! DEFINITION. The splitter (R35, R48, R55 to R59, R258): one word of the stream at a time, into the queue of its engine. -/

namespace Sys2Proof.Machine

/-- An engine's queue has room for one more instruction (R35). -/
def Croft.engRoom (c : Croft) (e : Eng) : Bool := ((c.queue e).filter QEntry.counts).length < e.depth

/-- Add an entry at the end of an engine's queue. -/
def Croft.enqueue (c : Croft) (e : Eng) (q : QEntry) : Croft := c.setQueue e (c.queue e ++ [q])

/-- A word at which the splitter stops for good (R55, R56, R59): it faults on C, and no later word enters any queue. The fault is taken at the head of
C's queue, in FIXED mode at the vc of the packet of which the word is the member of C: of an eng-0 word, an extension word that attaches to none, and the
end of the overlay, the spec names no packet (DESIGN CHOICE, log 108). -/
def Croft.splitBad (c : Croft) (pc : Nat) (code : FCode) (addr : Nat) : Croft :=
  if c.engRoom .C then
    { c.enqueue .C ⟨c.seq, pc, .bad code addr⟩ with seq := c.seq + 1, split := { pc := pc, stopped := true, seq := c.seq } }
  else c

/-- What an instruction word becomes in its queue: the instruction, or the fault of its encoding at the queue's head (R57, R66). -/
def itemOf (w : Word32) (x : Ext) : Item :=
  match decodeWord w x with
  | .ok i => .ins i []
  | .error (.enc .illext _) => .bad .illext 0
  | .error _ => .bad .illop 0

/-- The engine in whose queue a PHASE places its marker (R48, R333). -/
def Item.markerEng : Item → Option Eng
  | .ins (.phase _ o _) _ => some (phaseEng o.d)
  | _ => none

/-- The target of a JMP or CALL that the splitter follows at once (R258, R285, R311): one inside the overlay. -/
def Croft.jumpTarget (c : Croft) (pc : Nat) (q : Item) : Option Nat :=
  match q with
  | .ins (.jmp _ o x) _ | .ins (.call _ o x) _ =>
    let t := (pc : Int) + o.offset x
    if 0 ≤ t && t < c.overlay.len then some t.toNat else none
  | _ => none

/-- Where the splitter stands after an instruction word. -/
def Croft.splitAfter (c : Croft) (pc : Nat) (w : Word32) (q : Item) : Split :=
  if stopsSplit w then { pc := pc + 1, stopped := true, seq := c.seq }
  else if isJump w then
    match c.jumpTarget pc q with
    | some t => { pc := t }
    | none => { pc := pc + 1, stopped := true, seq := c.seq }
  else { pc := pc + 1 }

/-- Split an instruction word with its extension words. -/
def Croft.splitIns (c : Croft) (e : Eng) (pc : Nat) (w : Word32) (x : Ext) : Croft :=
  if c.engRoom e then
    let q := itemOf w x
    let s := c.splitAfter pc w q
    let c := c.enqueue e ⟨c.seq, pc, q⟩
    let c := match q.markerEng with
      | some m => c.enqueue m ⟨c.seq, pc, .marker none⟩
      | none => c
    { c with seq := c.seq + 1, split := s }
  else c

/-- Split the next word of the stream (R35). -/
def Croft.splitWord (c : Croft) : Croft :=
  let pc := c.split.pc
  if (c.furrow.isNone && c.frame.isNone) || c.split.stopped then c
  else if c.overlay.len ≤ pc then c.splitBad c.overlay.len .bounds c.overlay.len
  else
    let w := c.wordAt pc
    if isExtWord w then
      match c.split.ext.push (w.extractLsb' 0 29) with
      | none => c.splitBad pc .illext 0
      | some x =>
        if pc + 1 == c.overlay.len then c.splitBad pc .illext 0
        else { c with split := { pc := pc + 1, ext := x } }
    else match engOf w with
      | none => c.splitBad pc .illop 0
      | some e => c.splitIns e pc w c.split.ext

/-- SPLIT_WORD (R35). -/
def execSplitWord (n : Nat) : State → Host.Outcome State Fault Refusal := croftEvent n Croft.splitWord

end Sys2Proof.Machine
end

