-- ==== Sys2Proof/Machine/Dispatch.lean ====
section
/-! DEFINITION. What every instruction and event of the opcode table does: one arm per constructor of `Instr`. -/

namespace Sys2Proof.Machine

/-- The meaning of an instruction or event. -/
def exec (i : Instr) (s : State) : Host.Outcome State Fault Refusal :=
  match i with
  | .boot => Sys2Proof.Machine.execBoot s
  | .thermalWarning die => Sys2Proof.Machine.execThermalWarning die s
  | .thermalShutdown => Sys2Proof.Machine.execThermalShutdown s
  | .admission m => Sys2Proof.Machine.execAdmit m s
  | .revoke m => Sys2Proof.Machine.execRevoke m s
  | .opkey m => Sys2Proof.Machine.execOpkey m s
  | .image m => Sys2Proof.Machine.execImage m s
  | .floor m => Sys2Proof.Machine.execFloor m s
  | .load m => Sys2Proof.Machine.execLoad m s
  | .launch m => Sys2Proof.Machine.execLaunch m s
  | .launchQueueEntry owner => Sys2Proof.Machine.execLaunchQueueEntry owner s
  | .unload m => Sys2Proof.Machine.execUnload m s
  | .quote m => Sys2Proof.Machine.execQuote m s
  | .cert m => Sys2Proof.Machine.execCert m s
  | .grammar m => Sys2Proof.Machine.execGrammar m s
  | .context m => Sys2Proof.Machine.execContext m s
  | .drop m => Sys2Proof.Machine.execDrop m s
  | .unsupportedPacket => Sys2Proof.Machine.execUnsupportedPacket s
  | .furrowDispatch die => Sys2Proof.Machine.execFurrowDispatch die s
  | .overlaySwap croft => Sys2Proof.Machine.execOverlaySwap croft s
  | .splitWord croft => Sys2Proof.Machine.execSplitWord croft s
  | .resultLanding croft => Sys2Proof.Machine.execResultLanding croft s
  | .phaseMarkerEffect croft e => Sys2Proof.Machine.execPhaseMarkerEffect croft e s
  | .roundBoundary => Sys2Proof.Machine.execRoundBoundary s
  | .risingPlanInstall core => Sys2Proof.Machine.execRisingPlanInstall core s
  | .millKstep croft => Sys2Proof.Machine.execMillKstep croft s
  | .nestLanding croft => Sys2Proof.Machine.execNestLanding croft s
  | .nestBreach croft => Sys2Proof.Machine.execNestBreach croft s
  | .copyQueueStart croft => Sys2Proof.Machine.execCopyQueueStart croft s
  | .collGenerationForm owner cnum => Sys2Proof.Machine.execCollGenerationForm owner cnum s
  | .blockDecode croft => Sys2Proof.Machine.execBlockDecode croft s
  | .genQueueStart croft => Sys2Proof.Machine.execGenQueueStart croft s
  | .indexQueueStart croft => Sys2Proof.Machine.execIndexQueueStart croft s
  | .commandCompletion croft p => Sys2Proof.Machine.execCommandCompletion croft p s
  | .walkComplete croft n => Sys2Proof.Machine.execWalkComplete croft n s
  | .ownerAccessComplete croft n => Sys2Proof.Machine.execOwnerAccessComplete croft n s
  | .heldWriteGrant croft => Sys2Proof.Machine.execHeldWriteGrant croft s
  | .holdTimeout croft => Sys2Proof.Machine.execHoldTimeout croft s
  | .silluFaultService croft => Sys2Proof.Machine.execSilluFaultService croft s
  | .eccCorrectable croft => Sys2Proof.Machine.execEccCorrectable croft s
  | .eccFreezeEnd croft => Sys2Proof.Machine.execEccFreezeEnd croft s
  | .sramUncorrectable croft addr => Sys2Proof.Machine.execSramUncorrectable croft addr s
  | .preempt croft => Sys2Proof.Machine.execPreempt croft s
  | .restore saved croft => Sys2Proof.Machine.execRestore saved croft s
  | .budgetExpiry croft => Sys2Proof.Machine.execBudgetExpiry croft s
  | .maskDeadline croft => Sys2Proof.Machine.execMaskDeadline croft s
  | .maskDelivery croft => Sys2Proof.Machine.execMaskDelivery croft s
  | .svcServiceDone croft => Sys2Proof.Machine.execSvcServiceDone croft s
  | .bellRing b => Sys2Proof.Machine.execBellRing b s
  | .bankWakeEnd croft bank => Sys2Proof.Machine.execBankWakeEnd croft bank s
  | .bankPowerOff croft bank => Sys2Proof.Machine.execBankPowerOff croft bank s
  | .vpushTransfer croft => Sys2Proof.Machine.execVpushTransfer croft s
  | .stqEntryPop croft => Sys2Proof.Machine.execStqEntryPop croft s
  | .add t o x => Sys2Proof.Machine.execAdd t o x s
  | .sub t o x => Sys2Proof.Machine.execSub t o x s
  | .mul t o x => Sys2Proof.Machine.execMul t o x s
  | .mulh t o x => Sys2Proof.Machine.execMulh t o x s
  | .divn t o x => Sys2Proof.Machine.execDivn t o x s
  | .remn t o x => Sys2Proof.Machine.execRemn t o x s
  | .and t o x => Sys2Proof.Machine.execAnd t o x s
  | .or t o x => Sys2Proof.Machine.execOr t o x s
  | .xor t o x => Sys2Proof.Machine.execXor t o x s
  | .shl t o x => Sys2Proof.Machine.execShl t o x s
  | .shr t o x => Sys2Proof.Machine.execShr t o x s
  | .sha t o x => Sys2Proof.Machine.execSha t o x s
  | .min t o x => Sys2Proof.Machine.execMin t o x s
  | .max t o x => Sys2Proof.Machine.execMax t o x s
  | .minn t o x => Sys2Proof.Machine.execMinn t o x s
  | .maxn t o x => Sys2Proof.Machine.execMaxn t o x s
  | .clz t o x => Sys2Proof.Machine.execClz t o x s
  | .popc t o x => Sys2Proof.Machine.execPopc t o x s
  | .slt t o x => Sys2Proof.Machine.execSlt t o x s
  | .sltn t o x => Sys2Proof.Machine.execSltn t o x s
  | .li t o x => Sys2Proof.Machine.execLi t o x s
  | .beq t o x => Sys2Proof.Machine.execBeq t o x s
  | .bne t o x => Sys2Proof.Machine.execBne t o x s
  | .blt t o x => Sys2Proof.Machine.execBlt t o x s
  | .bge t o x => Sys2Proof.Machine.execBge t o x s
  | .bltn t o x => Sys2Proof.Machine.execBltn t o x s
  | .bgen t o x => Sys2Proof.Machine.execBgen t o x s
  | .jmp t o x => Sys2Proof.Machine.execJmp t o x s
  | .call t o x => Sys2Proof.Machine.execCall t o x s
  | .ret t o x => Sys2Proof.Machine.execRet t o x s
  | .jtab t o x => Sys2Proof.Machine.execJtab t o x s
  | .trap t o x => Sys2Proof.Machine.execTrap t o x s
  | .eret t o x => Sys2Proof.Machine.execEret t o x s
  | .svcNone t o x => Sys2Proof.Machine.execSvcNone t o x s
  | .grammarMaskRequest t o x => Sys2Proof.Machine.execGrammarMaskRequest t o x s
  | .monitorSnapshotRead t o x => Sys2Proof.Machine.execMonitorSnapshotRead t o x s
  | .svcUnassigned t o x => Sys2Proof.Machine.execSvcUnassigned t o x s
  | .waite t o x => Sys2Proof.Machine.execWaite t o x s
  | .bar t o x => Sys2Proof.Machine.execBar t o x s
  | .mode t o x => Sys2Proof.Machine.execMode t o x s
  | .gap t o x => Sys2Proof.Machine.execGap t o x s
  | .phase t o x => Sys2Proof.Machine.execPhase t o x s
  | .rdcr t o x => Sys2Proof.Machine.execRdcr t o x s
  | .wrcrQstat t o x => Sys2Proof.Machine.execWrcrQstat t o x s
  | .wrcrHandler t o x => Sys2Proof.Machine.execWrcrHandler t o x s
  | .wrcrRngseed t o x => Sys2Proof.Machine.execWrcrRngseed t o x s
  | .done t o x => Sys2Proof.Machine.execDone t o x s
  | .abwait t o x => Sys2Proof.Machine.execAbwait t o x s
  | .snap t o x => Sys2Proof.Machine.execSnap t o x s
  | .bli t o x => Sys2Proof.Machine.execBli t o x s
  | .badd t o x => Sys2Proof.Machine.execBadd t o x s
  | .bmad t o x => Sys2Proof.Machine.execBmad t o x s
  | .bmov t o x => Sys2Proof.Machine.execBmov t o x s
  | .ldq t o x => Sys2Proof.Machine.execLdq t o x s
  | .stq t o x => Sys2Proof.Machine.execStq t o x s
  | .atom t o x => Sys2Proof.Machine.execAtom t o x s
  | .copy t o x => Sys2Proof.Machine.execCopy t o x s
  | .copyd t o x => Sys2Proof.Machine.execCopyd t o x s
  | .coll t o x => Sys2Proof.Machine.execColl t o x s
  | .glsend t o x => Sys2Proof.Machine.execGlsend t o x s
  | .fence t o x => Sys2Proof.Machine.execFence t o x s
  | .fencesc t o x => Sys2Proof.Machine.execFencesc t o x s
  | .zflag t o x => Sys2Proof.Machine.execZflag t o x s
  | .bankgate t o x => Sys2Proof.Machine.execBankgate t o x s
  | .pginv t o x => Sys2Proof.Machine.execPginv t o x s
  | .pgprobe t o x => Sys2Proof.Machine.execPgprobe t o x s
  | .abinit t o x => Sys2Proof.Machine.execAbinit t o x s
  | .abexp t o x => Sys2Proof.Machine.execAbexp t o x s
  | .abarv t o x => Sys2Proof.Machine.execAbarv t o x s
  | .mtab t o x => Sys2Proof.Machine.execMtab t o x s
  | .mrun t o x => Sys2Proof.Machine.execMrun t o x s
  | .mrunb t o x => Sys2Proof.Machine.execMrunb t o x s
  | .mlowr t o x => Sys2Proof.Machine.execMlowr t o x s
  | .mzero t o x => Sys2Proof.Machine.execMzero t o x s
  | .mdrain t o x => Sys2Proof.Machine.execMdrain t o x s
  | .mjoin t o x => Sys2Proof.Machine.execMjoin t o x s
  | .mrec t o x => Sys2Proof.Machine.execMrec t o x s
  | .mreplay t o x => Sys2Proof.Machine.execMreplay t o x s
  | .mfire t o x => Sys2Proof.Machine.execMfire t o x s
  | .mage t o x => Sys2Proof.Machine.execMage t o x s
  | .mplace t o x => Sys2Proof.Machine.execMplace t o x s
  | .vadd t o x => Sys2Proof.Machine.execVadd t o x s
  | .vsub t o x => Sys2Proof.Machine.execVsub t o x s
  | .vmul t o x => Sys2Proof.Machine.execVmul t o x s
  | .vfma t o x => Sys2Proof.Machine.execVfma t o x s
  | .vmin t o x => Sys2Proof.Machine.execVmin t o x s
  | .vmax t o x => Sys2Proof.Machine.execVmax t o x s
  | .vabs t o x => Sys2Proof.Machine.execVabs t o x s
  | .vneg t o x => Sys2Proof.Machine.execVneg t o x s
  | .vcmp t o x => Sys2Proof.Machine.execVcmp t o x s
  | .vsel t o x => Sys2Proof.Machine.execVsel t o x s
  | .vand t o x => Sys2Proof.Machine.execVand t o x s
  | .vor t o x => Sys2Proof.Machine.execVor t o x s
  | .vxor t o x => Sys2Proof.Machine.execVxor t o x s
  | .vnot t o x => Sys2Proof.Machine.execVnot t o x s
  | .vshl t o x => Sys2Proof.Machine.execVshl t o x s
  | .vshr t o x => Sys2Proof.Machine.execVshr t o x s
  | .vrnd t o x => Sys2Proof.Machine.execVrnd t o x s
  | .vscalb t o x => Sys2Proof.Machine.execVscalb t o x s
  | .vgexp t o x => Sys2Proof.Machine.execVgexp t o x s
  | .vgman t o x => Sys2Proof.Machine.execVgman t o x s
  | .vcvt t o x => Sys2Proof.Machine.execVcvt t o x s
  | .vcvp t o x => Sys2Proof.Machine.execVcvp t o x s
  | .vqnt t o x => Sys2Proof.Machine.execVqnt t o x s
  | .vdqnt t o x => Sys2Proof.Machine.execVdqnt t o x s
  | .vred t o x => Sys2Proof.Machine.execVred t o x s
  | .vscan t o x => Sys2Proof.Machine.execVscan t o x s
  | .vcoal t o x => Sys2Proof.Machine.execVcoal t o x s
  | .vlen t o x => Sys2Proof.Machine.execVlen t o x s
  | .vsplat t o x => Sys2Proof.Machine.execVsplat t o x s
  | .vcat t o x => Sys2Proof.Machine.execVcat t o x s
  | .vslice t o x => Sys2Proof.Machine.execVslice t o x s
  | .vext t o x => Sys2Proof.Machine.execVext t o x s
  | .vins t o x => Sys2Proof.Machine.execVins t o x s
  | .vpop t o x => Sys2Proof.Machine.execVpop t o x s
  | .vpush t o x => Sys2Proof.Machine.execVpush t o x s
  | .vrda t o x => Sys2Proof.Machine.execVrda t o x s
  | .vwra t o x => Sys2Proof.Machine.execVwra t o x s
  | .vmov t o x => Sys2Proof.Machine.execVmov t o x s
  | .vcnt t o x => Sys2Proof.Machine.execVcnt t o x s
  | .viota t o x => Sys2Proof.Machine.execViota t o x s
  | .xgath t o x => Sys2Proof.Machine.execXgath t o x s
  | .xscat t o x => Sys2Proof.Machine.execXscat t o x s
  | .xscadd t o x => Sys2Proof.Machine.execXscadd t o x s
  | .xbag t o x => Sys2Proof.Machine.execXbag t o x s
  | .gseed t o x => Sys2Proof.Machine.execGseed t o x s
  | .gshort t o x => Sys2Proof.Machine.execGshort t o x s
  | .gslow t o x => Sys2Proof.Machine.execGslow t o x s
  | .gsamp t o x => Sys2Proof.Machine.execGsamp t o x s
  | .gmask t o x => Sys2Proof.Machine.execGmask t o x s
  | .gbudg t o x => Sys2Proof.Machine.execGbudg t o x s
  | .gacpt t o x => Sys2Proof.Machine.execGacpt t o x s
  | .gdraft t o x => Sys2Proof.Machine.execGdraft t o x s
  | .gstage t o x => Sys2Proof.Machine.execGstage t o x s
  | .gcomp t o x => Sys2Proof.Machine.execGcomp t o x s
  | .unassignedOpcode e => Sys2Proof.Machine.execUnassignedOpcode e s
  | .zeroingComplete croft => Sys2Proof.Machine.execZeroingComplete croft s
  | .junctionTemperatureFall => Sys2Proof.Machine.execJunctionTemperatureFall s

end Sys2Proof.Machine
end

