-- ==== Sys2Proof/Machine/Cycle.lean ====
section
/-! DEFINITION. One step of the module (R42 to R47): what is due before a croft's next packet, the packet or SCORE cycle itself, the work
that goes on meanwhile, and the order in which the model takes them (DESIGN CHOICE, log 1). -/

namespace Sys2Proof.Machine

/-! ### Events -/

/-- The next state of an outcome, the old one where it stops. -/
def nextOr (s : State) (o : Host.Outcome State Fault Refusal) : State :=
  match o with
  | .next t => t
  | _ => s

/-- The first of some events that changes the module. -/
def State.firstThat (s : State) (l : List Instr) : Option State :=
  l.findSome? fun i => let t := nextOr s (exec i s); if t = s then none else some t

/-- The first of some groups of the acting croft's events in which one changes the module, from a place on; the croft's next search begins behind that group, so that every
event that stays possible comes about (R222; DESIGN CHOICE, log 1). -/
def State.firstGroup (s : State) (l : List (Nat × List Instr)) : Option State :=
  let from_ := s.cur.spin
  let l := (l.filter fun g => from_ ≤ g.1) ++ l.filter fun g => g.1 < from_
  l.findSome? fun g => (s.firstThat g.2).map fun t => t.setCur { t.cur with spin := g.1 + 1 }

/-- Put an item in a list where a condition holds. -/
def when_ {α : Type} (b : Bool) (l : List α) : List α := if b then l else []

/-! ### Running an entry of a queue -/

/-- Run an entry taken from its engine's queue: an instruction by its meaning, a word that the splitter could not decode by its fault, at once
even where the engine waits to push an earlier signal (DESIGN CHOICE, log 103). -/
def State.runEntry (s : State) (e : Eng) (q : QEntry) : State :=
  let c := s.cur
  let kept := match q.item with | .ins _ k => k | _ => []
  let s := s.setCur { c.setQueue e ((c.queue e).erase q) with
    issuePc := q.pc, issueSeq := q.seq, kept := kept, waited := false, faulted := false }
  match q.item with
  | .ins i _ => nextOr s (exec i s)
  | .bad code addr => s.takeFault s.me { flt := { code := code, addr := addr }, eng := e, pc := q.pc, seq := q.seq, retry := some q }
  | .marker _ => s

/-! ### A FIXED packet (R43, R45, R223, R224, R334) -/

/-- A packet as it is issued: the module with its members so far issued, the same before its first member with the phases of markers
that its own PHASE opens, the module as its C member left it, what waiting members leave, whether one waits, whether one other than a BAR does,
and the earliest fault. -/
structure Cut where
  go    : State
  base  : State
  mark  : State
  note  : State
  waits : Bool := false
  held  : Bool := false
  bad   : Option (Nat × State) := none

/-- A fault joins a packet: the one whose word stands earliest in the stream is kept (R224). -/
def Cut.addBad (x : Cut) (seq : Nat) (s : State) : Cut :=
  match x.bad with
  | some (n, _) => if n ≤ seq then x else { x with bad := some (seq, s) }
  | none => { x with bad := some (seq, s) }

/-- What an instruction that waits leaves of its attempt: walks it started, a BAR it stands at, a system fault that goes to Sillu, an arrival
that a WAITE has popped (R363). -/
def State.noteWait (s r : State) : State :=
  let c := s.cur
  s.setCur { c.setQueue .C (r.cur.queue .C) with
    walks := r.cur.walks, furrow := r.cur.furrow, freeze := r.cur.freeze, arv := r.cur.arv, waited := true }

/-- Open the phase of a marker in the croft that acts. -/
def State.openPhase (s : State) (e : Eng) (p : Phase) : State := s.setCur (s.cur.openPhase e p)

/-- The marker that stands before an engine's next instruction. -/
def Croft.markerBefore (c : Croft) (e : Eng) : Option (QEntry × Option Phase) :=
  match c.queue e with
  | q :: _ => match q.item with | .marker p => some (q, p) | _ => none
  | [] => none

/-- A fault of a member, taken where none of the packet has issued: phases and markers stand as before the packet. -/
def State.faultAlone (s0 x r : State) (e : Eng) (q : QEntry) : State :=
  let t := x.runEntry e q
  if t.cur.faulted then
    t.setCur { t.cur with
      phases := s0.cur.phases
      frame := t.cur.frame.map fun (f : Frame) => if x.cur.phases == s0.cur.phases then f else { f with queues := s0.cur.queues } }
  else r

/-- An entry is a BAR. -/
def QEntry.isBar (q : QEntry) : Bool := match q.item with | .ins (.bar ..) _ => true | _ => false

/-- Run a member of a packet after others. A transfer that a VPUSH of the packet starts is no reason for its C member to wait (R159, R163). -/
def State.runMember (s0 g : State) (e : Eng) (q : QEntry) : State :=
  if e == .C && s0.cur.vpush.isNone then
    let r := (g.setCur { g.cur with vpush := none }).runEntry e q
    r.setCur { r.cur with vpush := g.cur.vpush }
  else g.runEntry e q

/-- Try a member that no marker holds. -/
def Cut.try_ (s0 : State) (x : Cut) (e : Eng) (q : QEntry) : Cut :=
  let r := s0.runMember x.go e q
  if r.cur.faulted then x.addBad q.seq (s0.faultAlone x.base r e q)
  else if r.cur.waited then { x with waits := true, held := x.held || !q.isBar, note := x.note.noteWait (x.note.runEntry e q) }
  else { x with go := r, mark := if e == .C then r else x.mark }

/-- The next member of a packet. A marker before it takes effect first where its PHASE has issued, in an earlier packet or in this one; a
PHASE that faults leaves no marker to wait for. -/
def Cut.member (s0 : State) (x : Cut) (p : Eng × QEntry) : Cut :=
  match x.go.cur.markerBefore p.1 with
  | none => x.try_ s0 p.1 p.2
  | some (m, none) => if (match x.bad with | some (n, _) => n == m.seq | none => false) then x else { x with waits := true, held := true }
  | some (m, some ph) =>
    if !x.go.cur.phaseQuiet p.1 then { x with waits := true, held := true }
    else match x.go.cur.phaseClash p.1 ph with
      | none => ({ x with go := x.go.openPhase p.1 ph, base := x.base.openPhase p.1 ph } : Cut).try_ s0 p.1 p.2
      | some a => x.addBad m.seq (x.mark.raiseAt s0.me s0.cur.vclock (markerFault p.1 m a))

/-- The clock moves to the next packet's vc, and the one after it is due 1 vc later (R43). -/
def Croft.tick (c : Croft) : Croft := { c with vclock := c.nextVc, nextVc := c.nextVc + 1, atVc := c.nextVc, waited := false, faulted := false }

/-- What a packet that waits leaves: a BAR in it counts as arrived only where nothing else keeps it from issuing (R281; DEDUCED, log 10). -/
def Cut.waiting (s : State) (x : Cut) : State := if x.held then x.note.setCur { x.note.cur with furrow := s.cur.furrow } else x.note

/-- Issue a packet: all its members at one vc, or none while one of them waits (R45), or the earliest fault alone (R223). The flag tells
whether the clock went on. -/
def State.issuePacket (s : State) (l : List (Eng × QEntry)) : State × Bool :=
  let s0 := s.setCur s.cur.tick
  let x := l.foldl (Cut.member s0) { go := s0, base := s0, mark := s0, note := s }
  if x.waits then (x.waiting s, false)
  else match x.bad with
    | some (_, t) => (t, true)
    | none => (x.go, true)

/-! ### A SCORE cycle (R46, R335) -/

/-- A fixed-latency instruction that can raise a flag of QSTAT. -/
def canFlag : Instr → Bool
  | .vadd .. | .vsub .. | .vmul .. | .vfma .. | .vred .. | .vscan .. | .vcvt .. | .vcvp .. | .vscalb .. | .vqnt .. | .vdqnt .. | .vwra ..
  | .mrun .. | .mlowr .. | .mdrain .. | .mjoin .. => true
  | .atom _ _ x => atomOp x == 10
  | _ => false

/-- The B register that an instruction writes (R279). -/
def writesB : Instr → Option Nat
  | .bli _ o _ | .badd _ o _ | .bmad _ o _ | .bmov _ o _ => some o.d.toNat
  | _ => none

/-- A B register has a write before a place in the stream that has not landed. -/
def Croft.baseDue (c : Croft) (seq b : Nat) : Bool :=
  c.lands.any (fun p => p.seq < seq && writesB p.ins == some b)
    || (c.queue .A).any fun q => q.seq < seq && match q.item with | .ins i _ => writesB i == some b | _ => false

/-- An unissued instruction of fixed latency that can raise a flag of QSTAT. An ATOM is one where it goes to scratchpad (R75, R278), or may yet,
since its base register still changes (DEDUCED, log 117). -/
def Croft.willFlag (c : Croft) (q : QEntry) : Bool :=
  match q.item with
  | .ins (.atom t o x) _ =>
    canFlag (.atom t o x) && (c.baseDue q.seq o.b.toNat || match splitAddr (c.ea o.b x) with | some (space, _) => space == .sp | none => false)
  | .ins i _ => canFlag i
  | _ => false

/-- A read or write of QSTAT waits for every earlier fixed-latency instruction that can raise a flag (R335, R364). -/
def Croft.flagsDue (c : Croft) (seq : Nat) : Bool :=
  c.lands.any (fun p => p.seq < seq && canFlag p.ins) || Eng.all.any fun e => (c.queue e).any fun q => q.seq < seq && c.willFlag q

/-- The scoreboard holds an entry: it names a register with an earlier write of its engine in flight (R46, R259, R316, R335). -/
def Croft.scoreHold (c : Croft) (e : Eng) (q : QEntry) : Bool :=
  match q.item with
  | .ins i _ =>
    let us := usesOf i
    c.lands.any (fun p => p.eng == e && p.writes.any us.contains)
      || (match i with | .rdcr _ o _ => o.k == 3 && c.flagsDue q.seq | .wrcrQstat .. => c.flagsDue q.seq | _ => false)
  | _ => false

/-- The heads of the engine queues in stream order, markers left out. -/
def Croft.heads (c : Croft) : List (Eng × QEntry) :=
  (Eng.all.filterMap fun e => (c.queue e).head?.bind fun q => if q.counts then some (e, q) else none).foldl (fun l a => insertEntry a l) []

/-- The place in the stream of an engine's next word. -/
def Croft.nextSeq (c : Croft) (e : Eng) : Option Nat := (c.queue e).head?.map fun q => q.seq

/-- The system fault of A's next word, where it would be taken now (R224). -/
def State.sysOf (s : State) : Option State :=
  match (s.cur.queue .A).head? with
  | some q =>
    if !q.counts || s.cur.scoreHold .A q then none
    else let r := s.runEntry .A q; if r.cur.freeze.sys.isSome then some r else none
  | none => none

/-- One engine's turn in a cycle: the module, whether anything has issued, whether a fault ends the cycle. A system fault of the cycle, which A's
word of the cycle alone can raise, comes before a program fault (R224). -/
def scoreOne (a : Option Nat) (x : State × Bool × Bool) (p : Eng × QEntry) : State × Bool × Bool :=
  let (s, moved, done) := x
  if done || s.cur.freeze != {} || s.cur.scoreHold p.1 p.2 then x
  else
    let r := s.runEntry p.1 p.2
    if r.cur.faulted then
      match (if s.cur.nextSeq .A == a then s.sysOf else none) with
      | some t => (t, moved, true)
      | none => (r, true, true)
    else (r, moved || !r.cur.waited, false)

/-- A handler's first word issues once every result issued before the fault has landed (R223). -/
def Croft.endDrain (c : Croft) : Croft := { c with frame := c.frame.map fun (f : Frame) => { f with drain := false } }

/-- A handler's entry still waits for earlier results. -/
def Croft.entryDrains (c : Croft) : Bool := (match c.frame with | some f => f.drain | none => false) && !c.lands.isEmpty

/-- The splitter takes up to n more words (R35). -/
def Croft.splitAhead : Nat → Croft → Croft
  | 0, c => c
  | n + 1, c => Croft.splitAhead n c.splitWord

/-- A SCORE cycle: up to four words are split (R35), then each engine issues from the head of its queue where it can. The flag tells
whether anything has moved. -/
def State.scoreCycle (s : State) : State × Bool :=
  let s0 := s.setCur (Croft.splitAhead 4 s.cur.tick)
  let grew := s0.cur.split != s.cur.split || s0.cur.seq != s.cur.seq
  if s0.cur.entryDrains then (s0, grew)
  else
    let s1 := s0.setCur s0.cur.endDrain
    let r := s1.cur.heads.foldl (scoreOne (s1.cur.nextSeq .A)) (s1, false, false)
    (r.1, r.2.1 || grew)

/-! ### What goes on between packets -/

/-- The banks of a croft at a gate state. -/
def Croft.banksAt (c : Croft) (g : Gate) : List Nat := (List.range 32).filter fun b => c.gate b == g

/-- The COLL at the front of a croft's copy queue, as its owner and collective number. -/
def Croft.frontColl (c : Croft) : List Instr :=
  match c.copyFront, c.owner with
  | some k, some o => match k.kind with | .coll _ _ _ _ cnum _ _ _ => [.collGenerationForm o cnum] | _ => []
  | _, _ => []

/-- The events of croft n's units and of Sillu that may come at cy t, by kind, in the order in which the model tries them. -/
def Croft.events (c : Croft) (n t : Nat) : List (Nat × List Instr) :=
  (indexed [
    when_ c.zeroing [.zeroingComplete n],
    when_ c.freeze.ecc [.eccFreezeEnd n],
    match c.freeze.held with | some h => .heldWriteGrant n :: when_ (h.since + 4096 ≤ t) [.holdTimeout n] | none => [],
    when_ c.freeze.sys.isSome [.silluFaultService n],
    when_ c.freeze.svc.isSome [.svcServiceDone n],
    when_ (!c.walks.isEmpty) [.walkComplete n 0],
    (c.banksAt .waking).map fun b => .bankWakeEnd n b,
    when_ c.vpush.isSome [.vpushTransfer n],
    when_ c.stq.isSome [.stqEntryPop n],
    (List.range c.accs.length).map fun k => .ownerAccessComplete n k,
    when_ (!c.copyq.isEmpty) [.commandCompletion n .copy, .copyQueueStart n, .blockDecode n],
    c.frontColl,
    when_ (!c.indexq.isEmpty) [.commandCompletion n .index, .indexQueueStart n],
    when_ (!c.genq.isEmpty) [.commandCompletion n .gen, .genQueueStart n],
    when_ (!c.genq.isEmpty) [.maskDelivery n],
    when_ (c.rise.isSome && !c.riseOn) [.risingPlanInstall (n / 4)],
    (c.banksAt .falling).map fun b => .bankPowerOff n b,
    match c.owner with | some o => when_ (0 < c.bells) [.bellRing (.owner o)] | none => []])

/-- The head of the landing list is due and may not land yet: a nest that still runs (R147). -/
def Croft.landBlocked (c : Croft) : Bool := match c.lands with | p :: _ => p.due ≤ c.landLimit && !c.mayLand p | [] => false

/-- A croft has work for the next round boundary: a nest not yet closed, or a change of plan (R144). -/
def Croft.wantsRound (c : Croft) : Bool :=
  (match c.nest with | some n => n.k < n.steps || !n.closed | none => false) || c.plan.isSome || c.riseOn

/-- An event of the acting croft's units. -/
def State.background (s : State) : Option State := s.firstGroup (s.cur.events s.me s.time)

/-! ### What is due before the next packet -/

/-- The engine whose marker takes effect next: the one whose PHASE stands earliest in the stream (R49). -/
def Croft.markerNext (c : Croft) : Option Eng :=
  (Eng.all.foldl (fun o e =>
    match c.marker e, o with
    | some (q, _), none => some (e, q.seq)
    | some (q, _), some (f, n) => if q.seq < n then some (e, q.seq) else some (f, n)
    | none, o => o) none).map (·.1)

/-- A GMASK's deadline has passed (R250). -/
def Croft.maskOver (c : Croft) : Bool :=
  match c.genq with
  | k :: _ => k.op == 4 && k.done == 1 && k.fin.isNone && k.halt == .no && k.deadline < c.vcNow
  | [] => false

/-- The next pop of an STQ is due by the vc the clock has reached. -/
def Croft.popDue (c : Croft) : Bool := match c.stq with | some r => r.at_ ≤ c.landLimit | none => false

/-- What an attempt that did not issue leaves, where it leaves anything new. -/
def State.attempt (s t : State) : Option State :=
  let c := { t.cur with vclock := s.cur.vclock, nextVc := s.cur.nextVc, atVc := s.cur.atVc, waited := s.cur.waited }
  if c.walks == s.cur.walks && c.furrow == s.cur.furrow && c.freeze == s.cur.freeze && c.arv == s.cur.arv then none else some (t.setCur c)

/-- A system fault of the packet or cycle that the clock stands at, which comes before every program fault due there (R224). -/
def State.sysFirst (s : State) : Option State :=
  let c := s.cur
  if c.drains || c.entryDrains then none
  else match c.mode with
    | .score => s.sysOf
    | .fixed =>
      if c.atVc != c.nextVc then none
      else let r := s.issuePacket c.packet; if !r.2 && r.1.cur.freeze.sys.isSome then s.attempt r.1 else none

/-- The fault of a word of a SCORE cycle that stands before a place in the stream, the earliest one: it comes before a fault at landing of that
place due in the same cy (R224). -/
def State.wordFirst (s : State) (seq : Nat) : Option State :=
  let s := s.setCur s.cur.tick
  s.cur.heads.findSome? fun p =>
    if seq ≤ p.2.seq || s.cur.scoreHold p.1 p.2 then none
    else let r := s.runEntry p.1 p.2; if r.cur.faulted then some r else none

/-- The fault of a word of the SCORE cycle at hand that comes before a fault due there (R224). -/
def State.scoreFirst (s : State) (seq : Nat) : Option State :=
  if s.cur.mode == .score && !s.cur.entryDrains then s.wordFirst seq else none

/-- An engine's marker takes effect; one that fails its check does so after a system fault, and a fault of an earlier word, due there (R224). -/
def State.markerTurn (s : State) (e : Eng) : State :=
  let t := nextOr s (exec (.phaseMarkerEffect s.me e) s)
  match s.cur.marker e with
  | some (q, p) => if (s.cur.phaseClash e p).isSome then (s.sysFirst.or (s.scoreFirst q.seq)).getD t else t
  | none => t

/-- The vc of the fault of a marker that fails its check now (R334). -/
def Croft.markVc (c : Croft) : Nat := match c.mode with | .fixed => c.freeVc | .score => c.nextVc

/-- The croft with every result due by vc t landed that does not fault there. -/
def Croft.landGood (c : Croft) (t : Nat) : Croft :=
  let r := c.landDue t
  { r.1 with lands := r.2.foldl (fun l p => insertPending p l) r.1.lands }

/-- The fault of a marker that fails at vc t and whose PHASE stands before a place in the stream: it comes before a fault of that place due there
(R224, R334). -/
def State.markerFirst (s : State) (t seq : Nat) : Option State :=
  let c := s.cur.landGood t
  match c.markerNext.bind fun e => (c.marker e).map fun m => (e, m) with
  | some (e, q, p) =>
    if q.seq < seq && (c.phaseClash e p).isSome && c.markVc == t && c.canRaise then some ((s.setCur c).markerTurn e) else none
  | none => none

/-- The fault of the packet or cycle at hand, or of an earlier PHASE's marker, that comes before the fault at landing due there (R224), if one
does. -/
def State.landLater (s : State) : Option State :=
  match s.cur.nextLanding with
  | some p =>
    if (s.cur.landFault p).isNone then none else (s.sysFirst.or (s.markerFirst p.due p.seq)).or (s.scoreFirst p.seq)
  | none => none

/-- The vc at which a budget's end raises BUDGET (R251). -/
def Croft.budgetVc (c : Croft) (b : Budget) : Nat := match c.mode with | .fixed => Nat.max c.vclock b.due | .score => c.vclock

/-- BUDGET at a budget's end, where no system fault and no earlier PHASE's marker comes before it at its vc (R224). -/
def State.budgetTurn (s : State) (b : Budget) : State :=
  let t := s.cur.budgetVc b
  let sys := if s.cur.mode == .fixed && t == s.cur.nextVc then s.sysFirst else none
  (sys.or (s.markerFirst t b.seq)).getD (nextOr s (exec (.budgetExpiry s.me) s))

/-- What the acting croft does at the vc it has reached before its next packet, in order: a budget's end, a landing, a swap, a marker, a mask's
deadline, a pop of an STQ. -/
def State.timely (s : State) : Option State :=
  let c := s.cur
  let n := s.me
  match c.budget.bind fun b => if c.budgetOver b && c.canRaise then some b else none with
  | some b => some (s.budgetTurn b)
  | none =>
    if c.nextLanding.isSome then some (s.landLater.getD (nextOr s (exec (.resultLanding n) s)))
    else if (match s.nextOverlay c with | some (v, _) => c.swapReady v.ov | none => false) then some (nextOr s (exec (.overlaySwap n) s))
    else match c.markerNext with
      | some e => some (s.markerTurn e)
      | none =>
        if c.maskOver then some (nextOr s (exec (.maskDeadline n) s))
        else if c.popDue && !c.qs.isEmpty then some (nextOr s (exec (.stqEntryPop n) s))
        else none

/-- The least of some vc above a given one. -/
def nextAbove (t : Nat) (l : List Nat) : Option Nat :=
  (l.filter (t < ·)).foldl (fun o d => match o with | none => some d | some x => some (Nat.min x d)) none

/-- The vc at which a result in flight lands or an STQ pops. -/
def Croft.resultVcs (c : Croft) : List Nat := c.lands.map (·.due) ++ c.stq.toList.map (·.at_)

/-- The vc of a mask's deadline and of a budget's end. -/
def Croft.deadlineVcs (c : Croft) : List Nat :=
  (match c.genq with | k :: _ => when_ (k.op == 4 && k.done == 1) [k.deadline + 1] | [] => [])
    ++ (match c.budget with | some b => [b.due, b.due + 1] | none => [])

/-- The next vc at which something is due on a croft. While it drains, only results are (R322). -/
def Croft.dueVc (c : Croft) : Option Nat :=
  if c.mode == .fixed && c.drains then nextAbove c.landLimit c.resultVcs else nextAbove c.landLimit (c.resultVcs ++ c.deadlineVcs)

/-- The clock stands: the landing due is a nest's that still runs (R148), or an STQ's pop finds QS empty (R164). -/
def Croft.stands (c : Croft) : Bool := c.landBlocked || (c.popDue && c.qs.isEmpty)

/-- In FIXED mode the clock moves to a vc; while the croft drains, the vc of its next packet stays (R322). -/
def Croft.moveTo (c : Croft) (t : Nat) : Croft := { c with atVc := t, nextVc := if c.drains then c.nextVc else Nat.max c.nextVc t }

/-! ### One croft -/

/-- A MODE that has drained completes (R322). -/
def State.endMode (s : State) (q : QEntry) : State :=
  match q.item with
  | .ins (.mode t o _) _ => s.setCur ((s.cur.enterMode (modeOf o.k)).pushSig .C t.sig.toNat)
  | _ => s

/-- After a packet or cycle of its own the croft's units are due a turn (R222). -/
def State.dueTurn (s : State) : State := s.setCur { s.cur with turn := true }

/-- A FIXED croft at the vc it has reached: the clock moves on to what is due before its next packet, the packet issues, or what goes on where
there is none or it cannot issue. -/
def State.fixedTurn (s : State) : Option State :=
  let c := s.cur
  if c.stands then s.background
  else if c.atVc < c.nextVc then some (s.setCur (c.moveTo (match c.dueVc with | some d => Nat.min d c.nextVc | none => c.nextVc)))
  else match c.packet with
    | [] => s.background.or (c.dueVc.map fun d => s.setCur (c.moveTo d))
    | l =>
      let r := s.issuePacket l
      if r.2 then some r.1.dueTurn
      else match r.1.background with
        | some t => some t
        | none => s.attempt r.1

/-- A FIXED croft that drains (R31, R322): each result lands once its remaining vc have passed. -/
def State.drainTurn (s : State) : Option State :=
  let c := s.cur
  if c.stands then s.background
  else match c.dueVc with
    | some d => some (s.setCur (c.moveTo d))
    | none => s.background

/-- A SCORE croft's next cycle; where nothing moves, its clock runs on to what is due (R47). -/
def State.scoreTurn (s : State) : Option State :=
  let r := s.scoreCycle
  if r.2 then some r.1.dueTurn
  else match r.1.background with
    | some t => some t
    | none =>
      match s.attempt r.1 with
      | some t => some t
      | none => s.cur.dueVc.map fun d => s.setCur { s.cur with vclock := d - 1, nextVc := d }

/-- An event of the units before the next packet. A program fault of a command comes in FIXED mode once the clock has reached the vc of that packet,
after a system fault due there (R224). -/
def State.unitsEvent (s : State) : Option State :=
  match (s.setCur { s.cur with faulted := false }).background with
  | none => none
  | some t =>
    if !t.cur.faulted || s.cur.mode == .score then some t
    else if s.cur.atVc < s.cur.freeVc then none
    else some (s.sysFirst.getD t)

/-- The units' turn: after each packet or cycle they get one. -/
def State.unitsTurn (s : State) : Option State :=
  if s.cur.turn then s.unitsEvent.map fun t => t.setCur { t.cur with turn := false } else none

/-- In FIXED mode the splitter works ahead of the packets (R35): a packet's words need no vc (R43). -/
def Croft.fixedSplit (c : Croft) : Croft := match c.mode with | .fixed => Croft.splitAhead 24 c | .score => c

/-- What a croft does of itself before anything else: the splitter works ahead, and an issue's preload takes effect at its first vc (R293). -/
def Croft.begun (c : Croft) : Croft :=
  let c := c.fixedSplit
  if c.atVc == c.nextVc then c.preloaded else c

/-- A write that the Granary holds waits on for up to a round's length, 4,096 cy in all (R195), while other crofts act. -/
def State.holdOn (s : State) : Option State :=
  match s.cur.freeze.held with
  | some h => if s.time < h.since + 4096 then some (s.setCur { s.cur with now := Nat.min (s.time + 128) (h.since + 4096) }) else none
  | none => none

/-- One step of the acting croft in its order; none where it has nothing to do. -/
def State.croftOwn (s : State) : Option State :=
  let s := s.setCur s.cur.begun
  let c := s.cur
  if (c.kstep (c.millCy s.time)).isSome then some (nextOr s (exec (.millKstep s.me) s))
  else if c.breached s.time then some (nextOr s (exec (.nestBreach s.me) s))
  else if c.freeze != {} then s.background.or s.holdOn
  else if c.autoDue then some (s.setCur c.autoEret)
  else if c.reissue && c.drained && c.frame.isNone then some (s.setCur c.startIssue)
  else
    match c.draining with
    | some q => if c.drained then some (s.endMode q) else s.timely.or s.drainTurn
    | none =>
      match s.timely with
      | some t => some t
      | none =>
        match s.unitsTurn with
        | some t => some t
        | none =>
          match c.mode with
          | .fixed => if c.drains then s.drainTurn else s.fixedTurn
          | .score => s.scoreTurn

/-- A scratchpad write of A in flight performs before its landing, which then brings the rest: its signal, and an ATOM's reply. -/
def Croft.performEarly (c : Croft) (p : Pending) : Croft :=
  let put (c : Croft) (op : LandOp) : Croft := { c with lands := c.lands.map fun (q : Pending) => if q == p then { q with op := op } else q }
  match p.eng, p.op with
  | .A, .store .sp a bytes => (put c .nothing).spWrite a bytes
  | .A, .atomSp a size op cmp v reply =>
    (put c (match reply with | some id => .fill 0 id (BitVec.ofNat 64 (c.sp.le a size)) | none => .nothing)).landAtom a size op cmp v none
  | _, _ => c

/-- What a croft that could not go on else brings about (R52): in FIXED mode A's scratchpad writes in flight, which cannot land while the clock
stands (R45), perform, so that what is ordered behind them can (DEDUCED, log 94), and a handler's words may pass what goes on only after ERET
(DEDUCED, log 93). -/
def Croft.press (c : Croft) : Croft :=
  let c := match c.mode with | .fixed => (c.lands.foldl Croft.performEarly c).pruneFences | .score => c
  { c with pressed := true }

/-- A step of a croft that could not go on else. -/
def State.pressStep (s : State) : Option State :=
  if s.cur.freeze == {} then (s.setCur s.cur.press).croftOwn.map fun t => t.setCur { t.cur with pressed := false } else none

/-- One step of the acting croft; none where it has nothing to do. -/
def State.croftStep (s : State) : Option State := s.croftOwn.or s.pressStep

/-! ### The module -/

/-- The cy at which a croft can act: that of its clock, or the present one where it has waited (R43, R45, R47). -/
def State.cyOf (s : State) (n : Nat) : Nat := Nat.max s.time (s.croft n).now

/-- The crofts in the order of their cy, those of one cy by number. -/
def State.turns (s : State) : List Nat := sortBy s.cyOf (s.crofts.map (·.1))

/-- The vc that a croft's clock has reached, which moves with the cy: in FIXED mode between packets too, and on in a drain (R43, R47, R322). -/
def Croft.clock (c : Croft) : Nat := match c.mode with | .fixed => c.atVc | .score => c.nextVc

/-- A croft acts at its cy: each vc, and each cycle in SCORE mode, takes one (R43, R47). -/
def State.act (s : State) (n : Nat) : Option State :=
  let e := s.cyOf n
  let c := (s.croft n).catchUp e
  (({ s.setCroft n c with me := n, time := e } : State).croftStep).map fun t =>
    t.setCroft n { t.croft n with now := Nat.max e (t.croft n).now + ((t.croft n).clock - c.clock) }

/-- Some croft has work for the next round. -/
def State.wantsRound (s : State) : Bool := s.crofts.any fun p => p.2.wantsRound

/-- The next round boundary: a round is 128 cy (R141). -/
def State.nextRound (s : State) : State :=
  let t := nextOr s (exec .roundBoundary s)
  { t with time := Nat.max t.time (128 * s.round) }

/-- k round boundaries come with no nest and no plan to apply: each round's slots used enter the croft's monitor (R141, R271). -/
def Croft.idleRounds (k : Nat) (c : Croft) : Croft :=
  { c with used := 0, mons := { c.mons with mill := (c.mons.mill.sample c.used).sampleN 0 (k - 1) } }

/-- The round boundaries that have come before a cy, where no croft waits for one. -/
def State.skipRounds (s : State) : State :=
  let k := (s.time + 127) / 128 - s.round
  if k == 0 then s else { s with round := s.round + k, crofts := s.crofts.map fun p => (p.1, p.2.idleRounds k) }

/-- The module's next step: what comes first in time, a round boundary that some croft waits for, or the first croft that has something to
do. What is done at the cy of a boundary comes before it (R147). -/
def State.someCroft (s : State) : State :=
  match s.turns.findSome? s.act with
  | some t => if s.wantsRound then if 128 * s.round < t.time then s.nextRound else t else t.skipRounds
  | none => if s.wantsRound then s.nextRound else s

/-- The first die whose walker can dispatch a furrow (R30). -/
def State.walkerDie (s : State) : Option Nat := (List.range 16).find? fun d => (s.pickOffer d).isSome

/-- The first owner with a launch held back that can enter its queue (R267). -/
def State.heldOwner (s : State) : Option Nat := (s.owners.find? fun p => !p.2.held.isEmpty && p.2.queue.length < 16).map (·.1)

/-- What the module does where no input is due: a walker dispatches, a launch enters its queue, a croft goes on. -/
def State.work (s : State) : State :=
  match s.walkerDie with
  | some d => nextOr s (exec (.furrowDispatch d) s)
  | none =>
    match s.heldOwner with
    | some o => nextOr s (exec (.launchQueueEntry o) s)
    | none => s.someCroft

/-- An input or event of the agenda takes effect; instruction words are no events and are passed over. -/
def State.happen (s : State) (i : Instr) : Host.Outcome State Fault Refusal := if i.eng.isNone then exec i s else .next s

/-- One step of the module: the next event of the agenda, else the boot ROM, else the module's own work. -/
def State.advance (s : State) : Host.Outcome State Fault Refusal :=
  if !s.power then .fault .noPower
  else match s.agenda with
    | i :: r => ({ s with agenda := r } : State).happen i
    | [] => if s.boot == .before then exec .boot s else .next s.work

/-! ### Placing a word where the next step fetches it -/

/-- The bytes of a table word, twice: the same engine follows, so that the first copy's packet holds it alone (R43). -/
def placedBytes (nbits w : Nat) : List Byte := tableBytes nbits w ++ tableBytes nbits w

/-- A croft of owner 0 that stands at the first word of an overlay with these bytes, in FIXED mode with nothing outstanding. -/
def Croft.placed (c : Croft) (bytes : List Byte) : Croft :=
  { c with
    mode := .fixed, atVc := c.nextVc, owner := some (c.owner.getD 0), queues := Vector.replicate 6 [], split := {}, lands := [], stq := none
    frame := none, draining := none, reissue := false, preload := false, freeze := {}, nextFur := none, zeroing := false, budget := none
    accs := [], walks := [], nest := none, turn := false, genq := [], sigWait := Vector.replicate 6 []
    imem := Memory.writeN [] 0 bytes
    overlay := { len := bytes.length / 4 }
    furrow := some ⟨0, 0, [], [], 0, false, Vector.replicate 16 0, none⟩ }

/-- The module with a table word placed for the acting croft: booted, its owner admitted, no input due. -/
def State.placeWord (s : State) (nbits w : Nat) : State :=
  let c := s.cur.placed (placedBytes nbits w)
  let o := c.owner.getD 0
  { s.setCur c with
    boot := .running, power := true, agenda := []
    owners := if (s.owners.find o).isSome then s.owners else s.owners.put o { crofts := [s.me] } }

end Sys2Proof.Machine
end

