-- ==== Sys2Proof/Machine/Step.lean ====
section
/-! DEFINITION. The step of the module, and the state in which the next step fetches a given instruction. -/

namespace Sys2Proof.Machine

/-- One step of the module (R42 to R47; the order is the model's, log 1). -/
def step (s : State) : Host.Outcome State Fault Refusal := s.advance

/-- The module with a table word placed where its acting croft splits its next word, booted and with no input due, so that the next step issues it (log 92). -/
def State.withFetchWord (s : State) (nbits w : Nat) : State := s.placeWord nbits w

end Sys2Proof.Machine
end

