-- ==== Sys2Proof/Safety.lean ====
section
/-! DEFINITION. What claims call a good state of the module: every memory in its canonical form, in every croft, in every context saved at
pre-emption and in every page spilled to a peer. -/

namespace Sys2Proof.Machine

/-- A croft's three memories are in canonical form (R3, R32). -/
def Croft.memWf (c : Croft) : Bool := Memory.wf c.imem && Memory.wf c.sp && Memory.wf c.acm

/-- Every memory of the module is in canonical form: owner memory, the memories of every croft, those of every saved context, and
spilled pages. -/
def State.memWf (s : State) : Bool :=
  Memory.wf s.hbm && s.crofts.all (fun p => p.2.memWf) && s.saved.all (fun p => p.2.croft.memWf)
    && s.spilled.all fun p => Memory.wf p.bytes

/-- What an instruction at the head of its queue needs in order to issue, whatever it does (R37, R38, R66, R230): power, a well-formed
encoding, no push of its own that waits for room, no live tile that a handler may not touch, and the token its wait field names; c is the
croft with that token taken. -/
structure Ready (i : Instr) (t : Tok) (s : State) (c : Croft) : Prop where
  power   : s.power = true
  encoded : i.encErr = none
  free    : s.cur.waiting i.engC = []
  outside : nestedTile s.cur i = none
  token   : s.cur.takeWait t.wait.toNat i.engC = some c

/-- A step that stops: the module has no power (R21), or an instruction has no meaning. -/
def Stops (o : Host.Outcome State Fault Refusal) : Prop := ∀ t, o ≠ .next t

end Sys2Proof.Machine
end

