-- ==== Sys2Proof/Certificates/Slice0/Obligations.lean ====
section
/-! DEFINITION. The statements about this model, each a proposition for the provers, with the words they are stated in. -/

namespace Sys2Proof.Claims

open Sys2Proof.Machine

/-! ### The control engine -/

/-- READ(x) of R273: the value and the croft after it; none while its queue has nothing to give. -/
def read (c : Croft) (x : Nat) : Option (Word64 × Croft) :=
  if x = 0 ∨ x = 30 then some (0, c)
  else if x = 29 then (match c.qr with | v :: q => some (v, { c with qr := q }) | [] => none)
  else if x = 31 then (match c.qc with | ⟨_, some v⟩ :: q => some (v, { c with qc := q }) | _ => none)
  else some (vget c.s 0 x, c)

/-- WRITE(d, v) of R273 as the effect that lands; none while its queue has no room, counting the pushes in flight. -/
def written (c : Croft) (d : Nat) (v : Word64) : Option LandOp :=
  if d = 0 ∨ d = 29 then some .nothing
  else if d = 30 then (if c.qa.length + c.pendA < 16 then some (.pushA v) else none)
  else if d = 31 then (if c.vpush = none ∧ c.qs.length + c.pendS < 16 then some (.pushS v) else none)
  else some (.setS d v)

/-- The immediate of R59: the field b, the payload x0, or x0 : x1, sign-extended to 64 bits. -/
def immediate (o : CR) (x : Ext) : Word64 :=
  match x with
  | .none => o.b.signExtend 64
  | .one p => p.signExtend 64
  | .two p q => (p ++ q).signExtend 64

/-- The second operand y of a form CR word (R277, R331). -/
def second (c : Croft) (o : CR) (x : Ext) : Option (Word64 × Croft) := if o.i then some (immediate o x, c) else read c o.b.toNat

/-- A word as a signed truth value: 1 where a condition holds, else 0. -/
def truth (b : Bool) : Word64 := if b then 1 else 0

/-- The control engine's instructions of two operands: their fields, the vc at which they land, and v as a function of x and y (R277, R291, R318,
R329, R331, R365). -/
def scalar2 : Instr → Option (Tok × CR × Ext × Nat × (Word64 → Word64 → Word64))
  | .add t o x => some (t, o, x, 1, fun u v => BitVec.ofNat 64 (u.toNat + v.toNat))
  | .sub t o x => some (t, o, x, 1, fun u v => BitVec.ofInt 64 ((u.toNat : Int) - v.toNat))
  | .mul t o x => some (t, o, x, 3, fun u v => BitVec.ofNat 64 (u.toNat * v.toNat))
  | .mulh t o x => some (t, o, x, 3, fun u v => (u.signExtend 128 * v.signExtend 128).extractLsb' 64 64)
  | .divn t o x => some (t, o, x, 18, fun u v => if v = 0 then BitVec.allOnes 64 else BitVec.ofNat 64 (u.toNat / v.toNat))
  | .remn t o x => some (t, o, x, 18, fun u v => if v = 0 then u else BitVec.ofNat 64 (u.toNat % v.toNat))
  | .and t o x => some (t, o, x, 1, fun u v => u &&& v)
  | .or t o x => some (t, o, x, 1, fun u v => u ||| v)
  | .xor t o x => some (t, o, x, 1, fun u v => u ^^^ v)
  | .shl t o x => some (t, o, x, 1, fun u v => if 64 ≤ v.toNat then 0 else BitVec.ofNat 64 (u.toNat * 2 ^ v.toNat))
  | .shr t o x => some (t, o, x, 1, fun u v => if 64 ≤ v.toNat then 0 else BitVec.ofNat 64 (u.toNat / 2 ^ v.toNat))
  | .sha t o x => some (t, o, x, 1, fun u v => if 64 ≤ v.toNat then (if u.toInt < 0 then BitVec.allOnes 64 else 0) else BitVec.ofInt 64 (u.toInt / 2 ^ v.toNat))
  | .min t o x => some (t, o, x, 1, fun u v => if u.toInt ≤ v.toInt then u else v)
  | .max t o x => some (t, o, x, 1, fun u v => if v.toInt ≤ u.toInt then u else v)
  | .minn t o x => some (t, o, x, 1, fun u v => if u.toNat ≤ v.toNat then u else v)
  | .maxn t o x => some (t, o, x, 1, fun u v => if v.toNat ≤ u.toNat then u else v)
  | .slt t o x => some (t, o, x, 1, fun u v => truth (decide (u.toInt < v.toInt)))
  | .sltn t o x => some (t, o, x, 1, fun u v => truth (decide (u.toNat < v.toNat)))
  | _ => none

/-- The number of leading zero bits of a word. -/
def clz (u : Word64) : Nat := ((List.range 65).find? fun n => 2 ^ (63 - n) ≤ u.toNat && n < 64 || n == 64).getD 64

/-- The number of one bits of a word. -/
def ones (u : Word64) : Nat := ((List.range 64).filter fun i => u.getLsbD i).length

/-- The conditional branches: their fields and their condition on x and y (R284). -/
def branch : Instr → Option (Tok × CB × Ext × (Word64 → Word64 → Bool))
  | .beq t o x => some (t, o, x, fun u v => decide (u = v))
  | .bne t o x => some (t, o, x, fun u v => decide (u ≠ v))
  | .blt t o x => some (t, o, x, fun u v => decide (u.toInt < v.toInt))
  | .bge t o x => some (t, o, x, fun u v => decide (v.toInt ≤ u.toInt))
  | .bltn t o x => some (t, o, x, fun u v => decide (u.toNat < v.toNat))
  | .bgen t o x => some (t, o, x, fun u v => decide (v.toNat ≤ u.toNat))
  | _ => none

/-- The word index a form CB word goes to (R59): its own index plus off, or plus x0 where an extension word is attached. -/
def target (pc : Nat) (o : CB) (x : Ext) : Int := pc + (match x with | .none => o.off.toInt | .one p => p.toInt | .two p _ => p.toInt)

/-- The vc of the packet after a word that keeps n vc of distance: n vc after its own in FIXED mode, as it stood in SCORE mode (R43, R46). -/
def nextAfter (c : Croft) (n : Nat) : Nat := match c.mode with | .fixed => c.vclock + n | .score => c.nextVc

/-- A program fault of an instruction, which stands again at the head of its queue (R223). -/
def raised (s : State) (i : Instr) (f : Flt) : State :=
  s.takeFault s.me { flt := f, eng := i.engC, pc := s.cur.issuePc, seq := s.cur.issueSeq, retry := some ⟨s.cur.issueSeq, s.cur.issuePc, .ins i s.cur.kept⟩ }

/-- What RDCR reads from control register k (R335): MODE, VCLOCK, CONTRACT, QSTAT, FAULTCODE, FAULTADDR, FAULTPC, HANDLER, LANDING, OWNER, CROFT,
RNGSEED. -/
def control (c : Croft) (me k : Nat) : Option Word64 :=
  [if c.mode = .fixed then 0 else 1, BitVec.ofNat 64 c.vclock, c.contract, BitVec.ofNat 64 c.qstat.toNat, c.fcode, c.faddr, c.fpc, c.handler,
   c.landing, BitVec.ofNat 64 (c.owner.getD 0), BitVec.ofNat 64 me, c.rngseed][k]?

/-- A croft as a handler finds it at its entry (R229, R231): the vc of the fault is that of its clock, and a TRAP resumes one vc later. -/
structure Entered (c d : Croft) (f : Flt) (e : Eng) (pc : Nat) (land async : Bool) (aside : Vector (List QEntry) 6) : Prop where
  fcode   : d.fcode = BitVec.ofNat 64 (f.aux % 2 ^ 32 * 2 ^ 32 + e.code * 2 ^ 20 + land.toNat * 2 ^ 19 + async.toNat * 2 ^ 18 + f.code.code)
  faddr   : d.faddr = BitVec.ofNat 64 f.addr
  fpc     : d.fpc = BitVec.ofNat 64 pc
  shadow  : ∀ k, k < 5 → vget d.shadow 0 k = vget c.s 0 (24 + k)
  fetch   : d.split = { pc := bitsOf c.handler 15 0 }
  queues  : ∀ e', d.queue e' = []
  next    : d.nextVc = c.vclock + 1 ∧ d.atVc = c.vclock
  aside   : ∃ fr, d.frame = some fr ∧ fr.queues = aside ∧ fr.split = c.split ∧ fr.after = none ∧ fr.seq = c.seq
              ∧ fr.resume = (if f.code = .trap then c.vclock + 1 else c.vclock)
              ∧ (c.mode = .fixed → d.lands = [] ∧ fr.land = c.lands.map (fun p => { p with due := p.due - fr.resume }) ∧ d.landing = landingWord .fixed fr.land)
              ∧ (c.mode = .score → d.lands = c.lands ∧ fr.land = [] ∧ d.landing = 0)
  kept    : d.s = c.s ∧ d.b = c.b ∧ d.v = c.v ∧ d.qc = c.qc ∧ d.qa = c.qa ∧ d.qs = c.qs ∧ d.qr = c.qr ∧ d.qv = c.qv ∧ d.qg = c.qg
              ∧ d.tok = c.tok ∧ d.arv = c.arv ∧ d.sp = c.sp ∧ d.acm = c.acm ∧ d.imem = c.imem ∧ d.records = c.records ∧ d.mtab = c.mtab
              ∧ d.live = c.live ∧ d.abs = c.abs ∧ d.qstat = c.qstat ∧ d.mode = c.mode ∧ d.vclock = c.vclock ∧ d.handler = c.handler
              ∧ d.copyq = c.copyq ∧ d.indexq = c.indexq ∧ d.genq = c.genq ∧ d.accs = c.accs

/-- A croft whose program faults enter its handler (R228 to R230): EN = 1, ENTRY inside the overlay, no handler active, no budget armed. -/
structure Handles (c : Croft) : Prop where
  en    : c.handler.getLsbD 16 = true
  entry : bitsOf c.handler 15 0 < c.overlay.len
  free  : c.frame = none ∧ c.budget = none ∧ c.draining = none

/-- A croft after its issue has ended (R230): nothing unissued, no landing list, no trap frame, fetch stopped, the croft free. -/
structure IssueEnded (c d : Croft) : Prop where
  queues : ∀ e, d.queue e = []
  lands  : d.lands = []
  frame  : d.frame = none
  fetch  : d.split.stopped = true
  free   : d.furrow = none ∧ d.ended = true
  kept   : d.s = c.s ∧ d.b = c.b ∧ d.v = c.v ∧ d.sp = c.sp ∧ d.acm = c.acm ∧ d.imem = c.imem ∧ d.qstat = c.qstat ∧ d.abs = c.abs
             ∧ d.records = c.records ∧ d.handler = c.handler ∧ d.mode = c.mode

/-- Messages with the SEQ that each takes of its endpoint's outbound direction, from the next SEQ of every endpoint on (R266). -/
def stamped (q : Table Nat) : List Sent → List (Nat × Sent)
  | [] => []
  | m :: r => (q.get 0 m.endpoint, m) :: stamped (q.put m.endpoint (q.get 0 m.endpoint + 1)) r

/-- Where Sillu runs it sends some messages first and nothing before them, and where it does not run it sends nothing (R260, R266). -/
def SendsFirst (s t : State) (ms : List Sent) : Prop :=
  (s.boot = .running → ∃ more, t.sent = s.sent ++ stamped s.outSeqs ms ++ more) ∧ (s.boot ≠ .running → t.sent = s.sent)

/-- Where Sillu runs it sends some messages and no other, and where it does not run it sends nothing (R260, R266). -/
def SendsOnly (s t : State) (ms : List Sent) : Prop := t.sent = s.sent ++ (if s.boot = .running then stamped s.outSeqs ms else [])

/-- The code word of a fault record (R226, R227), NEST in bit 23. -/
def codeWord (f : Flt) (nest : Bool) (e : Eng) (land async : Bool) : Word64 :=
  BitVec.ofNat 64 (f.aux % 2 ^ 32 * 2 ^ 32 + nest.toNat * 2 ^ 23 + e.code * 2 ^ 20 + land.toNat * 2 ^ 19 + async.toNat * 2 ^ 18 + f.code.code)

/-! ### Scratchpad, addresses, the access engine -/

/-- Engine e may now read, or write where w, the scratchpad bytes [a, a + n) (R48, R50, R138): they stand in the scratchpad, in banks that are up,
and every byte lies in a range of the engine's open phase, a written one in a write range. -/
structure SpOk (c : Croft) (e : Eng) (a n : Nat) (w : Bool) : Prop where
  inside : a < 2 ^ 21 ∧ a + n ≤ 2 ^ 21
  banks  : ∀ x, a ≤ x → x < a + n → vget c.gates .up (x / 65536) = .up
  phase  : ∀ x, a ≤ x → x < a + n →
    ∃ r ∈ (if w then (vget c.phases {} e.ix).writes else (vget c.phases {} e.ix).reads ++ (vget c.phases {} e.ix).writes), r.base ≤ x ∧ x < r.base + r.len

/-- The word at a place in the stream is the handler's, and the handler goes on only past what was set aside at its entry (R52, R219; log 93). -/
def Presses (c : Croft) (seq : Nat) : Prop := c.pressed = true ∧ ∃ f, c.frame = some f ∧ f.seq ≤ seq

/-- The STQs whose entries are still being taken that the word at a place in the stream stands behind (R219, R231). -/
def StqBefore (c : Croft) (seq : Nat) (r : StqRun) : Prop := c.stq = some r ∨ (¬Presses c seq ∧ ∃ f, c.frame = some f ∧ f.stq = some r)

/-- The results set aside at a handler's entry that the word at a place in the stream stands behind (R219, R231). -/
def SetAside (c : Croft) (seq : Nat) (p : Pending) : Prop := ¬Presses c seq ∧ ∃ f, c.frame = some f ∧ p ∈ f.land

/-- A result in flight is a scratchpad write of class cls, or one to a byte of [a, a + n). -/
def HoldsSp (cls a n : Nat) (p : Pending) : Prop :=
  ∃ y m, p.spWrite = some (y, m) ∧ (clsOf p.ins = cls ∨ ∃ z, y ≤ z ∧ z < y + m ∧ a ≤ z ∧ z < a + n)

/-- Nothing holds an access of class cls to the scratchpad bytes [a, a + n) that A issues now (R202, R207 to R209, R219): no earlier owner access of its class
is pending, but a PGPROBE, or one that stays stopped at its fault until ERET while a handler goes on past it; no STQ of its class to owner memory, and none to
a byte of it, still takes its entries; no scratchpad write set aside at a handler's entry, and in SCORE mode none of A in flight, is of its class or shares a
byte with it. In FIXED mode those in flight perform at their landings, as R44 has it (log 94). -/
def OrderOk (c : Croft) (cls a n : Nat) : Prop :=
  (∀ b ∈ c.accs, b.seq < c.issueSeq → b.ord.cls = cls → b.isProbe = true ∨ (b.halt = .faulted ∧ Presses c c.issueSeq))
  ∧ (∀ r, StqBefore c c.issueSeq r → (r.space = .owner → r.seq < c.issueSeq → r.ord.cls ≠ cls)
      ∧ (r.space = .sp → r.ord.cls ≠ cls ∧ ∀ z, ¬(r.addr ≤ z ∧ z < r.addr + 8 * r.need ∧ a ≤ z ∧ z < a + n)))
  ∧ (∀ p, SetAside c c.issueSeq p → ¬HoldsSp cls a n p)
  ∧ (c.mode = .score → ∀ p ∈ c.lands, ¬HoldsSp cls a n p)

/-- The effective address of form AM (R61): B[b] plus x0 sign-extended, B0 being 0. -/
def ea (c : Croft) (o : AM) (x : Ext) : Word64 :=
  (if o.b = 0 then 0 else vget c.b 0 o.b.toNat) + (match x with | .none => 0 | .one p => p.signExtend 64 | .two p _ => p.signExtend 64)

/-- A B register as it reads: B0 is 0 (R40). -/
def base (c : Croft) (n : BitVec 4) : Word64 := if n = 0 then 0 else vget c.b 0 n.toNat

/-- The operand m of BADD and BMAD (R279): the immediate where an extension word is attached, the head of QA where qa = 1, else B[b]; none while QA
is empty. -/
def operandM (c : Croft) (o : AB) (x : Ext) : Option (Word64 × Croft) :=
  match x with
  | .one p => some (p.signExtend 64, c)
  | .two p q => some ((p ++ q).signExtend 64, c)
  | .none => if o.qa then (match c.qa with | v :: r => some (v, { c with qa := r }) | [] => none) else some (base c o.b, c)

/-- A result for Bd: a write to B0 is discarded (R40, R279). -/
def toB (d : BitVec 4) (v : Word64) : LandOp := if d = 0 then .nothing else .setB d.toNat v

/-- The count of a barrier-object instruction (R274): x0[19:0], or the low 20 bits of the head of QA; none while QA is empty. -/
def count (c : Croft) (o : AB) (x : Ext) : Option (Nat × Croft) :=
  if o.qa then (match c.qa with | v :: r => some (v.toNat % 2 ^ 20, { c with qa := r }) | [] => none)
  else some ((match x with | .none => 0 | .one p => p.toNat % 2 ^ 20 | .two p _ => p.toNat % 2 ^ 20), c)

/-- The bytes of an LDQ that is not packed (R313): 8 to QC, 64 to QG, to a QV queue those of its form's LEN elements. -/
def loadBytes (o : AM) (x : Ext) : Nat :=
  if o.q = 0 then 8 else if o.q = 5 then 64 else (x.x1.toNat % 2 ^ 13 * tagWidth (x.x1.toNat / 2 ^ 24 % 16) + 7) / 8

/-- The entry that an LDQ delivers of bytes read (R161, R313): a QC entry is the 8 bytes as a number, a QG entry the 64, a QV entry the vector of the form
word's elements. -/
def loaded (o : AM) (x : Ext) (id : Nat) (bytes : List Byte) : LandOp :=
  if o.q = 0 then .fill 0 id (BitVec.ofNat 64 (leNat bytes))
  else if o.q = 5 then .fillG id (BitVec.ofNat 512 (leNat bytes))
  else .fillV (o.q.toNat - 1) id (ldqVector x.x1 bytes)

/-- The target queue of an LDQ has room for one more entry, reservations counted (R314). -/
def loadRoom (c : Croft) (o : AM) : Prop :=
  (o.q = 0 → c.qc.length < 16) ∧ (o.q = 5 → c.qg.length < 16) ∧ (1 ≤ o.q.toNat → o.q.toNat ≤ 4 → (vget c.qv [] (o.q.toNat - 1)).length < 4)

/-- The croft with a place of an LDQ's target queue reserved for its result (R220, R314). -/
def reserved (c : Croft) (o : AM) (id : Nat) : Croft :=
  if o.q = 0 then { c with qc := c.qc ++ [⟨id, none⟩] }
  else if o.q = 5 then { c with qg := c.qg ++ [⟨id, none⟩] }
  else { c with qv := vset c.qv (o.q.toNat - 1) (vget c.qv [] (o.q.toNat - 1) ++ [⟨id, none⟩]) }

/-- The 2^w bytes from base have a byte in the range of 2^v bytes that holds an address: whole ranges of those sizes (R187, R190). -/
def Meets (base w va v : Nat) : Prop := ∃ y, base ≤ y ∧ y < base + 2 ^ w ∧ y / 2 ^ v = va / 2 ^ v

/-- A command that A hands to the copy path now (R39, R240). -/
def copyCmd (c : Croft) (o : AM) (ab : Option Nat) (next : Nat) (kind : CopyKind) : CopyCmd :=
  { seq := c.issueSeq, pc := c.issuePc, launch := c.lastLaunch, arv := o.q.toNat, ab := ab
    ord := ⟨o.cls.toNat, o.sem.toNat, o.scope.toNat⟩, kind := kind, next := next }

/-- The copy command queue has room, and so has the arrival that a command names, reservations counted (R39, R240). -/
def copyRoom (c : Croft) (q : BitVec 3) : Prop :=
  c.copyq.length < 8 ∧ (q = 0 ∨ vget c.arv 0 (q.toNat - 1) + vget c.arvRes 0 (q.toNat - 1) < 8)

/-- The croft with a copy-path command accepted and its arrival reserved. -/
def accepted (c : Croft) (q : BitVec 3) (k : CopyCmd) : Croft :=
  { c with copyq := c.copyq ++ [k], arvRes := if q = 0 then c.arvRes else vset c.arvRes (q.toNat - 1) (vget c.arvRes 0 (q.toNat - 1) + 1) }

/-! ### The matrix, vector, index and generation engines -/

/-- The bytes [a, a + n) that a nest's K-step reads in one group of the scratchpad (R120, R129): inside, in banks that are up, in M's open phase. -/
def StepRead (c : Croft) (r : Int × Nat) : Prop :=
  0 ≤ r.1 ∧ 0 < r.2 ∧ SpOk c .M r.1.toNat r.2 false ∧ r.1.toNat / 524288 = (r.1.toNat + r.2 - 1) / 524288

/-- Every K-step reads its A tile and its B tile from different groups (R129), each in the union of M's open read and write sets (log 17). -/
def StepsReadable (c : Croft) (rs : StepRanges) : Prop :=
  ∀ p ∈ rs, StepRead c p.2 ∧ ∀ a, p.1 = some a → StepRead c a ∧ a.1.toNat / 524288 ≠ p.2.1.toNat / 524288

/-- The croft with a nest started (R147, R150, R325): an accumulating one goes on with the live tile and what governs it, another makes a new live tile
and takes up an armed sequence; the landing stands 128 · (L + 1) vc on, L the contracted rounds, or at the next round boundary under a replay. -/
def started (c : Croft) (i : Instr) (sig : Nat) (acc : Bool) (fresh : Bool → Live) (n : Nest) : Croft :=
  let g := if acc then c.governs else c.armed
  Croft.land { c with
    governs := g
    armed := if acc then c.armed else none
    nest := some { n with live := (if acc then c.live else fresh g.isSome), replay := g.isSome } } .M i sig (if g.isSome then 0 else 128 * (n.len + 1)) .nest

/-- The contracted rounds of a nest of n K-steps (R147): n · LAT / KSTEPS, rounded up. -/
def rounds (contract : Word64) (n : Nat) : Nat :=
  (n * (contract.toNat / 2 ^ 32 % 2 ^ 16) + contract.toNat / 2 ^ 48 - 1) / (contract.toNat / 2 ^ 48)

/-- The vector engine's instructions whose result lands in Vd: their fields, the latency without .W (R74), whether .W adds 4 vc, the register of a side
list (32 for none), and what they compute from the croft at issue. -/
def vector : Instr → Option (Tok × VF × Ext × Nat × Nat × (Croft → Except VErr VRes))
  | .vadd t o x => some (t, o, x, 8, 32, vaddValue o x)
  | .vsub t o x => some (t, o, x, 8, 32, vsubValue o x)
  | .vmul t o x => some (t, o, x, 8, 32, vmulValue o x)
  | .vfma t o x => some (t, o, x, 8, 32, vfmaValue o x)
  | .vmin t o x => some (t, o, x, 8, 32, vminValue o)
  | .vmax t o x => some (t, o, x, 8, 32, vmaxValue o)
  | .vabs t o x => some (t, o, x, 8, 32, vabsValue o)
  | .vneg t o x => some (t, o, x, 8, 32, vnegValue o)
  | .vcmp t o x => some (t, o, x, 8, 32, vcmpValue o x)
  | .vsel t o x => some (t, o, x, 8, 32, vselValue o x)
  | .vand t o x => some (t, o, x, 8, 32, vandValue o)
  | .vor t o x => some (t, o, x, 8, 32, vorValue o)
  | .vxor t o x => some (t, o, x, 8, 32, vxorValue o)
  | .vnot t o x => some (t, o, x, 8, 32, vnotValue o)
  | .vshl t o x => some (t, o, x, 8, 32, vshlValue o x)
  | .vshr t o x => some (t, o, x, 8, 32, vshrValue o x)
  | .vrnd t o x => some (t, o, x, 8, 32, vrndValue o x)
  | .vscalb t o x => some (t, o, x, 8, 32, vscalbValue o x)
  | .vgexp t o x => some (t, o, x, 8, 32, vgexpValue o)
  | .vgman t o x => some (t, o, x, 8, 32, vgmanValue o)
  | .vcvt t o x => some (t, o, x, 8, 32, vcvtValue o x)
  | .vcvp t o x => some (t, o, x, 10, 32, vcvpValue o x)
  | .vqnt t o x => some (t, o, x, 12, o.b.toNat, vqntValue o x)
  | .vdqnt t o x => some (t, o, x, 8, 32, vdqntValue o x)
  | .vred t o x => some (t, o, x, 10, 32, vredValue o x)
  | .vscan t o x => some (t, o, x, 12, 32, vscanValue o x)
  | .vcoal t o x => some (t, o, x, 8, 32, vcoalValue o)
  | .vlen t o x => some (t, o, x, 8, 32, vlenValue o x)
  | .vsplat t o x => some (t, o, x, 8, 32, vsplatValue o x)
  | .vcat t o x => some (t, o, x, 8, 32, vcatValue o)
  | .vslice t o x => some (t, o, x, 8, 32, vsliceValue o x)
  | .vext t o x => some (t, o, x, 8, 32, vextValue o x)
  | .vins t o x => some (t, o, x, 8, 32, vinsValue o x)
  | .vmov t o x => some (t, o, x, 8, 32, vmovValue o)
  | .vcnt t o x => some (t, o, x, 8, 32, vcntValue o)
  | .viota t o x => some (t, o, x, 8, 32, viotaValue o x)
  | _ => none

/-- A vector in the form of R154 and R156: no run is empty. -/
def RunsOk (v : VReg) : Prop := ∀ r ∈ v.runs, 1 ≤ r.count

/-- Merged runs (R156): no run is empty, and no two neighbours hold one value. -/
def Merged : List Run → Prop
  | [] => True
  | [r] => 1 ≤ r.count
  | r :: q :: l => 1 ≤ r.count ∧ r.value ≠ q.value ∧ Merged (q :: l)

/-- The index engine's instructions by number: 0 XGATH, 1 XSCAT, 2 XSCADD, 3 XBAG. -/
def index : Instr → Option (Tok × XF × Nat)
  | .xgath t o _ => some (t, o, 0)
  | .xscat t o _ => some (t, o, 1)
  | .xscadd t o _ => some (t, o, 2)
  | .xbag t o _ => some (t, o, 3)
  | _ => none

/-- A field of an index descriptor (R366): n bytes from byte b. -/
def descField (d : BitVec 512) (b n : Nat) : Nat := d.toNat / 2 ^ (8 * b) % 2 ^ (8 * n)

/-- An area of an index command stands in owner memory, or in scratchpad that X may now access. -/
def Area (c : Croft) (w : Word64) (n : Nat) (write : Bool) : Prop :=
  (∃ a, splitAddr w = some (.owner, a) ∧ a + n ≤ 2 ^ 53) ∨ ∃ a, splitAddr w = some (.sp, a) ∧ SpOk c .X a n write

/-- The generation engine's instructions by number, in the order of R243: GSEED to GCOMP. -/
def generation : Instr → Option (Tok × GF × Ext × Nat)
  | .gseed t o x => some (t, o, x, 0)
  | .gshort t o x => some (t, o, x, 1)
  | .gslow t o x => some (t, o, x, 2)
  | .gsamp t o x => some (t, o, x, 3)
  | .gmask t o x => some (t, o, x, 4)
  | .gbudg t o x => some (t, o, x, 5)
  | .gacpt t o x => some (t, o, x, 6)
  | .gdraft t o x => some (t, o, x, 7)
  | .gstage t o x => some (t, o, x, 8)
  | .gcomp t o x => some (t, o, x, 9)
  | _ => none

/-! ### Landings -/

/-- ABARV with count n on a barrier object that is not idle (R168), one arrival at a time: PENDING falls by one, and where it reaches 0 the phase is
complete, PHASE goes up by one and PENDING is INIT again. -/
def arrivals : Nat → Barrier → Barrier
  | 0, b => b
  | n + 1, b => arrivals n (if b.pend ≤ 1 then { b with pend := b.ini, phase := (b.phase + 1) % 2 ^ 64 } else { b with pend := b.pend - 1 })

/-- A vector written to Vd, in the .W form its first 64 runs to Vd and the rest to Vd+1 (R155). -/
def vectors (v : Vector VReg 32) (w : Bool) (d : Nat) (r : VReg) : Vector VReg 32 :=
  if w then vset (vset v d ⟨r.tag, r.runs.take 64⟩) (d + 1) ⟨r.tag, r.runs.drop 64⟩ else vset v d r

/-- The reserved entry of an operand queue, filled (R220). -/
def filled {α : Type} (id : Nat) (v : α) (q : List (Slot α)) : List (Slot α) := q.map fun e => if e.id = id then { e with val := some v } else e

/-- The croft after a result that enters registers, operand queues, barrier objects, a shadow level or the live tile (R44, R74); none for a result that
faults at its landing, and for one that writes scratchpad or ACM. -/
def landed (c : Croft) : LandOp → Option Croft
  | .nothing => some c
  | .setS d v => some { c with s := vset c.s d v }
  | .setB d v => some { c with b := vset c.b d v }
  | .pushA v => some { c with qa := c.qa ++ [v] }
  | .pushS v => some { c with qs := c.qs ++ [v] }
  | .setCr k v =>
    if k = 3 then some { c with qstat := v.setWidth 7 } else if k = 7 then some { c with handler := v } else some { c with rngseed := v }
  | .setV w d b r =>
    some { c with v := (match r.side with | none => vectors c.v w d r.vd | some x => vectors (vectors c.v w d r.vd) w b x)
                  qstat := c.qstat ||| r.flags }
  | .vpop d q (some r) => some { c with v := vset c.v d r, qv := vset c.qv q (vget c.qv [] q).tail }
  | .fill _ id v => some { c with qc := filled id v c.qc }
  | .fillV q id v => some { c with qv := vset c.qv q (filled id v (vget c.qv [] q)) }
  | .fillG id v => some { c with qg := filled id v c.qg }
  | .abInit k n => if n = 0 then none else some { c with abs := vset c.abs k { ini := n, pend := n } }
  | .abExp k n =>
    if (vget c.abs {} k).ini = 0 ∨ 2 ^ 20 - 1 < (vget c.abs {} k).pend + n then none
    else some { c with abs := vset c.abs k { vget c.abs {} k with pend := (vget c.abs {} k).pend + n } }
  | .abArv k n =>
    if (vget c.abs {} k).ini = 0 ∨ (vget c.abs {} k).pend = 0 then none else some { c with abs := vset c.abs k (arrivals n (vget c.abs {} k)) }
  | .shadow k v => some { c with mtab := vset c.mtab k v }
  | .armReplay r => some { c with armed := some r }
  | .zeroLive rep => some { c with live := { lrec := if rep then 0x40 else 0 } }
  | .pushR vs => some { c with qr := c.qr ++ vs }
  | _ => none

/-- The fault that a result raises at its landing (R168, R223, R225). -/
def landingFault (c : Croft) : LandOp → Option Flt
  | .vfault f => some { code := f }
  | .vpop _ _ none => some { code := .runovf }
  | .abInit k n => if n = 0 then some { code := .abovf, aux := k } else none
  | .abExp k n =>
    if (vget c.abs {} k).ini = 0 ∨ 2 ^ 20 - 1 < (vget c.abs {} k).pend + n then some { code := .abovf, aux := k } else none
  | .abArv k _ => if (vget c.abs {} k).ini = 0 then some { code := .abovf, aux := k } else none
  | _ => none

/-- The zero flag of a scratchpad block (R136). -/
def zeroFlag (c : Croft) (b : Nat) : Bool := !c.zclear.get false b

/-- A croft that a result in scratchpad or ACM has changed: everything but those memories, the zero flags, the gates, the records, QSTAT, QC
and QR is as it was. -/
structure LandedMem (c d : Croft) : Prop where
  regs    : d.s = c.s ∧ d.b = c.b ∧ d.v = c.v ∧ d.handler = c.handler ∧ d.rngseed = c.rngseed ∧ d.shadow = c.shadow
  queues  : d.qa = c.qa ∧ d.qs = c.qs ∧ d.qv = c.qv ∧ d.qg = c.qg ∧ d.tok = c.tok ∧ d.arv = c.arv ∧ d.abs = c.abs ∧ d.sigWait = c.sigWait
  control : d.mode = c.mode ∧ d.vclock = c.vclock ∧ d.nextVc = c.nextVc ∧ d.contract = c.contract ∧ d.owner = c.owner ∧ d.fcode = c.fcode
              ∧ d.faddr = c.faddr ∧ d.fpc = c.fpc ∧ d.landing = c.landing
  fetch   : d.split = c.split ∧ d.queues = c.queues ∧ d.imem = c.imem ∧ d.overlay = c.overlay ∧ d.furrow = c.furrow ∧ d.phases = c.phases
  units   : d.copyq = c.copyq ∧ d.indexq = c.indexq ∧ d.genq = c.genq ∧ d.accs = c.accs ∧ d.rows = c.rows ∧ d.stages = c.stages
              ∧ d.staging = c.staging ∧ d.budget = c.budget ∧ d.tlb = c.tlb ∧ d.mtab = c.mtab ∧ d.live = c.live
              ∧ d.fences = c.fences

/-- The bytes bs stand in memory m at address a, and every other byte is that of the memory before. -/
def Written (old m : Memory) (a : Nat) (bs : List Byte) : Prop :=
  m.readN a bs.length = bs ∧ ∀ y, y < a ∨ a + bs.length ≤ y → m.read y = old.read y

/-- A write of n scratchpad bytes at a clears the zero flags of the 1 KiB blocks it touches and no other (R136). -/
def FlagsCleared (c d : Croft) (a n : Nat) : Prop :=
  ∀ b, zeroFlag d b = (if 0 < n ∧ a / 1024 ≤ b ∧ b ≤ (a + n - 1) / 1024 then false else zeroFlag c b)

/-- Element 64·row + column of an ACM tile (R61, R122). -/
def element (c : Croft) (t i : Nat) : BitVec 32 := BitVec.ofNat 32 (c.acm.le (16384 * t + 4 * i) 4)

/-- ATOM's new value of a unit of n bits (R221): operation, old value, compare value, operand, for every operation but FADD. -/
def atomic (n op old cmp v : Nat) : Option Nat :=
  [some ((old + v) % 2 ^ n), some (old &&& v % 2 ^ n), some (old ||| v % 2 ^ n), some (old ^^^ v % 2 ^ n),
   some (if signedOf n (v % 2 ^ n) < signedOf n old then v % 2 ^ n else old), some (if signedOf n old < signedOf n (v % 2 ^ n) then v % 2 ^ n else old),
   some (min old (v % 2 ^ n)), some (max old (v % 2 ^ n)), some (v % 2 ^ n), some (if old = cmp % 2 ^ n then v % 2 ^ n else old)][op]?.join

/-- A result stands before another (R44, R105): earlier due; due together, a write of QSTAT first, else the earlier in the stream. -/
def LandsBefore (p q : Pending) : Prop :=
  p.due < q.due ∨ (p.due = q.due ∧ ((∃ v, p.op = .setCr 3 v) ∨ ((∀ v, q.op ≠ .setCr 3 v) ∧ p.seq ≤ q.seq)))

/-- The croft once a result's effect is made: its signal token is pushed, and a scratchpad write of A may end the hold of a fence (R39, R296). -/
def ended (c : Croft) (p : Pending) : Croft :=
  if p.spWrite.isSome then (c.pushSig p.eng p.sig).pruneFences else c.pushSig p.eng p.sig

/-- What a result may find in its croft: flags in rising order of their blocks, memories in canonical form, and on every barrier object that is not idle
an arrival still to come. -/
structure LandingForm (c : Croft) : Prop where
  flags  : c.zclear.Pairwise fun p q => p.1 < q.1
  memory : c.memWf = true
  abs    : ∀ k, (vget c.abs {} k).ini = 0 ∨ 1 ≤ (vget c.abs {} k).pend

/-! ### Service messages -/

/-- The little-endian number in n bytes of a message from offset o (R3). -/
def field (b : List Byte) (o n : Nat) : Nat := leNat ((b.drop o).take n)

/-- A request's header keeps R266 but for SEQ: MAGIC "ZS", version 1, flags 0, OP, reserved 0, the payload's length, reserved 0. -/
structure Header (m : Msg) (op : Nat) : Prop where
  whole   : 32 ≤ m.bytes.length
  magic   : field m.bytes 0x00 2 = 0x535A
  version : field m.bytes 0x02 1 = 1 ∧ field m.bytes 0x03 1 = 0
  op      : field m.bytes 0x04 2 = op
  rsv     : field m.bytes 0x06 2 = 0 ∧ field m.bytes 0x14 4 = 0
  length  : field m.bytes 0x10 4 = m.bytes.length - 32 ∧ m.bytes.length - 32 ≤ 0x4000000

/-- A monitor in the layout of R341: the least and the greatest sample, then the 32 bins. -/
def monitorBytes (m : Monitor) : List Byte := leBytes 8 m.lo ++ leBytes 8 m.hi ++ (List.range 32).flatMap fun i => leBytes 4 (m.bins.get 0 i)

/-- The key of a function in the table of sequence numbers: an owner's number, 128 for the management function. -/
def endpointOf (fn : Option Nat) : Nat := fn.getD 128

/-- A request that Sillu takes up: power, Sillu running, someone behind the function, a good header, the next SEQ (R264, R266). -/
structure Arrives (s : State) (m : Msg) (op : Nat) : Prop where
  power  : s.power = true
  boot   : s.boot = .running
  fn     : ∀ o, m.fn = some o → (s.owners.find o).isSome
  header : Header m op
  seq    : field m.bytes 0x18 8 = s.seqs.get 0 (endpointOf m.fn)

/-- The module with a request's SEQ consumed (R266). -/
def taken (s : State) (m : Msg) : State := { s with seqs := s.seqs.put (endpointOf m.fn) (s.seqs.get 0 (endpointOf m.fn) + 1) }

/-- Sillu's reply to a request (R266): its OP and TAG, a status, a payload. -/
def reply (m : Msg) (status : Nat) (payload : List Byte) : Sent :=
  .reply m.fn (field m.bytes 0x04 2) status (BitVec.ofNat 64 (field m.bytes 0x08 8)) payload

/-- The module with a request answered: the reply takes the next SEQ of its function's outbound direction (R266). -/
def replied (s : State) (m : Msg) (status : Nat) (payload : List Byte) : State :=
  { s with sent := s.sent ++ stamped s.outSeqs [reply m status payload]
           outSeqs := s.outSeqs.put (endpointOf m.fn) (s.outSeqs.get 0 (endpointOf m.fn) + 1) }

/-- The service requests with their OP and the function that may carry them (R267): operators, owners, or both. -/
def requests (m : Msg) : List (Instr × Nat × From) :=
  [(.admission m, 0x0001, .operator), (.revoke m, 0x0002, .operator), (.opkey m, 0x0003, .operator), (.image m, 0x0004, .operator),
   (.floor m, 0x0005, .operator), (.load m, 0x0010, .owner), (.launch m, 0x0011, .owner), (.unload m, 0x0012, .owner), (.quote m, 0x0020, .owner),
   (.cert m, 0x0021, .both), (.grammar m, 0x0030, .owner), (.context m, 0x0031, .owner), (.drop m, 0x0032, .owner)]

/-- An operator's signature over a management message but for its last 64 bytes verifies under one of the operator keys (R268). -/
def signed (s : State) (m : Msg) (sig : List Byte) : Bool := s.opKeys.any fun k => signatureOk k (m.bytes.take (m.bytes.length - 64)) sig

/-! ### Events -/

/-- Two phases share no byte that either of them writes (R49). -/
def Apart (p q : Phase) : Prop :=
  (∀ r ∈ p.writes, ∀ x ∈ q.reads ++ q.writes, ∀ y, ¬(r.base ≤ y ∧ y < r.base + r.len ∧ x.base ≤ y ∧ y < x.base + x.len))
  ∧ ∀ r ∈ p.reads, ∀ x ∈ q.writes, ∀ y, ¬(r.base ≤ y ∧ y < r.base + r.len ∧ x.base ≤ y ∧ y < x.base + x.len)

/-- Every access of an engine's open phase has performed (R49, R214), those that a handler set aside among them (R231). -/
def PhaseDone (c : Croft) : Eng → Prop
  | .A => c.copyq = [] ∧ c.stq = none ∧ (∀ f, c.frame = some f → f.stq = none) ∧ (∀ a ∈ c.accs, a.isProbe = true)
      ∧ ∀ p ∈ c.inFlight, p.eng = .A → p.op.onSp = false
  | .M => c.nest = none ∧ ∀ p ∈ c.inFlight, p.eng = .M → p.op.onSp = false
  | .X => c.indexq = []
  | .G => c.genq = []
  | _ => True

/-- The scratchpad accesses of the word at a place in the stream have all performed (R138): its command is gone, its result has landed, a nest's and those
that a handler set aside among them, and it is no STQ that still takes its entries. -/
structure Performed (c : Croft) (q : Nat) : Prop where
  commands : (∀ k ∈ c.copyq, k.seq ≠ q) ∧ (∀ k ∈ c.indexq, k.seq ≠ q) ∧ ∀ k ∈ c.genq, k.seq ≠ q
  results  : ∀ p ∈ c.inFlight, p.seq = q → p.op.onSp = false ∧ p.op ≠ .nest
  stq      : (∀ r, c.stq = some r → r.seq ≠ q) ∧ ∀ f, c.frame = some f → ∀ r, f.stq = some r → r.seq ≠ q

/-- The queues that an overlay's trailer mask names have finished their work (R32, R33): A, M, V, X, G, the copy path. -/
def TrailerDone (c : Croft) : Prop :=
  let landed (e : Eng) : Prop := c.queue e = [] ∧ ∀ p ∈ c.lands, p.eng ≠ e
  (c.overlay.trailer.testBit 0 = true → landed .A ∧ c.stq = none ∧ c.accs = [])
  ∧ (c.overlay.trailer.testBit 1 = true → landed .M ∧ c.nest = none) ∧ (c.overlay.trailer.testBit 2 = true → landed .V ∧ c.vpush = none)
  ∧ (c.overlay.trailer.testBit 3 = true → c.queue .X = [] ∧ c.indexq = []) ∧ (c.overlay.trailer.testBit 4 = true → c.queue .G = [] ∧ c.genq = [])
  ∧ (c.overlay.trailer.testBit 5 = true → c.copyq = [])

/-- The mixed-radix number that the indices of the levels of one kind make, the outermost level most significant (R28, R31). -/
def digits (kind : Nat) (ls : List Level) (ps : List Nat) : Nat :=
  (ls.zip ps).foldl (fun n p => if p.1.kind = kind then n * p.1.count + p.2 else n) 0

/-- The product of the counts of the levels of one kind. -/
def sizeOf (kind : Nat) (ls : List Level) : Nat := ls.foldl (fun n l => if l.kind = kind then n * l.count else n) 1

/-- An element of a sum of rows (R165): the sum of the elements, exact, modulo 2^width for an integer type whose rows are scattered with addition, else rounded
once; with its flags. -/
def sumOf (etype : Nat) (wrap : Bool) (xs : List Nat) : Nat × Flags :=
  if wrap ∧ tagInt etype = true then (((xs.map fun x => tagIntVal etype x).sum % (2 ^ tagWidth etype : Int)).toNat, 0)
  else tagRnd etype 0 false (exactSum (xs.map fun x => tagValue etype x))

/-- The bytes and flags of len bytes of a sum of rows, each row given by its elements (R165). -/
def sumBytes (etype : Nat) (wrap : Bool) (len : Nat) (rows : List (Nat → Nat)) : List Byte × Flags :=
  let es := (List.range (len / (tagWidth etype / 8))).map fun j => sumOf etype wrap (rows.map fun r => r j)
  (es.flatMap fun e => leBytes (tagWidth etype / 8) e.1, es.foldl (fun f e => f ||| e.2) 0)

/-- A croft's command reads rows of len bytes, in scratchpad or owner memory, one after another (R165): their bytes and the module after them. -/
def RowsRead (n len : Nat) : List (Space × Nat) → State → List (List Byte) → State → Prop
  | [], s, bs, t => bs = [] ∧ t = s
  | (.owner, a) :: l, s, bs, t => ∃ b r s1, bs = b :: r ∧ s.cmdRead n a len = .ok (b, s1) ∧ RowsRead n len l s1 r t
  | (_, a) :: l, s, bs, t => ∃ r, bs = (s.croft n).sp.readN a len :: r ∧ RowsRead n len l s r t

/-- Element j of a row's bytes, w bytes each. -/
def rowElem (w : Nat) (bytes : List Byte) (j : Nat) : Nat := leNat ((bytes.drop (w * j)).take w)

/-- A command's arrival made, its reservation gone (R39). -/
structure Arrived (c d : Croft) (target : Nat) : Prop where
  arv : ∀ k, k < 6 → vget d.arv 0 k = vget c.arv 0 k + (if target = k + 1 then 1 else 0)
  res : ∀ k, k < 6 → vget d.arvRes 0 k = vget c.arvRes 0 k - (if target = k + 1 then 1 else 0)

/-- An accepted command of A may make its first access (R190, R213, R296): no fence before it holds its class, no PGPROBE before it is pending, and A's accesses
and scratchpad writes before it of its class have performed, those of an STQ that still takes its entries among them, but for what a handler's word does not
wait for (log 93). -/
def CommandReady (c : Croft) (seq cls : Nat) : Prop :=
  c.fenceOpen seq cls = true
  ∧ (∀ a ∈ c.accs, a.seq < seq → a.isProbe = false ∧ (a.ord.cls = cls → a.halt = .faulted ∧ Presses c seq))
  ∧ (∀ p, p ∈ c.lands ∨ SetAside c seq p → p.seq < seq → p.spWrite ≠ none → clsOf p.ins ≠ cls)
  ∧ ∀ r, StqBefore c seq r → r.seq < seq → r.space ≠ .acm → r.ord.cls ≠ cls

/-- A croft whose memories, registers and barrier objects are those of another. -/
structure SameData (c d : Croft) : Prop where
  regs   : d.s = c.s ∧ d.b = c.b ∧ d.v = c.v ∧ d.qstat = c.qstat ∧ d.handler = c.handler ∧ d.rngseed = c.rngseed
  memory : d.sp = c.sp ∧ d.acm = c.acm ∧ d.imem = c.imem ∧ d.zclear = c.zclear ∧ d.gates = c.gates
  matrix : d.records = c.records ∧ d.mtab = c.mtab ∧ d.live = c.live ∧ d.abs = c.abs

/-- The VCLOCK that a croft's clock shows at cy t: one that waits in SCORE mode has run on (R47). -/
def vcAt (c : Croft) (t : Nat) : Nat := match c.mode with | .fixed => c.vclock | .score => if c.freeze = {} then c.vclock + (t - c.now) else c.vclock

/-- The cy up to which the slots of a croft's Mill count, t the present one (R147, R148): past the contracted landing vc of a nest that neither is late nor
follows a replay sequence, the cy of that vc. -/
def millTime (c : Croft) (t : Nat) : Nat :=
  match c.nest, c.lands.find? fun p => decide (p.op = .nest) with
  | some x, some p => if x.replay ∨ x.breach then t else t - (c.landLimit - p.due)
  | _, _ => t

/-- Every bank of the scratchpad is up. -/
def AllUp (c : Croft) : Prop := ∀ k, k < 32 → vget c.gates .up k = .up

/-- A croft with nothing that stops its clock. -/
def Running (c : Croft) : Prop := c.freeze = {}

/-- What every step keeps: owner memory in its canonical form (R3), an operator key left (R268), and without power no owner, no croft's work and no
memory (R21). -/
structure Inv (s : State) : Prop where
  memory : Memory.wf s.hbm = true
  keys   : s.opKeys ≠ []
  power  : s.power = false → s.owners = [] ∧ s.crofts = [] ∧ s.hbm = []

/-! ### Values of vectors -/

/-- A source operand of a vector instruction: one register, or the pair that a .W form names (R155), empty where the pair breaks it. -/
def source (c : Croft) (w : Bool) (n : Nat) : VReg := match c.vsrc w n with | .ok v => v | .error _ => {}

/-- Element i of a vector as a number, 0 past the end. -/
def nth (v : VReg) (i : Nat) : Nat := ((elems v.runs).getD i 0).toNat

/-- A vector result: its tag, its n elements, each the low 32 bits of g's code, and the union of g's flags (R156). -/
def Each (r : VRes) (tag n : Nat) (g : Nat → Nat × Flags) : Prop :=
  r.vd.tag = tag ∧ elems r.vd.runs = (List.range n).map (fun i => BitVec.ofNat 32 (g i).1)
  ∧ r.flags = (List.range n).foldl (fun f i => f ||| (g i).2) 0

/-- A source operand can be read (R155): a .W pair with two non-empty members has one tag and at most 4,096 elements. -/
def Readable (c : Croft) (w : Bool) (n : Nat) : Prop :=
  let x := vget c.v {} n
  let y := vget c.v {} (n + 1)
  w = true → x.runs ≠ [] → y.runs ≠ [] → x.tag = y.tag ∧ x.len + y.len ≤ 4096

/-- The runs of an element list: one more than the places where neighbours differ (R156). -/
def runCount : List (BitVec 32) → Nat
  | [] => 0
  | [_] => 1
  | x :: y :: l => if x = y then runCount (y :: l) else 1 + runCount (y :: l)

/-- The most runs of a result (R156). -/
def limit (w : Bool) : Nat := if w then 128 else 64

/-- A vector instruction's answer (R156, R158): LENMIS where its operands do not fit it, RUNOVF where they do and the elements of the result make too many
runs, and else the elements, merged, with its flags. -/
def Gives (f : Except VErr VRes) (w : Bool) (good : Prop) (tag : Nat) (es : List (BitVec 32)) (flags : Flags) : Prop :=
  (¬good → f = .error .lenmis)
  ∧ (good → limit w < runCount es → f = .error .runovf)
  ∧ (good → runCount es ≤ limit w →
      ∃ r, f = .ok r ∧ r.vd.tag = tag ∧ elems r.vd.runs = es ∧ Merged r.vd.runs ∧ r.side = none ∧ r.flags = flags)

/-- The answer whose n elements are the low 32 bits of g's codes, with the union of g's flags. -/
def Answers (f : Except VErr VRes) (w : Bool) (good : Prop) (tag n : Nat) (g : Nat → Nat × Flags) : Prop :=
  Gives f w good tag ((List.range n).map fun i => BitVec.ofNat 32 (g i).1) ((List.range n).foldl (fun f i => f ||| (g i).2) 0)

/-- The answer of an instruction that cuts runs and merges none (R358), of a number of runs. -/
def Cuts (f : Except VErr VRes) (w : Bool) (good : Prop) (tag runs : Nat) (es : List (BitVec 32)) : Prop :=
  (¬good → f = .error .lenmis)
  ∧ (good → limit w < runs → f = .error .runovf)
  ∧ (good → runs ≤ limit w →
      ∃ r, f = .ok r ∧ r.vd.tag = tag ∧ elems r.vd.runs = es ∧ RunsOk r.vd ∧ r.vd.runs.length = runs ∧ r.side = none ∧ r.flags = 0)

/-- The runs of a vector with an element from index a on and before index b. -/
def runsIn (v : VReg) (a b : Nat) : Nat :=
  let start (j : Nat) : Nat := ((v.runs.take j).map Run.count).sum
  ((List.range v.runs.length).filter fun j => max a (start j) < min b (start (j + 1))).length

/-- An exact integer result of an n-bit type (R343, R349): modulo 2^n, or with sat clamped to the type's range with SATB. -/
def intOut (tag : Nat) (sat : Bool) (z : Int) : Nat × Flags :=
  let n := tagWidth tag
  let lo : Int := if tagSigned tag then -(2 ^ (n - 1)) else 0
  let hi : Int := if tagSigned tag then 2 ^ (n - 1) - 1 else 2 ^ n - 1
  let y := if sat then max lo (min hi z) else z
  ((y % (2 ^ n : Int)).toNat, if sat ∧ y ≠ z then fSATB else 0)

/-- The lesser of two codes of a tag, or with `up` the greater (R160, R349): a NaN of either gives the canonical NaN, and −0 is below +0. -/
def least (up : Bool) (tag x y : Nat) : Nat :=
  match tagFmt tag with
  | some f =>
    if f.value x = .nan ∨ f.value y = .nan then f.nanCode
    else if (if up then FV.lt true (f.value x) (f.value y) else FV.lt true (f.value y) (f.value x)) then y else x
  | none => if tagIntVal tag y < tagIntVal tag x then (if up then x else y) else if up then y else x

/-- An element converted to a tag (R347): between equal tags only a NaN changes, else the value of the source is rounded into the target; a MASK target
tells zero from the rest. -/
def converted (src dst mode : Nat) (sat : Bool) (x : Nat) : Nat × Flags :=
  let v : FV := match tagFmt src with
    | some f => f.value x
    | none => if tagSigned src then .ofInt (signedOf (tagWidth src) x) else .num false (x % 2 ^ tagWidth src) 0
  if src = dst then ((match tagFmt src with | some f => if v = .nan then f.nanCode else x | none => x), 0)
  else match tagFmt dst with
    | some f => rnd f mode sat v
    | none => if dst = 12 then (if v.isZero then 0 else 1, 0) else rndTagInt (tagWidth dst) (tagSigned dst) mode v

/-- What VRED makes of elements (R160, R357): SUM 0, exactly and rounded once, a MASK's ones counted; MIN 1; MAX 2; AND 3; OR 4; XOR 5, each with its
value for no elements. -/
def reduced (op tag : Nat) (l : List Nat) : Nat × Flags :=
  let w := tagWidth tag
  let extreme (up : Bool) : Nat := match l with
    | a :: rest => rest.foldl (least up tag) (least up tag a a)
    | [] => match tagFmt tag with
      | some f => (if up then 2 ^ (w - 1) else 0) + (if f.sp = .ieee then f.infCode else f.maxCode)
      | none => if tagSigned tag then (if up then 2 ^ (w - 1) else 2 ^ (w - 1) - 1) else if up then 0 else 2 ^ w - 1
  match op with
  | 0 => match tagFmt tag with
    | some f => rnd f 0 false (exactSum (l.map f.value))
    | none => (((l.map fun x => tagIntVal tag x).sum % (2 ^ (if tag = 12 then 32 else w) : Int)).toNat, 0)
  | 1 => (extreme false, 0)
  | 2 => (extreme true, 0)
  | 3 => (l.foldl (· &&& ·) (2 ^ w - 1), 0)
  | 4 => (l.foldl (· ||| ·) 0, 0)
  | _ => (l.foldl (· ^^^ ·) 0, 0)

/-- The value of element i of a block image in an MX format (R100): block i / 32, its first byte the scale, its elements packed from bit 0 of the next byte upward;
a scale of 0xFF makes every element NaN. -/
def blockElem (o : OpFmt) (bytes : List Nat) (i : Nat) : FV :=
  let raw := ((bytes.drop (o.rowBytes * (i / 32))).take o.rowBytes).foldr (fun b a => b + 256 * a) 0
  let code := raw / 256 / 2 ^ (o.ewidth * (i % 32)) % 2 ^ o.ewidth
  let k : Int := (raw % 256 : Nat) - 127
  if raw % 256 = 0xFF then .nan
  else match o with
    | .flt f _ => (f.value code).scale k
    | .mxint n => (FV.ofInt (signedOf n code)).scale (k - (n - 2 : Nat))

/-! ### Row maps (R171 to R174) -/

/-- CNT of row k of the map at a (R172). -/
def mapCnt (c : Croft) (a k : Nat) : Nat := c.sp.le (a + 64 + 4 * k) 4 / 2 ^ 16

/-- PLC of row k of the map at a (R172). -/
def mapPlc (c : Croft) (a k : Nat) : Nat := c.sp.le (a + 64 + 4 * k) 4 / 2 ^ 8 % 2 ^ 8

/-- The bytes of the map at a of n rows with another GEN, other counters and other placements: the rest of its header stays (R171, R172). -/
def mapImage (c : Croft) (a n gen : Nat) (cnt plc : Nat → Nat) : List Byte :=
  c.sp.readN a 24 ++ leBytes 2 gen ++ c.sp.readN (a + 26) 38 ++ (List.range n).flatMap fun k => leBytes 4 (2 ^ 16 * cnt k + 2 ^ 8 * plc k)

/-- A vector element fires (R173): of a float tag where a bit other than its sign is 1, of another where any bit is. -/
def firing (v : VReg) (k : Nat) : Bool := nth v k % 2 ^ (if (tagFmt v.tag).isSome then tagWidth v.tag - 1 else tagWidth v.tag) != 0

/-- Row j stands above row k in rank order (R174). -/
def Above (cnt : Nat → Nat) (j k : Nat) : Prop := cnt k < cnt j ∨ (cnt j = cnt k ∧ j < k)

/-- The demotion of R174 over rows in order: the placements and the changed slots before it and after it. -/
def Demotes (cnt : Nat → Nat) (demo : Nat) : List Nat → (Nat → Nat) → List Nat → (Nat → Nat) → List Nat → Prop
  | [], p, ch, p', ch' => p' = p ∧ ch' = ch
  | k :: ks, p, ch, p', ch' =>
    (p k ≠ 0xFF ∧ cnt k < demo ∧ ch.length < 15 → Demotes cnt demo ks (fun r => if r = k then 0xFF else p r) (if p k ∈ ch then ch else p k :: ch) p' ch')
    ∧ (¬(p k ≠ 0xFF ∧ cnt k < demo ∧ ch.length < 15) → Demotes cnt demo ks p ch p' ch')

/-- The promotion of R174 over cold rows in rank order, of n rows and h slots: a row takes the lowest free slot, or, where none is free, that of the hot row
lowest in rank order if its counter is greater; it stops there else, and where a sixteenth slot would change. -/
def Promotes (cnt : Nat → Nat) (n h : Nat) : List Nat → (Nat → Nat) → List Nat → (Nat → Nat) → List Nat → Prop
  | [], p, ch, p', ch' => p' = p ∧ ch' = ch
  | c :: cs, p, ch, p', ch' =>
    let free (j : Nat) : Prop := j < h ∧ ∀ k, k < n → p k ≠ j
    let hot (k : Nat) : Prop := k < n ∧ p k ≠ 0xFF
    let stops : Prop := p' = p ∧ ch' = ch
    let takes (j : Nat) (q : Nat → Nat) : Prop :=
      (j ∈ ch ∨ ch.length ≠ 15 → Promotes cnt n h cs (fun r => if r = c then j else q r) (if j ∈ ch then ch else j :: ch) p' ch')
      ∧ (¬(j ∈ ch ∨ ch.length ≠ 15) → stops)
    (∀ j, free j → (∀ i, free i → j ≤ i) → takes j p)
    ∧ ((∀ j, ¬free j) → ∀ v, hot v → (∀ k, hot k → k ≠ v → Above cnt k v) →
        (cnt c ≤ cnt v → stops) ∧ (cnt v < cnt c → takes (p v) fun r => if r = v then 0xFF else p r))

/-- The row of n in a slot, 0xFFFF for none (R174). -/
def rowAt (p : Nat → Nat) (n j : Nat) : Nat := ((List.range n).find? fun k => p k = j).getD 0xFFFF

/-! ### Tiles (R112, R134, R177) -/

/-- The value of a window under a reference (R111). -/
def windowValue (ref : Int) (w : Win) : FV :=
  if w.st = 0 then .num (decide (w.w < 0)) w.w.natAbs (ref - 64) else if w.st = 1 then .inf false else if w.st = 2 then .inf true else .nan

/-- JOIN of windows' values (R112): their exact sum rounded once, an exact zero +0. -/
def joined (l : List FV) : Nat × Flags := if (exactSum l).isZero then (0, 0) else rnd fp32 0 false (exactSum l)

/-- Element i of the live tile as MDRAIN gives it to ACM tile t (R134), with its flags. -/
def drained (c : Croft) (t : Nat) (add : Bool) (i : Nat) : Nat × Flags :=
  let old : BitVec 32 := BitVec.ofNat 32 (c.acm.le (16384 * t + 4 * i) 4)
  let live : BitVec 32 := c.live.vals.getD i 0
  let win := windowValue c.live.tref (c.live.wins.getD i {})
  match c.live.kind with
  | .fp32 => if add then rnd fp32 0 false (FV.add (fp32.value old.toNat) (fp32.value live.toNat)) else (live.toNat, 0)
  | .int32 => if add then ((old + live).toNat, 0) else (live.toNat, 0)
  | .window => if add then rnd fp32 0 false (FV.add (fp32.value old.toNat) win) else joined [win]

/-- A Gleaner's partial entry (R176) as the value of its window. -/
def partialValue (e : Nat) : FV := windowValue (signedOf 9 (e / 2 ^ 98 % 2 ^ 9)) ⟨signedOf 96 (e % 2 ^ 96), e / 2 ^ 96 % 4⟩

/-- Element (m, k) of a split product (R177), with its flags: +0 past the map's rows, of a cold row its partial alone, of a hot row also the live tile's
window of its slot. -/
def splitElem (c : Croft) (nrows gbase : Nat) (plc : Nat → Nat) (m k : Nat) : Nat × Flags :=
  let part := partialValue (c.sp.le (gbase + (64 * m + k) * 16) 16)
  if nrows ≤ k then (0, 0)
  else if plc k = 0xFF then joined [part]
  else joined [windowValue c.live.tref (c.live.wins.getD (64 * m + plc k) {}), part]

/-- A window after products under a reference (R111): the sum of the products' integers, each rounded once, and the state that their infinities and NaNs
leave. -/
def windowOf (ref : Int) (xs : List FV) : Win where
  w := (xs.map fun x => match x with | .num s m e => rndInt 0 s m (e + (64 - ref)) | _ => 0).sum
  st := if FV.nan ∈ xs ∨ (FV.inf false ∈ xs ∧ FV.inf true ∈ xs) then 3 else if FV.inf false ∈ xs then 1 else if FV.inf true ∈ xs then 2 else 0

/-- 4,096 elements as a tile's values and the union of their flags. -/
def tileOf (g : Nat → Nat × Flags) : List (BitVec 32) × Flags :=
  ((List.range 4096).map fun i => BitVec.ofNat 32 (g i).1, (List.range 4096).foldl (fun f i => f ||| (g i).2) 0)

/-- The live record as a tile takes it (R134, R177): KIND, bits 13 and 12, is 0 for a WINDOW tile. -/
def drainedRecord (l : Live) : Word64 := if l.kind = .window then l.lrec &&& 0xFFFFFFFFFFFFCFFF#64 else l.lrec

/-- A record's grades may govern under a contract (R106, R150): it has a graded step, and every grade in use lies from FLOOR to CEIL and on the ladders of
both families. -/
def Governs (contract r : Word64) : Prop :=
  let g0 := r.toNat / 2 ^ 61
  let ncp := r.toNat / 2 ^ 59 % 4
  let ladder (mx : Bool) : List Nat := if mx then [4, 3, 2] else [5, 4, 2, 1]
  let good (g : Nat) : Prop :=
    contract.toNat / 2 ^ 9 % 8 ≤ g ∧ g ≤ contract.toNat / 2 ^ 6 % 8 ∧ g ∈ ladder (contract.getLsbD 4) ∧ g ∈ ladder (contract.getLsbD 5)
  g0 ≠ 0 ∧ good g0 ∧ (1 ≤ ncp → good (r.toNat / 2 ^ 44 % 8)) ∧ (2 ≤ ncp → good (r.toNat / 2 ^ 29 % 8)) ∧ (3 ≤ ncp → good (r.toNat / 2 ^ 14 % 8))

/-! ### The generation engine (R244 to R247) -/

/-- The scratchpad ranges that a generation command's block names (R242, R244, R298), GCOMP's the loaded staging region. -/
def genAreas (c : Croft) (op : Nat) (b : BitVec 512) : List SpAcc :=
  let f (o n : Nat) : Nat := descField b o n
  match op with
  | 1 => [⟨f 0 4, 4 * f 4 4, false⟩, ⟨f 0x14 4, 512, true⟩]
  | 2 => [⟨f 0 4, 8 * f 4 2, true⟩]
  | 4 => [⟨f 0 4, f 4 4, true⟩]
  | 8 => [⟨f 0 4, 64 * f 10 1 * f 11 1, false⟩, ⟨f 4 4, 64 * f 10 1 * f 8 2, true⟩]
  | 9 => [⟨c.staging.base, 64 * c.staging.esz * c.staging.cap, false⟩]
  | _ => []

/-- The logits that a GSLOW of slot k rereads (R246, R307): those of the slot's last GSHORT in the work queue, else those of a slot that is FAST or SLOW. -/
def slowAreas (c : Croft) (k : Nat) : List SpAcc :=
  let slot := vget c.rows {} k
  match c.genq.reverse.find? fun g => g.op = 1 ∧ g.k = k with
  | some g => [⟨descField g.block 0 4, 4 * descField g.block 4 4, false⟩]
  | none => if slot.st = .fast ∨ slot.st = .slow then [⟨slot.lbase, 4 * slot.v, false⟩] else []

/-- z of an element stands above another's: the greater, −0 below +0, the lower index first where neither is (R245, R246). -/
def Higher (x y : Cand) : Prop :=
  FV.lt true (fp32.value y.z) (fp32.value x.z) = true ∨ (FV.lt true (fp32.value x.z) (fp32.value y.z) = false ∧ x.idx < y.idx)

/-- The greatest of some elements. -/
def Greatest (l : List Cand) (b : Cand) : Prop := b ∈ l ∧ ∀ x ∈ l, x ≠ b → Higher b x

/-- The allowed elements of a row of v logits at lbase with their z (R245): index i is allowed where the mask has no bit for it or a 1; z is the logit times KS,
rounded once, −Inf for a NaN. -/
def candidates (c : Croft) (mask : Option Mask) (lbase v ks : Nat) : List Cand :=
  let bits : List Bool := match mask with | none => List.replicate v true | some m => m.flatMap fun r => List.replicate r.2 r.1
  ((List.range v).filter fun i => bits.getD i false).map fun i =>
    let x := fp32.value (c.sp.le (lbase + 4 * i) 4)
    ⟨i, if x = .nan then 0xFF800000 else (rnd fp32 0 false (x.mul (fp32.value ks))).1⟩

/-- The weight of a z under the row's maximum Z (R245): EXP2 of z − Z; where Z is an infinity, 1 for the elements that equal it and 0 for the rest. -/
def weightOf (zmax z : Nat) : Nat :=
  match fp32.value zmax with
  | .inf _ => if z = zmax then 0x3F800000 else 0
  | _ => exp2 (rnd fp32 0 false (FV.add (fp32.value z) (fp32.value zmax).neg)).1

/-- The exact sum of the weights of some elements. -/
def weights (zmax : Nat) (l : List Cand) : FV := exactSum (l.map fun x => fp32.value (weightOf zmax x.z))

/-- A row's sheaf (R245): for each of 64 segments of ⌈v / 64⌉ elements its greatest, where it has one. -/
def Sheaf (v : Nat) (l : List Cand) (sheaf : List (Option Cand)) : Prop :=
  sheaf.length = 64 ∧ ∀ i, i < 64 →
    let seg := l.filter fun x => i * ((v + 63) / 64) ≤ x.idx ∧ x.idx < (i + 1) * ((v + 63) / 64)
    match sheaf.getD i none with
    | none => seg = []
    | some x => Greatest seg x

/-- The nucleus of some elements (R246, R247): the elements in falling order, all of them for TOPP ≥ 1 or NaN, the first for TOPP ≤ 0, else the shortest
prefix whose exact weight reaches TOPP times the total's, all where none does. -/
def Nucleus (zmax topp : Nat) (total : FV) (l keep : List Cand) : Prop :=
  ∃ srt : List Cand, srt.length = l.length ∧ (∀ x, x ∈ srt ↔ x ∈ l) ∧ srt.Pairwise Higher ∧ keep <+: srt ∧
    let t := fp32.value topp
    let sum (m : Nat) : FV := (srt.take m).foldl (fun a x => FV.add a (fp32.value (weightOf zmax x.z))) (.num false 0 0)
    let reaches (m : Nat) : Prop := FV.lt false (sum m) (t.mul total) = false
    if t = .nan ∨ FV.lt false t (.num false 1 0) = false then keep = srt
    else if FV.lt false (.num false 0 0) t = false then keep.length = min 1 srt.length
    else (keep = srt ∨ reaches keep.length) ∧ ∀ m, 1 ≤ m → m < keep.length → ¬reaches m

/-! ### Collectives (R199) -/

/-- NARROW and DEQ of a chunk (R199): what FP32 codes stand for once sent, by NF: 0 FP32, 1 BF16, 2 E4M3, 3 E5M2, each saturating, 4 MXINT8 in blocks of 32. -/
def sentValues (nf : Nat) (ys : List Nat) : List FV :=
  let through (f : Fmt) : List FV := ys.map fun y => f.value (rnd f 0 true (fp32.value y)).1
  match nf with
  | 0 => ys.map fp32.value
  | 1 => through bf16
  | 2 => through e4m3
  | 3 => through e5m2
  | _ => (List.range (ys.length / 32 * 32)).map fun i =>
      let q := quantBlock (.mxint 8) 0 (((ys.drop (i / 32 * 32)).take 32).map fun y => (fp32.value y, false))
      blockElem (.mxint 8) (blockBytes (.mxint 8) q.1 q.2.1) (i % 32)

/-- What a position sends of a chunk s with its residual r (R199): the two added and rounded once. -/
def withResidual (s r : List Nat) : List Nat := List.zipWith (fun x y => (rnd fp32 0 false (FV.add (fp32.value x) (fp32.value y))).1) s r

/-- The residual that a sent chunk leaves (R199): what the sending lost, +0 where a value is no number. -/
def lost (nf : Nat) (ys : List Nat) : List Nat :=
  List.zipWith (fun y (q : FV) => if (fp32.value y).isFin ∧ q.isFin then (rnd fp32 0 false (FV.add (fp32.value y) q.neg)).1 else 0) ys (sentValues nf ys)

/-- Chunk k of a reduction after h sends around the ring of `parts` positions (R199), from the X of each position and its residual of the chunk: it starts at
position k + 1, and every position on its way adds its own chunk to what it was sent. -/
def ringSum (nf parts k : Nat) (x r : Nat → List Nat) : Nat → List Nat
  | 0 => x ((k + 1) % parts)
  | h + 1 =>
    List.zipWith (fun q y => (rnd fp32 0 false (FV.add q (fp32.value y))).1)
      (sentValues nf (withResidual (ringSum nf parts k x r h) (r ((k + 1 + h) % parts)))) (x ((k + 1 + h + 1) % parts))

/-- The FP32 codes that a member brings to a collective (R199). -/
def brought (s : State) (m : Member) : List Nat :=
  match m.remote with
  | some p => p.x
  | none => (List.range m.n).map fun i => (s.croft m.croft).sp.le (m.base + 4 * i) 4

/-- The residuals that a member brings (R199): +0 without a carry and for a RID that is not valid. -/
def residuals (s : State) (m : Member) : List Nat :=
  match m.remote with
  | some p => if p.carry then p.res else List.replicate m.n 0
  | none =>
    if m.rid ≠ 0 ∧ vget (s.croft m.croft).collValid false m.rid = true then (List.range m.n).map fun i => (s.croft m.croft).sp.le (m.region + 4 * i) 4
    else List.replicate m.n 0

/-- What a generation leaves with its members here (R199, R286): position p holds chunk p of a reduce-scatter, every position all chunks of the others, and
the residuals of the chunks that it sent; its other chunks and residuals stay. -/
def Collected (s t : State) (ms : List Member) : Prop :=
  ∀ m0, ms.head? = some m0 → m0.op ≤ 2 → m0.n % (32 * m0.parts) = 0 →
    let len := m0.n / m0.parts
    let chunk (l : List Nat) (k : Nat) : List Nat := (l.drop (len * k)).take len
    let x (k p : Nat) : List Nat := chunk (brought s (ms.getD p m0)) k
    let r (k p : Nat) : List Nat := chunk (residuals s (ms.getD p m0)) k
    let before (p k : Nat) : List Nat := if m0.op = 1 then x k p else ringSum m0.nf m0.parts k (x k) (r k) ((p + m0.parts - k + m0.parts - 1) % m0.parts)
    let sent (p k : Nat) : List Nat := withResidual (before p k) (r k p)
    let sends (p k : Nat) : Prop := if m0.op = 0 then p ≠ k else if m0.op = 1 then p = k else True
    ∀ p m, ms[p]? = some m → m.remote = none → (s.croft m.croft).memWf = true → m.base + 4 * m.n ≤ 2 ^ 21 → m.region + 4 * m.n ≤ 2 ^ 21 →
      (m.rid = 0 ∨ m.region + 4 * m.n ≤ m.base ∨ m.base + 4 * m.n ≤ m.region) →
      let word (z : State) (a i : Nat) : Nat := (z.croft m.croft).sp.le (a + 4 * i) 4
      ∀ k i, k < m0.parts → i < len →
        word t m.base (len * k + i) = (if m0.op ≠ 0 then (rnd fp32 0 false ((sentValues m0.nf (sent k k)).getD i .nan)).1
          else if k = p then (before k k).getD i 0 else word s m.base (len * k + i))
        ∧ (m.rid ≠ 0 → sends p k → word t m.region (len * k + i) = (lost m0.nf (sent p k)).getD i 0)
        ∧ (m.rid ≠ 0 → ¬sends p k → word t m.region (len * k + i) = word s m.region (len * k + i))

/-! ### What every step keeps of a croft -/

/-- The form of a run-length vector (R154): a tag code of R63, at most `most` runs, each of 1 or more elements with a value of the tag's width, and at most
4,096 elements. -/
def RunForm (most : Nat) (v : VReg) : Prop :=
  v.tag ≤ 12 ∧ v.runs.length ≤ most ∧ v.len ≤ 4096 ∧ ∀ r ∈ v.runs, 1 ≤ r.count ∧ r.value.toNat < 2 ^ tagWidth v.tag

/-- A result in flight leaves run registers and entries of QV0 to QV3 in that form: a register has 64 runs at most, a .W pair 128 (R154, R155, R161). -/
def ResultForm : LandOp → Prop
  | .setV w _ _ r => RunForm (limit w) r.vd ∧ ∀ x, r.side = some x → RunForm (limit w) x
  | .vpop _ _ (some v) => RunForm 64 v
  | .fillV _ _ v => RunForm 4096 v
  | _ => True

/-- A croft in its form: its memories canonical (R3), its operand queues, with what is on its way to them, and its command queues inside their depths (R41,
R298), and its run registers, the vectors in QV0 to QV3 and on their way there as R154 and R161 say. -/
structure Formed (c : Croft) : Prop where
  memories  : Memory.wf c.sp = true ∧ Memory.wf c.acm = true ∧ Memory.wf c.imem = true
  operands  : c.qs.length + c.pendS ≤ 16 ∧ c.qr.length + c.pendR ≤ 16 ∧ c.qc.length ≤ 16 ∧ c.qg.length ≤ 16 ∧ ∀ k, k < 4 → (vget c.qv [] k).length ≤ 4
  commands  : c.copyq.length ≤ 8 ∧ c.genq.length ≤ 8
  registers : ∀ k, k < 32 → RunForm 64 (vget c.v {} k)
  entries   : ∀ k, k < 4 → ∀ x ∈ vget c.qv [] k, ∀ v, x.val = some v → RunForm 4096 v
  results   : ∀ p ∈ c.inFlight, ResultForm p.op
  accesses  : ∀ a ∈ c.accs, ∀ q id form, a.kind = .ldq q id form → 1 ≤ q → q ≤ 4 → fld form 28 28 = 0 ∧ fld form 27 24 ≤ 12 ∧ fld form 12 0 ≤ 4096

/-- Every croft, and every context saved at pre-emption, is in its form. -/
def AllFormed (s : State) : Prop := (∀ n, Formed (s.croft n)) ∧ ∀ p ∈ s.saved, Formed p.2.croft

end Sys2Proof.Claims

open Sys2Proof Sys2Proof.Machine

/-- Every instruction of two scalar operands completes: x, then y, then WRITE(d, v) at its latency (R273, R277, R291, R318, R329, R331, R365). -/
def Sys2Proof.Claims.ScalarTwoOperands : Prop :=
  ∀ (i : Instr) (t : Tok) (o : CR) (x : Ext) (lat : Nat) (f : Word64 → Word64 → Word64) (s : State) (c c1 c2 : Croft) (u v : Word64) (op : LandOp),
    Claims.scalar2 i = some (t, o, x, lat, f) → Ready i t s c →
    Claims.read c o.a.toNat = some (u, c1) → Claims.second c1 o x = some (v, c2) → Claims.written c2 o.d.toNat (f u v) = some op →
    exec i s = .next (s.setCur (c2.land .C i t.sig.toNat lat op))

/-- CLZ, POPC and LI complete (R277, R315, R331). -/
def Sys2Proof.Claims.ScalarOneOperand : Prop :=
  ∀ (t : Tok) (o : CR) (x : Ext) (s : State) (c c1 : Croft) (u : Word64) (op : LandOp),
    (Ready (.clz t o x) t s c → Claims.read c o.a.toNat = some (u, c1) → Claims.written c1 o.d.toNat (BitVec.ofNat 64 (Claims.clz u)) = some op →
      exec (.clz t o x) s = .next (s.setCur (c1.land .C (.clz t o x) t.sig.toNat 1 op)))
    ∧ (Ready (.popc t o x) t s c → Claims.read c o.a.toNat = some (u, c1) → Claims.written c1 o.d.toNat (BitVec.ofNat 64 (Claims.ones u)) = some op →
      exec (.popc t o x) s = .next (s.setCur (c1.land .C (.popc t o x) t.sig.toNat 1 op)))
    ∧ (Ready (.li t o x) t s c → Claims.written c o.d.toNat (Claims.immediate o x) = some op →
      exec (.li t o x) s = .next (s.setCur (c.land .C (.li t o x) t.sig.toNat 1 op)))

/-- A scalar instruction whose operand queue has nothing to give, or whose destination queue has no room, waits: it stands again at the head of C's
queue, and nothing else changes (R41, R45, R273). -/
def Sys2Proof.Claims.ScalarWaits : Prop :=
  ∀ (i : Instr) (t : Tok) (o : CR) (x : Ext) (lat : Nat) (f : Word64 → Word64 → Word64) (s : State) (c : Croft),
    Claims.scalar2 i = some (t, o, x, lat, f) → Ready i t s c →
    (Claims.read c o.a.toNat = none
      ∨ (∃ u c1, Claims.read c o.a.toNat = some (u, c1) ∧ Claims.second c1 o x = none)
      ∨ (∃ u c1 v c2, Claims.read c o.a.toNat = some (u, c1) ∧ Claims.second c1 o x = some (v, c2) ∧ Claims.written c2 o.d.toNat (f u v) = none)) →
    exec i s = .next (s.setCur { s.cur with
      queues := vset s.cur.queues 0 (⟨s.cur.issueSeq, s.cur.issuePc, .ins i s.cur.kept⟩ :: vget s.cur.queues [] 0), waited := true })

/-- CLZ, POPC and LI wait in the same way (R273, R315). -/
def Sys2Proof.Claims.OneOperandWaits : Prop :=
  ∀ (t : Tok) (o : CR) (x : Ext) (s : State) (c : Croft),
    (Ready (.clz t o x) t s c →
      (Claims.read c o.a.toNat = none
        ∨ ∃ p, Claims.read c o.a.toNat = some p ∧ Claims.written p.2 o.d.toNat (BitVec.ofNat 64 (Claims.clz p.1)) = none) →
      exec (.clz t o x) s = .next (s.holdBack .C (.clz t o x)))
    ∧ (Ready (.popc t o x) t s c →
      (Claims.read c o.a.toNat = none
        ∨ ∃ p, Claims.read c o.a.toNat = some p ∧ Claims.written p.2 o.d.toNat (BitVec.ofNat 64 (Claims.ones p.1)) = none) →
      exec (.popc t o x) s = .next (s.holdBack .C (.popc t o x)))
    ∧ (Ready (.li t o x) t s c → Claims.written c o.d.toNat (Claims.immediate o x) = none → exec (.li t o x) s = .next (s.holdBack .C (.li t o x)))

/-- The encoding faults of the scalar instructions, with nothing of the word done (R277, R315, R318, R365): an extension word with i = 0 is ILLEXT,
b ≠ 0 with an extension word ILLOP; CLZ and POPC with b ≠ 0 or i ≠ 0, and LI with i = 0, a ≠ 0, or b ≠ 0 with an extension word, are ILLOP. That a word
which breaks both rules is ILLEXT is the model's reading (log 6). -/
def Sys2Proof.Claims.ScalarEncodings : Prop :=
  ∀ (t : Tok) (o : CR) (x : Ext) (s : State), s.power = true →
    (∀ i lat f, Claims.scalar2 i = some (t, o, x, lat, f) →
      (o.i = false → x ≠ .none → exec i s = .next (Claims.raised s i { code := .illext }))
      ∧ (o.i = true → o.b ≠ 0 → x ≠ .none → exec i s = .next (Claims.raised s i { code := .illop })))
    ∧ (∀ i, i = .clz t o x ∨ i = .popc t o x →
      (o.i = false → x ≠ .none → exec i s = .next (Claims.raised s i { code := .illext }))
      ∧ (x = .none → o.b ≠ 0 ∨ o.i = true → exec i s = .next (Claims.raised s i { code := .illop })))
    ∧ (o.i = false ∨ o.a ≠ 0 ∨ (o.b ≠ 0 ∧ x ≠ .none) → exec (.li t o x) s = .next (Claims.raised s (.li t o x) { code := .illop }))

/-- ScalarTwoOperands and ScalarOneOperand and ScalarWaits and OneOperandWaits and ScalarEncodings together. -/
def Obligations.ScalarInstructions : Prop := Claims.ScalarTwoOperands ∧ Claims.ScalarOneOperand ∧ Claims.ScalarWaits ∧ Claims.OneOperandWaits ∧ Claims.ScalarEncodings

/-- A conditional branch reads x, then y; taken, it moves fetch to its target and the next packet 3 vc on, or raises BOUNDS with the target in FAULTADDR
outside the overlay; not taken, the splitter goes on (R59, R258, R284). How a negative target stands in FAULTADDR is the model's reading (log 29). -/
def Obligations.ConditionalBranches : Prop :=
  ∀ (i : Instr) (t : Tok) (o : CB) (x : Ext) (taken : Word64 → Word64 → Bool) (s : State) (c c1 c2 : Croft) (u v : Word64),
    Claims.branch i = some (t, o, x, taken) → Ready i t s c →
    Claims.read c o.a.toNat = some (u, c1) → Claims.read c1 o.b.toNat = some (v, c2) →
    (taken u v = false → exec i s = .next (s.setCur ({ c2 with split := { c2.split with stopped := false } }.pushSig .C t.sig.toNat)))
    ∧ (taken u v = true → 0 ≤ Claims.target c2.issuePc o x → Claims.target c2.issuePc o x < c2.overlay.len →
        exec i s = .next (s.setCur
          ({ c2 with split := { pc := (Claims.target c2.issuePc o x).toNat }, nextVc := Claims.nextAfter c2 3 }.pushSig .C t.sig.toNat)))
    ∧ (taken u v = true → ¬(0 ≤ Claims.target c2.issuePc o x ∧ Claims.target c2.issuePc o x < c2.overlay.len) →
        exec i s = .next (Claims.raised s i { code := .bounds, addr := (BitVec.ofInt 64 (Claims.target c2.issuePc o x)).toNat }))

/-- JMP and CALL go to their target, RET to the word index in Sa, JTAB to an entry of a fragment table (R285, R311, R312, R336): the next packet
3 vc on in FIXED mode. Where the splitter had followed a JMP or CALL already, it stands as before. CALL's link lands in Sa at 1 vc. -/
def Sys2Proof.Claims.Jumps : Prop :=
  ∀ (t : Tok) (s : State) (c : Croft),
    (∀ (o : CB) (x : Ext), Ready (.jmp t o x) t s c → 0 ≤ Claims.target c.issuePc o x → Claims.target c.issuePc o x < c.overlay.len →
      exec (.jmp t o x) s = .next (s.setCur ({ c with
        split := if c.split.stopped ∧ c.split.seq = c.issueSeq then { pc := (Claims.target c.issuePc o x).toNat } else c.split
        nextVc := Claims.nextAfter c 3 }.pushSig .C t.sig.toNat)))
    ∧ (∀ (o : CB) (x : Ext) (op : LandOp), Ready (.call t o x) t s c → 0 ≤ Claims.target c.issuePc o x →
        Claims.target c.issuePc o x < c.overlay.len → Claims.written c o.a.toNat (BitVec.ofNat 64 (c.issuePc + 1)) = some op →
      exec (.call t o x) s = .next (s.setCur (Croft.land { c with
        split := if c.split.stopped ∧ c.split.seq = c.issueSeq then { pc := (Claims.target c.issuePc o x).toNat } else c.split
        nextVc := Claims.nextAfter c 3 } .C (.call t o x) t.sig.toNat 1 op)))
    ∧ (∀ (o : CX) (x : Ext) (u : Word64) (c1 : Croft), Ready (.ret t o x) t s c → Claims.read c o.a.toNat = some (u, c1) → u.toNat < c1.overlay.len →
      exec (.ret t o x) s = .next (s.setCur ({ c1 with split := { pc := u.toNat }, nextVc := Claims.nextAfter c1 3 }.pushSig .C t.sig.toNat)))
    ∧ (∀ (o : CX) (x : Ext) (u : Word64) (c1 : Croft) (tab : List Nat) (w : Nat), Ready (.jtab t o x) t s c → Claims.read c o.a.toNat = some (u, c1) →
        c1.overlay.frags.find? (fun p => p.1 == o.k.toNat) = some (o.k.toNat, tab) → tab[u.toNat]? = some w → w < c1.overlay.len →
      exec (.jtab t o x) s = .next (s.setCur ({ c1 with split := { pc := w }, nextVc := Claims.nextAfter c1 3 }.pushSig .C t.sig.toNat)))

/-- A JMP, CALL or RET outside the overlay, and a JTAB without such an entry, raise BOUNDS (R284, R312, R336). How a negative target stands in FAULTADDR
is the model's reading (log 29). -/
def Sys2Proof.Claims.JumpsOutside : Prop :=
  ∀ (t : Tok) (s : State) (c : Croft),
    (∀ (o : CB) (x : Ext), Ready (.jmp t o x) t s c → ¬(0 ≤ Claims.target c.issuePc o x ∧ Claims.target c.issuePc o x < c.overlay.len) →
      exec (.jmp t o x) s = .next (Claims.raised s (.jmp t o x) { code := .bounds, addr := (BitVec.ofInt 64 (Claims.target c.issuePc o x)).toNat }))
    ∧ (∀ (o : CB) (x : Ext), Ready (.call t o x) t s c → ¬(0 ≤ Claims.target c.issuePc o x ∧ Claims.target c.issuePc o x < c.overlay.len) →
      exec (.call t o x) s = .next (Claims.raised s (.call t o x) { code := .bounds, addr := (BitVec.ofInt 64 (Claims.target c.issuePc o x)).toNat }))
    ∧ (∀ (o : CX) (x : Ext) (u : Word64) (c1 : Croft), Ready (.ret t o x) t s c → Claims.read c o.a.toNat = some (u, c1) → c1.overlay.len ≤ u.toNat →
      exec (.ret t o x) s = .next (Claims.raised s (.ret t o x) { code := .bounds, addr := u.toNat }))
    ∧ (∀ (o : CX) (x : Ext) (u : Word64) (c1 : Croft), Ready (.jtab t o x) t s c → Claims.read c o.a.toNat = some (u, c1) →
        (c1.overlay.frags.find? (fun p => p.1 == o.k.toNat)).bind (fun p => p.2[u.toNat]?) = none →
      exec (.jtab t o x) s = .next (Claims.raised s (.jtab t o x) { code := .bounds, addr := u.toNat }))

/-- Jumps and JumpsOutside together. -/
def Obligations.JumpsAndCalls : Prop := Claims.Jumps ∧ Claims.JumpsOutside

/-- RDCR's value lands in Sd at 1 vc, for every control register (R335); WRCR of QSTAT, HANDLER and RNGSEED lands READ(a) at 1 vc (R364). -/
def Obligations.ControlRegisters : Prop :=
  ∀ (t : Tok) (o : CX) (x : Ext) (s : State) (c c1 : Croft) (u v : Word64) (op : LandOp),
    (Ready (.rdcr t o x) t s c → Claims.control c s.me o.k.toNat = some v → Claims.written c o.d.toNat v = some op →
      exec (.rdcr t o x) s = .next (s.setCur (c.land .C (.rdcr t o x) t.sig.toNat 1 op)))
    ∧ (Ready (.wrcrQstat t o x) t s c → Claims.read c o.a.toNat = some (u, c1) →
      exec (.wrcrQstat t o x) s = .next (s.setCur (c1.land .C (.wrcrQstat t o x) t.sig.toNat 1 (.setCr 3 u))))
    ∧ (Ready (.wrcrHandler t o x) t s c → Claims.read c o.a.toNat = some (u, c1) → u.toNat < 2 ^ 17 →
      exec (.wrcrHandler t o x) s = .next (s.setCur (c1.land .C (.wrcrHandler t o x) t.sig.toNat 1 (.setCr 7 u))))
    ∧ (Ready (.wrcrHandler t o x) t s c → Claims.read c o.a.toNat = some (u, c1) → 2 ^ 17 ≤ u.toNat →
      exec (.wrcrHandler t o x) s = .next (Claims.raised s (.wrcrHandler t o x) { code := .illop }))
    ∧ (Ready (.wrcrRngseed t o x) t s c → Claims.read c o.a.toNat = some (u, c1) →
      exec (.wrcrRngseed t o x) s = .next (s.setCur (c1.land .C (.wrcrRngseed t o x) t.sig.toNat 1 (.setCr 11 u))))

/-- WAITE pops k arrivals of C at once, behind the one that its wait = 7 asks for, unless it has popped that already (R363); ABWAIT issues once PHASE exceeds READ(a), or the object is idle (R170, R276); SNAP's bell is
noted (R337); GAP moves the next packet n + 1 vc on (R309). -/
def Sys2Proof.Claims.WaitsAndGaps : Prop :=
  ∀ (t : Tok) (o : CX) (x : Ext) (s : State) (c c1 : Croft) (u : Word64),
    (Ready (.waite t o x) (if s.cur.kept = [] then t else { t with wait := 0 }) s c → o.k.toNat ≤ vget c.arv 0 0 →
      exec (.waite t o x) s = .next (s.setCur ({ c with arv := vset c.arv 0 (vget c.arv 0 0 - o.k.toNat), kept := [] }.pushSig .C t.sig.toNat)))
    ∧ (Ready (.abwait t o x) t s c → Claims.read c o.a.toNat = some (u, c1) →
        ((vget c1.abs {} o.k.toNat).ini = 0 ∨ u.toNat < (vget c1.abs {} o.k.toNat).phase) →
      exec (.abwait t o x) s = .next (s.setCur (c1.pushSig .C t.sig.toNat)))
    ∧ (Ready (.snap t o x) t s c → exec (.snap t o x) s = .next (s.setCur ({ c with bells := c.bells + 1 }.pushSig .C t.sig.toNat)))
    ∧ (Ready (.gap t o x) t s c →
      exec (.gap t o x) s = .next (s.setCur ({ c with
        nextVc := Claims.nextAfter c ((match x with | .none => o.k.toNat | .one p => p.toNat | .two p _ => p.toNat) + 1) }.pushSig .C t.sig.toNat)))

/-- WAITE with too few arrivals, which keeps the one that its wait = 7 has popped, and ABWAIT of an object that is not idle and whose PHASE does not exceed READ(a), wait (R170, R363). -/
def Sys2Proof.Claims.WaitsHold : Prop :=
  ∀ (t : Tok) (o : CX) (x : Ext) (s : State) (c c1 : Croft) (u : Word64),
    (Ready (.waite t o x) (if s.cur.kept = [] then t else { t with wait := 0 }) s c → vget c.arv 0 0 < o.k.toNat →
      (t.wait ≠ 7 → exec (.waite t o x) s = .next (s.holdBack .C (.waite t o x)))
      ∧ (t.wait = 7 → exec (.waite t o x) s = .next ((s.setCur { c with kept := [0] }).holdBack .C (.waite t o x))))
    ∧ (Ready (.abwait t o x) t s c → Claims.read c o.a.toNat = some (u, c1) →
        (vget c1.abs {} o.k.toNat).ini ≠ 0 → (vget c1.abs {} o.k.toNat).phase ≤ u.toNat →
      exec (.abwait t o x) s = .next (s.holdBack .C (.abwait t o x)))

/-- GAP with d, a, or k beside x0 not 0 is ILLOP, and nothing of it is done (R309). -/
def Sys2Proof.Claims.GapEncodings : Prop :=
  ∀ (t : Tok) (o : CX) (x : Ext) (s : State), s.power = true → x.count ≤ 1 → o.d ≠ 0 ∨ o.a ≠ 0 ∨ (o.k ≠ 0 ∧ x ≠ .none) →
    exec (.gap t o x) s = .next (Claims.raised s (.gap t o x) { code := .illop })

/-- WaitsAndGaps and WaitsHold and GapEncodings together. -/
def Obligations.WaitsGapsAndBells : Prop := Claims.WaitsAndGaps ∧ Claims.WaitsHold ∧ Claims.GapEncodings

/-- An SVC freezes the croft with its service number, register and READ(a), and leaves the rest (R340). -/
def Sys2Proof.Claims.ServiceCalls : Prop :=
  ∀ (i : Instr) (t : Tok) (o : CX) (x : Ext) (s : State) (c c1 : Croft) (u : Word64),
    (i = .svcNone t o x ∨ i = .grammarMaskRequest t o x ∨ i = .monitorSnapshotRead t o x ∨ i = .svcUnassigned t o x) →
    Ready i t s c → Claims.read c o.a.toNat = some (u, c1) →
    exec i s = .next (s.setCur { c1 with freeze := { c1.freeze with svc := some (o.k.toNat, o.a.toNat, u, t.sig.toNat) } })

/-- BAR issues once every participant of its field has issued its BAR of the same count, stands at it or has ended, and the furrow's count goes up by
one (R281; that a BAR counts from its first attempt is the model's reading, log 10). -/
def Sys2Proof.Claims.BarIssues : Prop :=
  ∀ (t : Tok) (o : CX) (x : Ext) (s : State) (c : Croft) (u : Furrow) (l : Launch),
    Ready (.bar t o x) t s c → c.furrow = some u → s.launches.find? (fun l => l.num == u.launch) = some l →
    l.parts ≤ (s.setCur { c with furrow := some { u with barTry := some o.k.toNat } }).barArrived u.launch o.k.toNat (vget u.bars 0 o.k.toNat + 1) →
    exec (.bar t o x) s = .next (s.setCur ({ c with
      furrow := some { u with bars := vset u.bars o.k.toNat (vget u.bars 0 o.k.toNat + 1), barTry := none } }.pushSig .C t.sig.toNat))

/-- ServiceCalls and BarIssues together. -/
def Obligations.ServiceCallsAndBars : Prop := Claims.ServiceCalls ∧ Claims.BarIssues

/-- MODE on a drained croft sets the mode and lets the splitter go on; entering FIXED disarms a replay sequence (R42, R322). In FIXED mode on a croft
that has not drained it issues, and its drain begins; in SCORE mode it waits. That a governing sequence ends too, and that a MODE issues before its
drain in FIXED mode, are the model's readings (logs 20, 72). -/
def Obligations.ModeChanges : Prop :=
  ∀ (t : Tok) (o : CX) (x : Ext) (s : State) (c : Croft), Ready (.mode t o x) t s c → c.frame = none →
    let drained : Prop := (∀ e, c.queue e = []) ∧ c.lands = [] ∧ c.stq = none
    (drained → o.k = 0 → exec (.mode t o x) s = .next (s.setCur
        ({ c with mode := .fixed, atVc := c.nextVc, split := { c.split with stopped := false }, draining := none, armed := none, governs := none }.pushSig .C t.sig.toNat)))
    ∧ (drained → o.k = 1 → exec (.mode t o x) s = .next (s.setCur
        ({ c with mode := .score, atVc := c.nextVc, split := { c.split with stopped := false }, draining := none }.pushSig .C t.sig.toNat)))
    ∧ (¬drained → c.mode = .fixed →
        exec (.mode t o x) s = .next (s.setCur { c with draining := some ⟨c.issueSeq, c.issuePc, .ins (.mode { t with wait := 0 } o x) []⟩ }))
    ∧ (¬drained → c.mode = .score → exec (.mode t o x) s = .next (s.holdBack .C (.mode t o x)))

/-- PHASE latches the ranges of its descriptors, all-zero ones left out, into the marker it placed in the named engine's queue, and ILLOP where
a descriptor breaks R93 (R48, R93, R333). -/
def Sys2Proof.Claims.PhaseLatches : Prop :=
  ∀ (t : Tok) (o : CX) (x : Ext) (s : State) (c : Croft), Ready (.phase t o x) t s c →
    let ds := (List.range o.k.toNat).map fun j => if o.a.toNat + j = 0 then 0 else vget c.s 0 (o.a.toNat + j)
    (∀ p, phaseOfDescs ds = some p → exec (.phase t o x) s = .next (s.setCur ((c.latch (phaseEng o.d) c.issueSeq p).pushSig .C t.sig.toNat)))
    ∧ (phaseOfDescs ds = none → exec (.phase t o x) s = .next (Claims.raised s (.phase t o x) { code := .illop }))

/-- What a range descriptor says (R93): bits [14:0] the first 64-byte unit, [31:16] the units, [32] a write range; the reserved bits are 0, at least
one unit, none past the scratchpad. -/
def Sys2Proof.Claims.RangeDescriptors : Prop :=
  ∀ (d : Word64) (w : Bool) (r : Rng),
    rangeOf d = some (w, r) ↔
      (d.toNat / 2 ^ 33 = 0 ∧ d.getLsbD 15 = false ∧ w = d.getLsbD 32 ∧ r = ⟨64 * (d.toNat % 2 ^ 15), 64 * (d.toNat / 2 ^ 16 % 2 ^ 16)⟩
        ∧ 64 ≤ r.len ∧ r.base + r.len ≤ 2 ^ 21)

/-- The phase that descriptors give: all-zero ones are left out, the read ranges and the write ranges stand in order; none where one breaks R93, or
more than four are read ranges or more than four write ranges (R333). The templates of an overlay's header use the same layout: eight descriptors
each for A, M, X and G, the phases that an issue opens (R48, R93). -/
def Sys2Proof.Claims.DescriptorLists : Prop :=
  (∀ (ds : List Word64) (p : Phase), phaseOfDescs ds = some p ↔
    ∃ rs : List (Bool × Rng), (ds.filter (· ≠ 0)).map rangeOf = rs.map some
      ∧ p.reads = (rs.filter fun r => r.1 = false).map (·.2) ∧ p.writes = (rs.filter fun r => r.1 = true).map (·.2)
      ∧ p.reads.length ≤ 4 ∧ p.writes.length ≤ 4)
  ∧ ∀ (ov : Overlay) (e : Eng) (j : Nat) (p : Phase), (e, j) ∈ [(Eng.A, 0), (Eng.M, 1), (Eng.X, 2), (Eng.G, 3)] →
    phaseOfDescs ((ov.hedge.drop (8 * j)).take 8) = some p → vget ov.phases {} e.ix = p

/-- PHASE of another engine, of more than eight descriptors, or of a register past S28 is ILLOP, and places nothing (R333). -/
def Sys2Proof.Claims.PhaseEncodings : Prop :=
  ∀ (t : Tok) (o : CX) (s : State), s.power = true → (o.d ∉ [2, 3, 5, 6] ∨ 8 < o.k.toNat ∨ (o.k ≠ 0 ∧ 28 < o.a.toNat + o.k.toNat - 1)) →
    exec (.phase t o .none) s = .next (Claims.raised s (.phase t o .none) { code := .illop })

/-- PhaseLatches and RangeDescriptors and DescriptorLists and PhaseEncodings together. -/
def Obligations.PhasesLatched : Prop := Claims.PhaseLatches ∧ Claims.RangeDescriptors ∧ Claims.DescriptorLists ∧ Claims.PhaseEncodings

/-- DONE with a temporal point left, on a croft in the overlay's mode, re-issues the furrow at its next point: fetch restarts at the entry point, and S1 to
S6 take its indices and S7 ARG, in FIXED mode at the issue's first vc, where results still in flight for them are discarded (R293); after the last point the croft is free and its launch has one furrow less to end (R31, R292). -/
def Sys2Proof.Claims.DoneReissuesOrEnds : Prop :=
  ∀ (t : Tok) (o : CX) (x : Ext) (s : State) (c : Croft) (u : Furrow), Ready (.done t o x) t s c → c.frame = none → c.furrow = some u →
    (∀ u', u.next = some u' → c.mode = c.overlay.mode → u'.point.length = 6 →
      ∃ s', exec (.done t o x) s = .next s' ∧ s'.cur.furrow = some u' ∧ s'.cur.split = { pc := c.overlay.entry } ∧ s'.cur.budget = none
        ∧ (∀ k, k < 6 → vget s'.cur.preloaded.s 0 (k + 1) = BitVec.ofNat 64 (u'.point.getD k 0)) ∧ vget s'.cur.preloaded.s 0 7 = BitVec.ofNat 64 u'.arg
        ∧ (∀ p ∈ s'.cur.preloaded.lands, ∀ d v, p.op = .setS d v → ¬(1 ≤ d ∧ d ≤ 7))
        ∧ (∀ k, k = 0 ∨ 7 < k → vget s'.cur.preloaded.s 0 k = vget c.s 0 k) ∧ (c.mode = .score → s'.cur.preloaded = s'.cur) ∧ (c.mode = .fixed → s'.cur.s = c.s)
        ∧ s'.cur.phases = c.overlay.phases ∧ s'.cur.b = c.b ∧ s'.cur.v = c.v ∧ s'.cur.sp = c.sp ∧ s'.cur.acm = c.acm ∧ s'.hbm = s.hbm)
    ∧ (u.next = none →
      ∃ s', exec (.done t o x) s = .next s' ∧ s'.cur.furrow = none ∧ s'.cur.split.stopped = true ∧ s'.cur.budget = none
        ∧ s'.launches.map (·.ended) = s.launches.map (fun l => if l.num = u.launch then l.ended + 1 else l.ended)
        ∧ s'.cur.s = c.s ∧ s'.cur.b = c.b ∧ s'.cur.v = c.v ∧ s'.cur.sp = c.sp ∧ s'.cur.acm = c.acm ∧ s'.hbm = s.hbm)

/-- DONE inside a handler (R230, R292): the set-aside entries and the landing list are gone, and an armed budget is disarmed; the commands and accesses that
stand stopped at their own fault are dropped, with their reservations, those behind them stay, and the engines' queues stand; then the furrow
re-issues in the overlay's mode, or the croft is free. That a nest whose landing is discarded is gone with it is the model's reading (log 36). -/
def Sys2Proof.Claims.DoneInHandler : Prop :=
  ∀ (t : Tok) (o : CX) (x : Ext) (s : State) (c : Croft) (u : Furrow) (f : Frame), Ready (.done t o x) t s c → c.furrow = some u → c.frame = some f →
    c.reissue = false → c.preload = false → (u.next ≠ none → c.mode = c.overlay.mode) →
    ∃ s', exec (.done t o x) s = .next s' ∧ s'.cur.frame = none ∧ s'.cur.budget = none ∧ (∀ e : Eng, s'.cur.queue e = c.queue e)
      ∧ s'.cur.copyq = c.copyq.filter (fun k => k.halt = .no) ∧ s'.cur.indexq = c.indexq.filter (fun k => k.halt = .no)
      ∧ s'.cur.genq = c.genq.filter (fun k => k.halt = .no) ∧ s'.cur.accs = c.accs.filter (fun a => a.halt = .no) ∧ s'.cur.arv = c.arv
      ∧ (∀ k, k < 6 → vget s'.cur.arvRes 0 k = vget c.arvRes 0 k - ((c.copyq.filter fun q => q.halt ≠ .no ∧ q.arv = k + 1).length
          + (c.indexq.filter fun q => q.halt ≠ .no ∧ q.arv = k + 1).length + (c.genq.filter fun q => q.halt ≠ .no ∧ q.arv = k + 1).length))
      ∧ (s'.cur.inFlight.map fun p => (p.due, p.seq)) = c.lands.map (fun p => (p.due, p.seq)) ∧ ((∃ p ∈ f.land, p.op = .nest) → s'.cur.nest = none)
      ∧ (∀ k, k = 0 ∨ 7 < k → vget s'.cur.preloaded.s 0 k = vget c.s 0 k) ∧ s'.cur.b = c.b ∧ s'.cur.v = c.v ∧ s'.cur.sp = c.sp ∧ s'.cur.acm = c.acm ∧ s'.hbm = s.hbm
      ∧ (u.next = none → s'.cur.furrow = none ∧ s'.cur.split.stopped = true ∧ s'.cur.lands = c.lands
          ∧ s'.launches.map (·.ended) = s.launches.map (fun l => if l.num = u.launch then l.ended + 1 else l.ended))
      ∧ ∀ u', u.next = some u' → u'.point.length = 6 → s'.cur.furrow = some u' ∧ s'.cur.split = { pc := c.overlay.entry }
          ∧ (∀ k, k < 6 → vget s'.cur.preloaded.s 0 (k + 1) = BitVec.ofNat 64 (u'.point.getD k 0)) ∧ vget s'.cur.preloaded.s 0 7 = BitVec.ofNat 64 u'.arg

/-- DONE with a temporal point left, on a croft that stands in the other mode than the overlay's (R31, R42): once every queue is empty and every result has landed
the re-issue starts in the overlay's mode; until then fetch stands still, and the croft keeps its mode. A re-issue that starts sets the overlay's mode, its entry
point and its templates' phases, and disarms a replay sequence where the mode is FIXED. That such a re-issue into FIXED disarms it, and ends a sequence that governs the live tile, as a MODE instruction does (R322, R324), is the model's reading (log 20). -/
def Sys2Proof.Claims.DoneChangesMode : Prop :=
  (∀ (t : Tok) (o : CX) (x : Ext) (s : State) (c : Croft) (u u' : Furrow), Ready (.done t o x) t s c → c.furrow = some u → c.frame = none →
    u.next = some u' → u'.point.length = 6 → c.mode ≠ c.overlay.mode →
    ∃ s', exec (.done t o x) s = .next s' ∧ s'.cur.furrow = some u' ∧ s'.cur.budget = none ∧ s'.cur.b = c.b ∧ s'.cur.v = c.v ∧ s'.cur.sp = c.sp
      ∧ s'.cur.acm = c.acm ∧ s'.hbm = s.hbm
      ∧ ((∀ e : Eng, c.queue e = []) ∧ c.lands = [] ∧ c.stq = none →
          s'.cur.mode = c.overlay.mode ∧ s'.cur.split = { pc := c.overlay.entry } ∧ s'.cur.phases = c.overlay.phases ∧ s'.cur.reissue = false
          ∧ (∀ k, k < 6 → vget s'.cur.preloaded.s 0 (k + 1) = BitVec.ofNat 64 (u'.point.getD k 0)) ∧ vget s'.cur.preloaded.s 0 7 = BitVec.ofNat 64 u'.arg
          ∧ (∀ k, k = 0 ∨ 7 < k → vget s'.cur.preloaded.s 0 k = vget c.s 0 k))
      ∧ (¬((∀ e : Eng, c.queue e = []) ∧ c.lands = [] ∧ c.stq = none) →
          s'.cur.mode = c.mode ∧ s'.cur.split.stopped = true ∧ s'.cur.reissue = true ∧ s'.cur.s = c.s ∧ s'.cur.phases = c.phases))
  ∧ ∀ (d : Croft) (u : Furrow), d.furrow = some u →
      d.startIssue.mode = d.overlay.mode ∧ d.startIssue.split = { pc := d.overlay.entry } ∧ d.startIssue.phases = d.overlay.phases
      ∧ d.startIssue.reissue = false ∧ d.startIssue.furrow = some u
      ∧ (d.mode ≠ d.overlay.mode → d.overlay.mode = .fixed → d.startIssue.armed = none ∧ d.startIssue.governs = none)

/-- The next temporal point counts the temporal levels as one mixed-radix number with the outermost level most significant: with all counts at
least 1 and the indices in range, its value is one more, the spatial indices stay, and there is none exactly after the last (R31). -/
def Sys2Proof.Claims.TemporalPoints : Prop :=
  ∀ u : Furrow, u.levels.length = u.point.length →
    (∀ p ∈ u.levels.zip u.point, p.2 < p.1.count ∨ p.1.kind ≠ 1) →
    let value (ps : List Nat) : Nat := (u.levels.zip ps).foldl (fun n p => if p.1.kind = 1 then n * p.1.count + p.2 else n) 0
    let size : Nat := u.levels.foldl (fun n l => if l.kind = 1 then n * l.count else n) 1
    (u.next = none ↔ value u.point + 1 = size)
    ∧ ∀ u', u.next = some u' → value u'.point = value u.point + 1 ∧ u'.levels = u.levels ∧ u'.arg = u.arg ∧ u'.launch = u.launch
        ∧ (u'.levels.zip u'.point).filter (fun p => p.1.kind ≠ 1) = (u.levels.zip u.point).filter (fun p => p.1.kind ≠ 1)

/-- DoneReissuesOrEnds and DoneInHandler and DoneChangesMode and TemporalPoints together. -/
def Obligations.DoneReissuesOrFrees : Prop := Claims.DoneReissuesOrEnds ∧ Claims.DoneInHandler ∧ Claims.DoneChangesMode ∧ Claims.TemporalPoints

/-! ### Taking a fault and returning -/

/-- The fault that a croft with a handler takes enters it (R223, R229, R231): the fault registers and the shadow are written, the rest of the
croft and of the module stays, and nothing is sent. -/
def Obligations.HandlerEntry : Prop :=
  ∀ (s : State) (n : Nat) (f : Raised), Claims.Handles (s.croft n) →
    Claims.Entered (s.croft n) ((s.takeFault n f).croft n) f.flt f.eng f.pc f.land f.async
      (match f.retry with | some q => vset (s.croft n).queues f.eng.ix (q :: vget (s.croft n).queues [] f.eng.ix) | none => (s.croft n).queues)
    ∧ (∀ m, m ≠ n → (s.takeFault n f).croft m = s.croft m) ∧ (s.takeFault n f).hbm = s.hbm ∧ (s.takeFault n f).sent = s.sent

/-- TRAP takes its exception: its own entry is not set aside, and the handler resumes 1 vc later (R229, R342). -/
def Sys2Proof.Claims.TrapEnters : Prop :=
  ∀ (t : Tok) (o : CX) (x : Ext) (s : State) (c : Croft), Ready (.trap t o x) t s c → Claims.Handles s.cur →
    ∃ s', exec (.trap t o x) s = .next s' ∧ s'.me = s.me
      ∧ Claims.Entered s.cur s'.cur { code := .trap, aux := o.k.toNat } .C s.cur.issuePc false false s.cur.queues

/-- An unassigned opcode and a word whose encoding is at fault take ILLOP or ILLEXT with nothing of the word done: the handler finds it set aside at the
head of its queue (R57, R66, R72, R223). A word that breaks both rules is ILLEXT by the model's reading (log 6). -/
def Sys2Proof.Claims.BadEncodingsFault : Prop :=
  ∀ (i : Instr) (s : State), s.power = true → i.eng.isSome → Claims.Handles s.cur →
    (i.encErr ≠ none ∨ ∃ e, i = .unassignedOpcode e ∧ Ready i ⟨0, 0⟩ s s.cur) →
    ∃ s', exec i s = .next s' ∧ s'.me = s.me
      ∧ Claims.Entered s.cur s'.cur { code := if i.encErr = some .illext then .illext else .illop } i.engC s.cur.issuePc false false
          (vset s.cur.queues i.engC.ix (⟨s.cur.issueSeq, s.cur.issuePc, .ins i s.cur.kept⟩ :: vget s.cur.queues [] i.engC.ix))

/-- TrapEnters and BadEncodingsFault together. -/
def Obligations.ExceptionsTaken : Prop := Claims.TrapEnters ∧ Claims.BadEncodingsFault

/-- ERET, with nothing of the handler outstanding, returns (R232, R252, R294): S24 to S28 from the shadow, the clock at the resume vc, the landing
list, the set-aside entries and the splitter back, and after BUDGET fetch at RESUME with the set-aside entries discarded; commands that stopped at their own
fault go on. The entries that come back are numbered behind the handler's words, since they issue after them: the model's choice (log 93). Outside a handler it
is ILLOP; while something of the handler is outstanding it stays at the head of C's queue. -/
def Obligations.HandlerReturn : Prop :=
  ∀ (t : Tok) (o : CX) (x : Ext) (s : State) (c : Croft), Ready (.eret t o x) t s c →
    (∀ f : Frame, c.frame = some f → (∀ e, c.queue e = []) → c.lands = [] → c.stq = none →
      ∃ d, exec (.eret t o x) s = .next (s.setCur d) ∧ d.frame = none ∧ d.vclock = f.resume ∧ d.nextVc = f.resume + f.hold
        ∧ (∀ k, k < 5 → vget d.s 0 (24 + k) = vget c.shadow 0 k) ∧ (∀ k, k < 24 ∨ 28 < k → vget d.s 0 k = vget c.s 0 k)
        ∧ d.lands = f.land.map (fun p => { p with due := p.due + f.resume })
        ∧ (f.after = none → d.queues = f.queues.map (fun l => l.map fun q => { q with seq := q.seq + c.seq })
            ∧ d.split = { f.split with seq := f.split.seq + c.seq })
        ∧ d.copyq = c.copyq.map (fun k => { k with halt := if k.halt = .faulted then .no else k.halt })
        ∧ d.indexq = c.indexq.map (fun k => { k with halt := if k.halt = .faulted then .no else k.halt })
        ∧ d.genq = c.genq.map (fun k => { k with halt := if k.halt = .faulted then .no else k.halt })
        ∧ (∀ r, f.after = some r → (∀ e, d.queue e = []) ∧ d.split = { pc := r })
        ∧ d.b = c.b ∧ d.v = c.v ∧ d.qstat = c.qstat ∧ d.sp = c.sp ∧ d.acm = c.acm ∧ d.mode = c.mode ∧ d.handler = c.handler)
    ∧ (c.frame = none → exec (.eret t o x) s = .next (Claims.raised s (.eret t o x) { code := .illop }))
    ∧ (c.frame ≠ none → (c.lands ≠ [] ∨ c.stq ≠ none ∨ ∃ e, c.queue e ≠ []) →
        exec (.eret t o x) s = .next (s.setCur { s.cur with
          queues := vset s.cur.queues 0 (⟨s.cur.issueSeq, s.cur.issuePc, .ins (.eret t o x) s.cur.kept⟩ :: vget s.cur.queues [] 0), waited := false }))

/-- A program fault inside a handler is a nested fault: its record goes to the owner with NEST set, and code, die, owner and VC of it to Sillu, and the issue ends (R226, R227, R230).
Without a handler the record has NEST clear, and the issue ends too. What an ended issue clears is the model's reading (log 36). -/
def Sys2Proof.Claims.FaultsToSillu : Prop :=
  ∀ (s : State) (n : Nat) (f : Raised) (o : Nat), (s.croft n).owner = some o → (s.croft n).budget = none → (s.croft n).draining = none →
    let nest := (s.croft n).frame.isSome
    (nest = true ∨ (s.croft n).handler.getLsbD 16 = false ∧ f.flt.code ≠ .budget
      ∨ (s.croft n).overlay.len ≤ bitsOf (s.croft n).handler 15 0 ∧ f.flt.code ≠ .budget) →
    let r : Record := ⟨Claims.codeWord f.flt nest f.eng f.land f.async, BitVec.ofNat 64 f.flt.addr, n, o, f.pc, (s.croft n).vclock⟩
    Claims.IssueEnded (s.croft n) ((s.takeFault n f).croft n)
    ∧ Claims.SendsFirst s (s.takeFault n f) [.service f.flt.code.code (n / 64) o (s.croft n).vclock, .record o r]
    ∧ (s.takeFault n f).told = s.told ++ (if s.boot = .running then [r] else [])
    ∧ (∀ m, m ≠ n → (s.takeFault n f).croft m = s.croft m) ∧ (s.takeFault n f).hbm = s.hbm

/-- A program fault while a budget is armed is BUDGET (R251, R252): its slot becomes WITHHELD with the GBUDG's STEP and the budget is disarmed. With a
handler it is entered with AUX the slot. With EN = 0 nothing is recorded and the croft acts as if a handler had been entered, with what the entry writes,
that held ERET alone: the unissued entries go and fetch restarts at RESUME, in SCORE mode once every result issued before the fault has landed. -/
def Sys2Proof.Claims.BudgetFaults : Prop :=
  ∀ (s : State) (n : Nat) (f : Raised) (b : Budget), (s.croft n).budget = some b → b.slot < 16 → (s.croft n).frame = none → (s.croft n).draining = none →
    let d := (s.takeFault n f).croft n
    d.budget = none ∧ d.rows = vset (s.croft n).rows b.slot { vget (s.croft n).rows {} b.slot with st := .withheld, step := b.step }
    ∧ ((s.croft n).handler.getLsbD 16 = false →
        let c := s.croft n
        (∀ e, d.queue e = []) ∧ (s.takeFault n f).sent = s.sent ∧ d.s = c.s ∧ d.b = c.b ∧ d.v = c.v ∧ d.sp = c.sp ∧ d.acm = c.acm
        ∧ d.fcode = BitVec.ofNat 64 (b.slot * 2 ^ 32 + f.eng.code * 2 ^ 20 + f.land.toNat * 2 ^ 19 + f.async.toNat * 2 ^ 18 + 0x0A)
        ∧ d.faddr = 0 ∧ d.fpc = BitVec.ofNat 64 f.pc ∧ (∀ k, k < 5 → vget d.shadow 0 k = vget c.s 0 (24 + k))
        ∧ (c.mode = .fixed → (∀ p ∈ c.lands, c.vclock ≤ p.due) → d.frame = none ∧ d.split = { pc := b.resume } ∧ d.lands = c.lands
            ∧ d.vclock = c.vclock ∧ d.nextVc = c.vclock + f.hold
            ∧ d.landing = landingWord .fixed (c.lands.map fun p => { p with due := p.due - c.vclock }))
        ∧ (c.mode = .score → d.landing = 0
            ∧ (c.lands = [] → d.frame = none ∧ d.split = { pc := b.resume } ∧ d.nextVc = c.vclock + f.hold)
            ∧ (c.lands ≠ [] → d.lands = c.lands ∧ d.split.stopped = true ∧ d.autoDue = false
                ∧ ({ d with lands := [] } : Croft).autoDue = true ∧ ({ d with lands := [] } : Croft).autoEret.frame = none
                ∧ ({ d with lands := [] } : Croft).autoEret.split = { pc := b.resume })))
    ∧ ((s.croft n).handler.getLsbD 16 = true → bitsOf (s.croft n).handler 15 0 < (s.croft n).overlay.len →
        d.fcode = BitVec.ofNat 64 (b.slot * 2 ^ 32 + f.eng.code * 2 ^ 20 + f.land.toNat * 2 ^ 19 + f.async.toNat * 2 ^ 18 + 0x0A)
        ∧ (d.frame.bind fun fr => fr.after) = some b.resume ∧ d.split = { pc := bitsOf (s.croft n).handler 15 0 })

/-- FaultsToSillu and BudgetFaults together. -/
def Obligations.FaultsWithoutHandler : Prop := Claims.FaultsToSillu ∧ Claims.BudgetFaults

/-! ### The access engine -/

/-- A scratchpad access that the Hayward and the gates allow passes the engine's check, and one that they do not allow does not (R50, R138). -/
def Sys2Proof.Claims.HaywardChecks : Prop :=
  ∀ (c : Croft) (e : Eng) (a n : Nat) (w : Bool), 0 < n → (c.spCheck e [⟨a, n, w⟩] = .ok () ↔ Claims.SpOk c e a n w)

/-- The address form of R61: bits [57:56] give the space, the low 53, 21 or 18 bits the byte address, and every bit between reads 0. -/
def Sys2Proof.Claims.AddressForm : Prop :=
  ∀ (w : Word64) (space : Space) (a : Nat),
    splitAddr w = some (space, a) ↔
      (space = .owner ∧ a < 2 ^ 53 ∧ w.toNat = a) ∨ (space = .sp ∧ a < 2 ^ 21 ∧ w.toNat = 2 ^ 56 + a) ∨ (space = .acm ∧ a < 2 ^ 18 ∧ w.toNat = 2 * 2 ^ 56 + a)

/-- HaywardChecks and AddressForm together. -/
def Obligations.AccessRules : Prop := Claims.HaywardChecks ∧ Claims.AddressForm

/-- BLI, BADD, BMAD and BMOV land their result in Bd at 1, 1, 3 and 1 vc, computed from the registers as they stand at issue (R279); a write to B0 is
discarded (R40). -/
def Sys2Proof.Claims.BaseRegisters : Prop :=
  ∀ (t : Tok) (o : AB) (x : Ext) (s : State) (c c1 : Croft) (m : Word64), c.stq = none →
    (Ready (.bli t o x) t s c →
      exec (.bli t o x) s = .next (s.setCur (c.land .A (.bli t o x) t.sig.toNat 1
        (Claims.toB o.d (match x with | .none => 0 | .one p => p.setWidth 64 | .two p q => (p ++ q).setWidth 64)))))
    ∧ (Ready (.badd t o x) t s c → Claims.operandM c o x = some (m, c1) →
      exec (.badd t o x) s = .next (s.setCur (c1.land .A (.badd t o x) t.sig.toNat 1 (Claims.toB o.d (Claims.base c o.a + m)))))
    ∧ (Ready (.bmad t o x) t s c → Claims.operandM c o x = some (m, c1) →
      exec (.bmad t o x) s = .next (s.setCur (c1.land .A (.bmad t o x) t.sig.toNat 3
        (Claims.toB o.d (Claims.base c o.d + Claims.base c o.a * m)))))
    ∧ (Ready (.bmov t o x) t s c → o.qa = false →
      exec (.bmov t o x) s = .next (s.setCur (c.land .A (.bmov t o x) t.sig.toNat 1 (Claims.toB o.d (Claims.base c o.a)))))
    ∧ (Ready (.bmov t o x) t s c → o.qa = true → ∀ v r, c.qa = v :: r →
      exec (.bmov t o x) s = .next (s.setCur (({ c with qa := r } : Croft).land .A (.bmov t o x) t.sig.toNat 1 (Claims.toB o.d v))))

/-- ABINIT, ABEXP and ABARV land on their object at 1 vc with their count, which for ABARV means 1 where it is 0 (R168, R274). -/
def Sys2Proof.Claims.BarrierInstructions : Prop :=
  ∀ (t : Tok) (o : AB) (x : Ext) (s : State) (c c1 : Croft) (n : Nat), c.stq = none → Claims.count c o x = some (n, c1) →
    (Ready (.abinit t o x) t s c → exec (.abinit t o x) s = .next (s.setCur (c1.land .A (.abinit t o x) t.sig.toNat 1 (.abInit o.d.toNat n))))
    ∧ (Ready (.abexp t o x) t s c → exec (.abexp t o x) s = .next (s.setCur (c1.land .A (.abexp t o x) t.sig.toNat 1 (.abExp o.d.toNat n))))
    ∧ (Ready (.abarv t o x) t s c → exec (.abarv t o x) s = .next (s.setCur (c1.land .A (.abarv t o x) t.sig.toNat 1
        (.abArv o.d.toNat (if n = 0 then 1 else n)))))

/-- BaseRegisters and BarrierInstructions together. -/
def Obligations.BaseAndBarrierRegisters : Prop := Claims.BaseRegisters ∧ Claims.BarrierInstructions

/-- An LDQ from scratchpad or ACM that is not packed issues, reads its bytes, and its entry of QC, QV or QG, reserved at issue, fills at 6 vc with the value
of the bytes (R61, R161, R220, R313, R314), where nothing ordered before it is outstanding (Claims.OrderOk; that in FIXED mode nothing of A's scratchpad writes
is, is the model's reading, log 94). -/
def Sys2Proof.Claims.LocalLoads : Prop :=
  ∀ (t : Tok) (o : AM) (x : Ext) (s : State) (c : Croft) (a : Nat), Ready (.ldq t o x) t s c → c.stq = none → Claims.loadRoom c o →
    ldqPacked o x = false → a % (if o.q = 5 then 64 else 8) = 0 →
    let n := Claims.loadBytes o x
    (splitAddr (Claims.ea c o x) = some (.sp, a) → Claims.SpOk c .A a n false → Claims.OrderOk c o.cls.toNat a n →
      exec (.ldq t o x) s = .next (s.setCur ((Claims.reserved c o c.issueSeq).land .A (.ldq t o x) t.sig.toNat 6
        (Claims.loaded o x c.issueSeq (c.sp.readN a n)))))
    ∧ (splitAddr (Claims.ea c o x) = some (.acm, a) → a + n ≤ 2 ^ 18 → (∀ tile ∈ tilesOf a n, c.heldTile tile = false) →
      exec (.ldq t o x) s = .next (s.setCur ((Claims.reserved c o c.issueSeq).land .A (.ldq t o x) t.sig.toNat 6
        (Claims.loaded o x c.issueSeq (c.acm.readN a n)))))

/-- A packed LDQ reads its header, then the vector whose length the header gives, and delivers that vector (R84, R161, R313, R314, R371): from scratchpad or ACM its entry lands
at 6 vc; from owner memory it issues once its header and its vector have been read, behind what is ordered before it, and its entry is filled at once. A header out of form, or a
vector, is LENMIS, and an extent past its space or in a bank that is down is BOUNDS, each with nothing done. That a tag
beyond 12 or a LEN beyond 4,096 breaks the header (log 27), the address of that BOUNDS (log 33) and the order that it waits for (log 94) are the model's readings. -/
def Sys2Proof.Claims.PackedLoads : Prop :=
  ∀ (t : Tok) (o : AM) (x : Ext) (s : State) (c : Croft) (a : Nat), Ready (.ldq t o x) t s c → c.stq = none → Claims.loadRoom c o →
    ldqPacked o x = true → a % 8 = 0 →
    let i : Instr := .ldq t o x
    let qv := o.q.toNat - 1
    let mem (z : Space) : Memory := if z = .acm then c.acm else c.sp
    let head (z : Space) : Word64 := (mem z).header a
    let size (z : Space) : Nat := 8 + 8 * hdrPairs (head z)
    let ps (z : Space) : List Word64 := (mem z).pairs a (hdrPairs (head z))
    let p := vget c.phases {} Eng.A.ix
    let open_ := ∀ y, a ≤ y → y < a + 1032 → y < 2 ^ 21 → ∃ r ∈ p.reads ++ p.writes, r.base ≤ y ∧ y < r.base + r.len
    let lands (z : Space) : Prop := exec i s = .next (s.setCur ((Claims.reserved c o c.issueSeq).land .A i t.sig.toNat 6
      (.fillV qv c.issueSeq (packedVector (head z) (ps z)))))
    (splitAddr (Claims.ea c o x) = some (.sp, a) → open_ →
      (headerOk (head .sp) = true → packedOk (head .sp) (ps .sp) = true → Claims.SpOk c .A a (size .sp) false →
        Claims.OrderOk c o.cls.toNat a (size .sp) → lands .sp)
      ∧ (Claims.SpOk c .A a 8 false → Claims.OrderOk c o.cls.toNat a 8 → headerOk (head .sp) = false → exec i s = .next (Claims.raised s i { code := .lenmis }))
      ∧ (Claims.SpOk c .A a 8 false → Claims.OrderOk c o.cls.toNat a 8 → headerOk (head .sp) = true → 2 ^ 21 < a + size .sp →
        exec i s = .next (Claims.raised s i { code := .bounds, addr := (Claims.ea c o x).toNat }))
      ∧ (headerOk (head .sp) = true → packedOk (head .sp) (ps .sp) = false → Claims.SpOk c .A a (size .sp) false → Claims.OrderOk c o.cls.toNat a (size .sp) →
        exec i s = .next (Claims.raised s i { code := .lenmis })))
    ∧ (splitAddr (Claims.ea c o x) = some (.acm, a) → headerOk (head .acm) = true → packedOk (head .acm) (ps .acm) = true → a + size .acm ≤ 2 ^ 18 →
      (∀ tile ∈ tilesOf a (min 1032 (2 ^ 18 - a)), c.heldTile tile = false) → lands .acm)
    ∧ (∀ s1 s2 s3 m hb bytes, splitAddr (Claims.ea c o x) = some (.owner, a) → (s.setCur c).translate a 8 false = .ok s1 →
      s1.cur.orderReady c.issueSeq o.cls.toNat a 1032 = true → s1.ownerRead s.me a 8 = .ok (hb, m) →
      let h : Word64 := BitVec.ofNat 64 (leNat hb)
      let k := hdrPairs h
      headerOk h = true → a + (8 + 8 * k) ≤ 2 ^ 53 → s1.translate a (8 + 8 * k) false = .ok s2 → s2.ownerRead s.me a (8 + 8 * k) = .ok (bytes, s3) →
      let h' : Word64 := BitVec.ofNat 64 (leNat (bytes.take 8))
      let ps' : List Word64 := (List.range k).map fun j => BitVec.ofNat 64 (leNat ((bytes.drop (8 + 8 * j)).take 8))
      packedOk h' ps' = true → bytes.length = 8 + 8 * k →
      exec i s = .next (s3.setCur (((Claims.reserved s3.cur o c.issueSeq).landOp (.fillV qv c.issueSeq (packedVector h' ps'))).pushSig .A t.sig.toNat)))

/-- LocalLoads and PackedLoads together. -/
def Obligations.LocalAndPackedLoads : Prop := Claims.LocalLoads ∧ Claims.PackedLoads

/-- An LDQ from owner memory whose pages translate is a pending access of its bytes, its entry reserved (R189, R206, R220, R314); with every page of its
extent in the croft's translation cache and no PGPROBE pending it issues so, and the cache keeps its entries. -/
def Sys2Proof.Claims.OwnerLoads : Prop :=
  ∀ (t : Tok) (o : AM) (x : Ext) (s : State) (c : Croft) (a : Nat), Ready (.ldq t o x) t s c → c.stq = none → Claims.loadRoom c o →
    ldqPacked o x = false → a % (if o.q = 5 then 64 else 8) = 0 → splitAddr (Claims.ea c o x) = some (.owner, a) → a + Claims.loadBytes o x ≤ 2 ^ 53 →
    let acc : Access := { id := c.issueSeq, seq := c.issueSeq, pc := c.issuePc, launch := c.lastLaunch, kind := .ldq o.q.toNat c.issueSeq x.x1
                          ord := ⟨o.cls.toNat, o.sem.toNat, o.scope.toNat⟩, va := a, len := Claims.loadBytes o x, bytes := [], sig := t.sig.toNat
                          ins := .ldq t o x }
    (∀ s1, (s.setCur c).translate a (Claims.loadBytes o x) false = .ok s1 →
      exec (.ldq t o x) s = .next (s1.setCur { Claims.reserved s1.cur o c.issueSeq with accs := s1.cur.accs ++ [acc] }))
    ∧ ((∀ b ∈ c.accs, b.isProbe = false) → c.tlb.length ≤ 64 → (∀ p ∈ pageStarts a (Claims.loadBytes o x), (tlbFind c.tlb p).isSome = true) →
      ∃ tlb, (∀ e, e ∈ tlb ↔ e ∈ c.tlb)
        ∧ exec (.ldq t o x) s = .next (s.setCur { Claims.reserved c o c.issueSeq with tlb := tlb, accs := c.accs ++ [acc] }))

/-- Translating an extent of owner memory (R187 to R190): with every page in the croft's translation cache, with W where it is written, it succeeds and
changes nothing but the order of that cache's entries; the first page that the cache lacks is a walk, the first written one whose cached translations have
no W a TRANSPERM for Sillu; while a PGPROBE is pending it waits. -/
def Sys2Proof.Claims.TranslationAtIssue : Prop :=
  ∀ (s : State) (va n : Nat) (write : Bool),
    let cached (p : Nat) : Prop := ∃ e, tlbFind s.cur.tlb p = some e ∧ (write = true → bitOf e.leaf 62 = true)
    ((∃ b ∈ s.cur.accs, b.isProbe = true) → s.translate va n write = .error .wait)
    ∧ ((∀ b ∈ s.cur.accs, b.isProbe = false) → s.cur.tlb.length ≤ 64 →
      (0 < n → (∀ p ∈ pageStarts va n, cached p) →
        ∃ tlb, (∀ e, e ∈ tlb ↔ e ∈ s.cur.tlb) ∧ s.translate va n write = .ok (s.setCur { s.cur with tlb := tlb }))
      ∧ (∀ p q r, pageStarts va n = p ++ q :: r → (∀ y ∈ p, cached y) → tlbFind s.cur.tlb q = none →
        s.translate va n write = .error (.walk ⟨q, write, false, s.cur.issueSeq⟩))
      ∧ (∀ p q r, pageStarts va n = p ++ q :: r → (∀ y ∈ p, cached y) → write = true → (tlbFind s.cur.tlb q).isSome = true →
          (∀ e ∈ s.cur.tlb, e.covers q = true → bitOf e.leaf 62 = false) →
        ∃ f, s.translate va n write = .error (.sys f) ∧ f.code = .transperm ∧ f.addr = q ∧ f.write = true ∧ f.eng = .A ∧ f.seq = s.cur.issueSeq))

/-- OwnerLoads and TranslationAtIssue together. -/
def Obligations.OwnerMemoryLoads : Prop := Claims.OwnerLoads ∧ Claims.TranslationAtIssue

/-- An STQ at work pops its next entry at the vc of that pop (R164, R339): in FIXED mode its own vc t once the clock has reached it, or the vc t at which
the clock stands where A's next instruction holds it there; in SCORE mode the cycle t that the croft has reached. With its last entry a store to scratchpad or
ACM lands 4 vc after that pop, one to owner memory becomes a pending access of all its bytes, the first entry lowest. -/
def Obligations.StoreEntryPops : Prop :=
  ∀ (s : State) (n : Nat) (r : StqRun) (v : Word64) (q : List Word64) (t : Nat), s.power = true →
    (s.croft n).stq = some r → (s.croft n).qs = v :: q →
    ((s.croft n).mode = .fixed ∧ t = r.at_ ∧ r.at_ ≤ (s.croft n).atVc
      ∨ (s.croft n).mode = .fixed ∧ t = (s.croft n).nextVc ∧ (s.croft n).atVc < r.at_ ∧ (s.croft n).atVc = (s.croft n).nextVc
          ∧ (∃ p ∈ (s.croft n).packet, p.1 = .A)
      ∨ (s.croft n).mode = .score ∧ t = (s.croft n).nextVc ∧ r.at_ ≤ t) →
    let bytes := (r.got ++ [v]).flatMap fun w => leBytes 8 w.toNat
    (r.got.length + 1 < r.need →
      exec (.stqEntryPop n) s = .next (s.setCroft n { s.croft n with qs := q, stq := some { r with got := r.got ++ [v], at_ := t + 1 } }))
    ∧ (r.need ≤ r.got.length + 1 → r.space ≠ .owner →
      exec (.stqEntryPop n) s = .next (s.setCroft n { s.croft n with
        qs := q, stq := none
        lands := insertPending ⟨t + 4, r.seq, r.pc, .A, r.sig, .store r.space r.addr bytes, r.ins⟩ (s.croft n).lands }))
    ∧ (r.need ≤ r.got.length + 1 → r.space = .owner →
      exec (.stqEntryPop n) s = .next (s.setCroft n { s.croft n with
        qs := q, stq := none
        accs := (s.croft n).accs ++ [{ id := r.seq, seq := r.seq, pc := r.pc, launch := (s.croft n).lastLaunch, kind := .stq, ord := r.ord
                                       va := r.addr, len := bytes.length, bytes := bytes, sig := r.sig, ins := r.ins }] }))

/-- A dense STQ to scratchpad pops its first entry at issue (R338, R339): with one entry the store lands at 4 vc, with more it stays at work and pops
on, one entry each vc; it issues where nothing ordered before it is outstanding (Claims.OrderOk, log 94). -/
def Sys2Proof.Claims.LocalStores : Prop :=
  ∀ (t : Tok) (o : AM) (x : Ext) (s : State) (c : Croft) (a k : Nat) (v : Word64) (q : List Word64), Ready (.stq t o x) t s c → c.stq = none →
    c.kept = [] → c.qs = v :: q → x.x1.toNat / 2 ^ 28 = 0 → k = (if x.x1.toNat % 2 ^ 13 = 0 then 1 else x.x1.toNat % 2 ^ 13) → a % 8 = 0 →
    splitAddr (Claims.ea c o x) = some (.sp, a) → Claims.SpOk c .A a (8 * k) true →
    Claims.OrderOk c o.cls.toNat a (8 * k) →
    (k = 1 → exec (.stq t o x) s = .next (s.setCur (({ c with qs := q } : Croft).land .A (.stq t o x) t.sig.toNat 4 (.store .sp a (leBytes 8 v.toNat)))))
    ∧ (1 < k → exec (.stq t o x) s = .next (s.setCur { c with
        qs := q
        stq := some { seq := c.issueSeq, pc := c.issuePc, sig := t.sig.toNat, ord := ⟨o.cls.toNat, o.sem.toNat, o.scope.toNat⟩, ins := .stq t o x
                      addr := a, space := .sp, need := k, packed := false, at_ := c.vclock + 1, got := [v] } }))

/-- An STQ issues with its first entry popped (R84, R164, R338, R339): a dense one has NENT entries, a packed one as many as its header, that first entry, gives; with one entry
it is done, a store that lands at 4 vc in scratchpad or ACM or a pending access of owner memory, whose pages all translate first; with more it stays at work. A packed store's header out of
form is LENMIS, and an extent past its space BOUNDS, at that pop, with LAND set, the header consumed and nothing written. It issues where nothing ordered before it
is outstanding (Claims.OrderOk, log 94). That a tag beyond 12 or a LEN beyond 4,096 breaks the header (log 27) and the address of that BOUNDS (log 33) are the model's readings. -/
def Sys2Proof.Claims.StoresIssue : Prop :=
  ∀ (t : Tok) (o : AM) (x : Ext) (s : State) (c : Croft) (a k : Nat) (p : Bool) (v : Word64) (q : List Word64), Ready (.stq t o x) t s c → c.stq = none →
    c.kept = [] → c.qs = v :: q → a % 8 = 0 → p = decide (x.x1.toNat / 2 ^ 28 = 1) →
    let i : Instr := .stq t o x
    let ord : Order := ⟨o.cls.toNat, o.sem.toNat, o.scope.toNat⟩
    let reach (size : Nat) : Nat := if p then min 1032 (size - a) else 8 * k
    let w := vget c.phases {} Eng.A.ix
    let work (z : Space) : StqRun := { seq := c.issueSeq, pc := c.issuePc, sig := t.sig.toNat, ord := ord, ins := i, addr := a, space := z, need := k, packed := p,
                                        at_ := c.vclock + 1, got := [v] }
    let landing (z : Space) : Prop := exec i s = .next (s.setCur (if k = 1 then
      ({ c with qs := q } : Croft).land .A i t.sig.toNat 4 (.store z a (leBytes 8 v.toNat)) else { c with qs := q, stq := some (work z) }))
    (k = (if p then 1 + hdrPairs v else if x.x1.toNat % 2 ^ 13 = 0 then 1 else x.x1.toNat % 2 ^ 13) → (p = true → headerOk v = true) →
      (splitAddr (Claims.ea c o x) = some (.sp, a) → Claims.SpOk c .A a (8 * k) true →
        (∀ y, a ≤ y → y < a + reach (2 ^ 21) → ∃ r ∈ w.writes, r.base ≤ y ∧ y < r.base + r.len) → Claims.OrderOk c o.cls.toNat a (reach (2 ^ 21)) → landing .sp)
      ∧ (splitAddr (Claims.ea c o x) = some (.acm, a) → a + 8 * k ≤ 2 ^ 18 → (∀ tile ∈ tilesOf a (reach (2 ^ 18)), c.heldTile tile = false) → landing .acm)
      ∧ (∀ s1, splitAddr (Claims.ea c o x) = some (.owner, a) → a + 8 * k ≤ 2 ^ 53 → (s.setCur c).translate a (8 * k) true = .ok s1 →
        exec i s = .next (s1.setCur (if k = 1 then { s1.cur with
            qs := q, accs := s1.cur.accs ++ [{ id := c.issueSeq, seq := c.issueSeq, pc := c.issuePc, launch := c.lastLaunch, kind := .stq, ord := ord, va := a, len := 8
                                               bytes := leBytes 8 v.toNat, sig := t.sig.toNat, ins := i }] }
          else { s1.cur with qs := q, stq := some (work .owner) }))))
    ∧ ∀ z size, p = true → splitAddr (Claims.ea c o x) = some (z, a) →
      (z = .sp ∧ size = 2 ^ 21 ∧ Claims.SpOk c .A a 8 true ∧ (∀ y, a ≤ y → y < a + reach size → ∃ r ∈ w.writes, r.base ≤ y ∧ y < r.base + r.len)
          ∧ Claims.OrderOk c o.cls.toNat a (reach size)
        ∨ z = .acm ∧ size = 2 ^ 18 ∧ a + 8 ≤ size ∧ (∀ tile ∈ tilesOf a (reach size), c.heldTile tile = false)
        ∨ z = .owner ∧ size = 2 ^ 53 ∧ a + 8 ≤ size) →
      headerOk v = false ∨ size < a + (8 + 8 * hdrPairs v) →
      exec i s = .next ((s.setCur { c with qs := q }).takeFault s.me
        { flt := if headerOk v = false then { code := .lenmis } else { code := .bounds, addr := (Claims.ea c o x).toNat }
          eng := .A, pc := c.issuePc, seq := c.issueSeq, land := true })

/-- An ATOM on scratchpad pops its operands, the compare value of a CAS first, and performs whole at its landing, 6 vc later; its reply's entry of QC
is reserved at issue where q = 0 (R221, R278); it issues where nothing ordered before it is outstanding (Claims.OrderOk, log 94). -/
def Sys2Proof.Claims.LocalAtomics : Prop :=
  ∀ (t : Tok) (o : AM) (x : Ext) (s : State) (c : Croft) (a size op : Nat) (v w : Word64) (q : List Word64), Ready (.atom t o x) t s c →
    c.stq = none → c.kept = [] → size = 2 ^ (x.x1.toNat / 16 % 4) → op = x.x1.toNat % 16 → a % size = 0 →
    splitAddr (Claims.ea c o x) = some (.sp, a) → Claims.SpOk c .A a size true → Claims.OrderOk c o.cls.toNat a size →
    (o.q = 0 → c.qc.length < 16) →
    let reply := if o.q = 0 then some c.issueSeq else none
    let qc := if o.q = 0 then c.qc ++ [⟨c.issueSeq, none⟩] else c.qc
    (op ≠ 9 → c.qa = v :: q → exec (.atom t o x) s =
      .next (s.setCur (({ c with qa := q, qc := qc } : Croft).land .A (.atom t o x) t.sig.toNat 6 (.atomSp a size op v v reply))))
    ∧ (op = 9 → c.qa = w :: v :: q → exec (.atom t o x) s =
      .next (s.setCur (({ c with qa := q, qc := qc } : Croft).land .A (.atom t o x) t.sig.toNat 6 (.atomSp a size op w v reply))))

/-- An ATOM on owner memory pops its operands, the compare value of a CAS first, and is a pending access of its unit once the unit's page translates with W; its reply's
entry of QC is reserved at issue where q = 0 (R206, R221, R278). That its page needs W, also where a CAS fails, is the model's reading (log 43). -/
def Sys2Proof.Claims.OwnerAtomics : Prop :=
  ∀ (t : Tok) (o : AM) (x : Ext) (s s1 : State) (c : Croft) (a size op : Nat) (v w : Word64) (q : List Word64), Ready (.atom t o x) t s c →
    c.stq = none → c.kept = [] → size = 2 ^ (x.x1.toNat / 16 % 4) → op = x.x1.toNat % 16 → a % size = 0 → a + size ≤ 2 ^ 53 →
    splitAddr (Claims.ea c o x) = some (.owner, a) → (o.q = 0 → c.qc.length < 16) → (s.setCur c).translate a size true = .ok s1 →
    (if op = 9 then c.qa = w :: v :: q else c.qa = v :: q ∧ w = v) →
    let reply := if o.q = 0 then some c.issueSeq else none
    exec (.atom t o x) s = .next (s1.setCur { s1.cur with
      qa := q, qc := if o.q = 0 then s1.cur.qc ++ [⟨c.issueSeq, none⟩] else s1.cur.qc
      accs := s1.cur.accs ++ [{ id := c.issueSeq, seq := c.issueSeq, pc := c.issuePc, launch := c.lastLaunch, kind := .atom size op w v reply
                                ord := ⟨o.cls.toNat, o.sem.toNat, o.scope.toNat⟩, va := a, len := size, bytes := [], sig := t.sig.toNat, ins := .atom t o x }] })

/-- What a scratchpad access of A waits for at its issue (R202, R207 to R209): it issues exactly where Claims.OrderOk holds (log 94). -/
def Sys2Proof.Claims.ScratchpadOrder : Prop :=
  ∀ (c : Croft) (cls a n : Nat) (w : Bool), c.spOrder cls [⟨a, n, w⟩] = .ok () ↔ Claims.OrderOk c cls a n

/-- LocalStores and StoresIssue and LocalAtomics and OwnerAtomics and ScratchpadOrder together. -/
def Obligations.StoresAndAtomics : Prop := Claims.LocalStores ∧ Claims.StoresIssue ∧ Claims.LocalAtomics ∧ Claims.OwnerAtomics ∧ Claims.ScratchpadOrder

/-- FENCE and FENCESC (R210, R211, R295, R296): a fence covers A's earlier accesses but PGPROBEs, its scratchpad writes in flight, an STQ that still takes its entries
and its commands, of the classes of its mask, FENCESC of every class. With none outstanding it holds nothing and pushes its signal at once; with some outstanding it stands with exactly those and
its token waits. It then holds what follows it of a class of its mask until all of them have performed, but for those that end only after ERET where a handler
goes on only past them (log 93), and finishes with its signal when they have. That its token is pushed when it has finished is the model's reading
(log 41). -/
def Obligations.Fences : Prop :=
  (∀ (i : Instr) (t : Tok) (o : AM) (x : Ext) (mask : Nat) (s : State) (c : Croft),
    (i = .fence t o x ∧ mask = x.x0.toNat % 2 ^ 16 ∨ i = .fencesc t o x ∧ mask = 2 ^ 16 - 1) →
    Ready i t s c → c.stq = none → (∀ f ∈ c.fences, c.fenceDone f = false) →
    let access (a : Access) : Prop := a ∈ c.accs ∧ a.isProbe = false ∧ mask.testBit a.ord.cls = true
    let taking (r : StqRun) : Prop := r ∈ c.stqs ∧ r.space ≠ .acm ∧ mask.testBit r.ord.cls = true
    let write (p : Pending) : Prop := p ∈ c.inFlight ∧ p.spWrite ≠ none ∧ mask.testBit (clsOf p.ins) = true
    let command (k : CopyCmd) : Prop := k ∈ c.copyq ∧ mask.testBit k.ord.cls = true
    ((∀ a, ¬access a) → (∀ r, ¬taking r) → (∀ p, ¬write p) → (∀ k, ¬command k) → exec i s = .next (s.setCur (c.pushSig .A t.sig.toNat)))
    ∧ ((∃ a, access a) ∨ (∃ r, taking r) ∨ (∃ p, write p) ∨ (∃ k, command k) →
      ∃ f : Fence, exec i s = .next (s.setCur { c with fences := c.fences ++ [f] })
        ∧ f.seq = c.issueSeq ∧ f.mask = mask ∧ f.scope = o.scope.toNat ∧ f.sig = t.sig.toNat
        ∧ (∀ n, n ∈ f.accs ↔ (∃ a, access a ∧ a.id = n) ∨ ∃ r, taking r ∧ r.seq = n)
        ∧ (∀ n, n ∈ f.lands ↔ (∃ p, write p ∧ p.seq = n) ∨ ∃ r, taking r ∧ r.seq = n)
        ∧ ∀ n, n ∈ f.cmds ↔ ∃ k, command k ∧ k.seq = n))
  ∧ (∀ (c : Croft) (seq cls : Nat),
      let handler : Prop := Claims.Presses c seq
      c.fenceOpen seq cls = true ↔ ∀ f ∈ c.fences, f.seq < seq → f.mask.testBit cls = true →
        (∀ a ∈ c.accs, a.id ∈ f.accs → a.halt = .faulted ∧ handler) ∧ (∀ k ∈ c.copyq, k.seq ∈ f.cmds → k.halt = .faulted ∧ handler)
        ∧ (∀ p ∈ c.lands, p.seq ∈ f.lands → p.spWrite = none) ∧ (∀ r, c.stq = some r → r.seq ∉ f.lands)
        ∧ (¬handler → (∀ p ∈ c.inFlight, p.seq ∈ f.lands → p.spWrite = none) ∧ ∀ r ∈ c.stqs, r.seq ∉ f.lands))
  ∧ ∀ (c : Croft) (f : Fence), c.fences = [f] →
      let gone : Prop := (∀ a ∈ c.accs, a.id ∉ f.accs) ∧ (∀ k ∈ c.copyq, k.seq ∉ f.cmds)
        ∧ (∀ p ∈ c.inFlight, p.seq ∈ f.lands → p.spWrite = none) ∧ ∀ r ∈ c.stqs, r.seq ∉ f.lands
      (gone → c.pruneFences = ({ c with fences := [] } : Croft).pushSig .A f.sig) ∧ (¬gone → c.pruneFences = c)

/-- ZFLAG lands at 10 vc on its blocks (R136, R369), BANKGATE at 1 vc on its banks (R138, R280); a change of a bank's gate that is under way comes before
it, which is the model's reading (log 107). -/
def Sys2Proof.Claims.ZeroFlagsAndGates : Prop :=
  ∀ (t : Tok) (o : AM) (x : Ext) (s : State) (c : Croft), c.stq = none →
    (∀ a k, Ready (.zflag t o x) t s c → k = (if x.x1.toNat % 2 ^ 12 = 0 then 1 else x.x1.toNat % 2 ^ 12) → a % 1024 = 0 →
      splitAddr (Claims.ea c o x) = some (.sp, a) → Claims.SpOk c .A a (1024 * k) false →
      exec (.zflag t o x) s = .next (s.setCur (c.land .A (.zflag t o x) t.sig.toNat 10 (.zflags (a / 1024) k []))))
    ∧ (Ready (.bankgate t o x) t s c →
      let lo := x.x0.toNat % 32
      let hi := x.x0.toNat / 32 % 32
      (∀ y, 65536 * lo ≤ y → y < 65536 * (hi + 1) → ∃ r ∈ (vget c.phases {} 1).writes, r.base ≤ y ∧ y < r.base + r.len) →
      exec (.bankgate t o x) s = .next (s.setCur (c.land .A (.bankgate t o x) t.sig.toNat 1 (.gates lo hi (x.x0.getLsbD 10)))))

/-- PGINV removes translations at once (R190, R332): from the croft's cache, its owner's partition of the hamlet's cache and of the die's walk caches go exactly
the entries that cover bytes of the page of the size that holds the address, every entry with the size code 3, and the other entries of the FRAME of a leaf with
SH = 1 that goes; the rest of the croft and of memory stays. PGPROBE reserves its reply's entry of QC and starts a walk without fault (R190, R332). -/
def Sys2Proof.Claims.TranslationControl : Prop :=
  ∀ (t : Tok) (o : AM) (x : Ext) (s : State) (c : Croft) (a : Nat), c.stq = none → splitAddr (Claims.ea c o x) = some (.owner, a) →
    (∀ w, Ready (.pginv t o x) t s c → c.owner = some w → a ≤ 2 ^ 53 →
      let ham (u : State) : List TlbEntry := (u.hamlet.find (hamletKey s.me w)).getD []
      let hub (u : State) : List HubEntry := (u.hub.find (hubKey s.me w)).getD []
      let page (e : TlbEntry) : Prop := x.x1 = 3 ∨ Claims.Meets (e.vpage * 2 ^ (13 + 10 * e.size)) (13 + 10 * e.size) a (13 + 10 * x.x1.toNat)
      let level (h : HubEntry) : Prop := x.x1 = 3 ∨ Claims.Meets (h.pfx * 2 ^ (53 - 10 * h.level)) (53 - 10 * h.level) a (13 + 10 * x.x1.toNat)
      let shared (frame : Nat) : Prop := (∃ e ∈ c.tlb ++ ham s, page e ∧ pteSh e.leaf = true ∧ pteFrame e.leaf = frame)
        ∨ ∃ h ∈ hub s, level h ∧ pteLeaf h.entry = true ∧ pteSh h.entry = true ∧ pteFrame h.entry = frame
      ∃ s' tlb, exec (.pginv t o x) s = .next s' ∧ s'.cur = ({ c with tlb := tlb } : Croft).pushSig .A t.sig.toNat ∧ s'.hbm = s.hbm
        ∧ (∀ e, e ∈ tlb ↔ e ∈ c.tlb ∧ ¬page e ∧ ¬shared (pteFrame e.leaf))
        ∧ (∀ e, e ∈ ham s' ↔ e ∈ ham s ∧ ¬page e ∧ ¬shared (pteFrame e.leaf))
        ∧ ∀ h, h ∈ hub s' ↔ h ∈ hub s ∧ ¬level h ∧ ¬(pteLeaf h.entry = true ∧ shared (pteFrame h.entry)))
    ∧ (Ready (.pgprobe t o x) t s c → c.qc.length < 16 → c.walks.length < 8 → (∀ w ∈ c.walks, w.probe = false) →
      exec (.pgprobe t o x) s = .next (s.setCur { c with
        qc := c.qc ++ [⟨c.issueSeq, none⟩]
        accs := c.accs ++ [{ id := c.issueSeq, seq := c.issueSeq, pc := c.issuePc, launch := c.lastLaunch, kind := .probe c.issueSeq
                             ord := ⟨o.cls.toNat, o.sem.toNat, o.scope.toNat⟩, va := a, len := 0, bytes := [], sig := t.sig.toNat, ins := .pgprobe t o x }]
        walks := c.walks ++ [⟨a, false, true, c.issueSeq⟩] }))

/-- ZeroFlagsAndGates and TranslationControl together. -/
def Obligations.FlagsGatesTranslations : Prop := Claims.ZeroFlagsAndGates ∧ Claims.TranslationControl

/-- COPY is accepted into the copy command queue, its arrival reserved, the head of QA taken where its destination is owner memory (R39, R61, R239,
R240); the command names the source, the destination and the units of 64 bytes. -/
def Sys2Proof.Claims.CopyAccepted : Prop :=
  ∀ (t : Tok) (o : AM) (x : Ext) (s : State) (c : Croft) (sa da : Nat) (sp : Bool) (v : Word64) (q : List Word64), Ready (.copy t o x) t s c → c.stq = none →
    let n := 64 * (x.x1.toNat % 2 ^ 14 + 1)
    let ab := if x.x1.getLsbD 28 then some (x.x1.toNat / 2 ^ 24 % 16) else none
    let add := x.x0.getLsbD 26
    Claims.copyRoom c o.q → splitAddr (Claims.base c o.b) = some (if sp then .sp else .owner, sa) → sa % 64 = 0 → sa + n ≤ (if sp then 2 ^ 21 else 2 ^ 53) →
    (sp = true → Claims.SpOk c .A sa n false) → (∀ k, ab = some k → (vget c.abs {} k).ini ≠ 0) → da % 64 = 0 →
    (x.x0.toNat / 2 ^ 27 = 0 → c.qa = v :: q → splitAddr v = some (.owner, da) → da + n ≤ 2 ^ 53 →
      exec (.copy t o x) s = .next (s.setCur (({ Claims.accepted c o.q (Claims.copyCmd c o ab 0 (.copy sa sp da .owner add (n / 64))) with qa := q } : Croft).pushSig .A t.sig.toNat)))
    ∧ (x.x0.toNat / 2 ^ 27 = 1 → da = x.x0.toNat % 2 ^ 21 → Claims.SpOk c .A da n true →
      exec (.copy t o x) s = .next (s.setCur ((Claims.accepted c o.q (Claims.copyCmd c o ab 0 (.copy sa sp da .sp add (n / 64)))).pushSig .A t.sig.toNat)))
    ∧ (x.x0.toNat / 2 ^ 27 = 2 → da = x.x0.toNat % 2 ^ 21 → da + n ≤ 2 ^ 18 → (∀ tile ∈ tilesOf da n, c.tilePending tile = false) →
      exec (.copy t o x) s = .next (s.setCur ((Claims.accepted c o.q (Claims.copyCmd c o ab 0 (.copy sa sp da .acm add (n / 64)))).pushSig .A t.sig.toNat)))

/-- COPYD and COLL are accepted into the copy command queue, their arrival reserved (R183, R240, R286, R287, R290). -/
def Sys2Proof.Claims.DecodeAndCollectiveAccepted : Prop :=
  ∀ (t : Tok) (o : AM) (x : Ext) (s : State) (c : Croft) (sa da : Nat), c.stq = none → Claims.copyRoom c o.q →
    (Ready (.copyd t o x) t s c → x.x0.toNat / 2 ^ 27 = 1 → splitAddr (Claims.base c o.b) = some (.owner, sa) → sa % 8 = 0 → da = x.x0.toNat % 2 ^ 21 →
        Claims.SpOk c .A da (4096 * (x.x1.toNat % 2 ^ 12 + 1)) true →
      exec (.copyd t o x) s = .next (s.setCur ((Claims.accepted c o.q
        (Claims.copyCmd c o none sa (.copyd sa da .sp (x.x0.getLsbD 26) (x.x1.toNat % 2 ^ 12 + 1)))).pushSig .A t.sig.toNat)))
    ∧ (Ready (.copyd t o x) t s c → x.x0.toNat / 2 ^ 27 = 2 → splitAddr (Claims.base c o.b) = some (.owner, sa) → sa % 8 = 0 → da = x.x0.toNat % 2 ^ 21 →
        da % 4 = 0 → da + 4096 * (x.x1.toNat % 2 ^ 12 + 1) ≤ 2 ^ 18 →
        (∀ tile ∈ tilesOf da (4096 * (x.x1.toNat % 2 ^ 12 + 1)), c.tilePending tile = false) →
      exec (.copyd t o x) s = .next (s.setCur ((Claims.accepted c o.q
        (Claims.copyCmd c o none sa (.copyd sa da .acm (x.x0.getLsbD 26) (x.x1.toNat % 2 ^ 12 + 1)))).pushSig .A t.sig.toNat)))
    ∧ (Ready (.coll t o x) t s c → splitAddr (Claims.base c o.b) = some (.sp, sa) → sa % 64 = 0 →
        let n := 32 * (x.x1.toNat % 2 ^ 14 + 1)
        let parts := x.x0.toNat % 2 ^ 10 + 1
        let rid := x.x0.toNat / 2 ^ 20 % 16
        let region := 64 * (x.x1.toNat / 2 ^ 14)
        n % (32 * parts) = 0 → Claims.SpOk c .A sa (4 * n) true → (rid ≠ 0 → Claims.SpOk c .A region (4 * n) true ∧ (sa + 4 * n ≤ region ∨ region + 4 * n ≤ sa)) →
      exec (.coll t o x) s = .next (s.setCur ((Claims.accepted c o.q (Claims.copyCmd c o none 0
        (.coll sa (x.x0.toNat / 2 ^ 27) (x.x0.toNat / 2 ^ 24 % 8) rid (x.x0.toNat / 2 ^ 10 % 2 ^ 10) parts region n))).pushSig .A t.sig.toNat)))

/-- CopyAccepted and DecodeAndCollectiveAccepted together. -/
def Obligations.CopyPathAccepts : Prop := Claims.CopyAccepted ∧ Claims.DecodeAndCollectiveAccepted

/-- GLSEND is accepted with a snapshot of its map's generation, placements and windows and of its chain's vectors (R175, R240, R310), where nothing that its
reads of map and chain stand behind is outstanding (R213, Claims.OrderOk, log 94). -/
def Obligations.GleanerSendAccepted : Prop :=
  ∀ (t : Tok) (o : AM) (x : Ext) (s : State) (c : Croft) (mp : RowMap), Ready (.glsend t o x) t s c → c.stq = none → Claims.copyRoom c o.q →
    let ma := 64 * (x.x0.toNat / 2 ^ 14)
    let ch := chainWalk c.sp (fun _ => true) mp.ks (64 * (x.x1.toNat / 2 ^ 14))
    readMap c.sp ma = some mp → Claims.SpOk c .A ma mp.extent false → Claims.SpOk c .A mp.gbase 65536 true →
    ch.broken = false → (∀ r ∈ ch.tiles, Claims.SpOk c .A r.1 r.2 false ∧ 1 ≤ hdrTag (c.sp.header r.1) ∧ hdrTag (c.sp.header r.1) ≤ 5) →
    codeIsMxint mp.wfmt = conFamB c.contract → Claims.OrderOk c o.cls.toNat ma mp.extent → (∀ r ∈ ch.tiles, Claims.OrderOk c o.cls.toNat r.1 r.2) →
    exec (.glsend t o x) s = .next (s.setCur ((Claims.accepted c o.q (Claims.copyCmd c o none 0
      (.glsend mp.gen (signedOf 9 (x.x0.toNat / 2 ^ 5 % 2 ^ 9) + 256).toNat mp.wbase mp.wstr mp.ks mp.wfmt mp.gbase mp.plc
        (ch.tiles.map fun r => packedVector (c.sp.header r.1) (c.sp.pairs r.1 (hdrPairs (c.sp.header r.1))))))).pushSig .A t.sig.toNat))

/-! ### The matrix engine -/

/-- MRUN, MRUNB and MLOWR start a nest of their K-steps on a croft with none running, once their checks pass (R125, R129, R147, R150, R321, R325,
R327): the nest takes the operands as they stand at issue and stands before its first step. That check 4 of R129 takes M's read and write sets together is the
model's reading (log 17). -/
def Obligations.NestsStart : Prop :=
  ∀ (t : Tok) (o : MF) (x : Ext) (s : State) (c : Croft), c.nest = none → c.contract.toNat / 2 ^ 48 ≠ 0 →
    let ab := 64 * (x.x0.toNat / 2 ^ 14)
    let bb := 64 * (x.x1.toNat / 2 ^ 14)
    let tab := c.mtab.toList
    (∀ n, Ready (.mrunb t o x) t s c → tableOk tab = true → packOk false tab = true → (o.f.getLsbD 3 = true → c.live.kind = .int32) →
        Claims.StepsReadable c (nestRanges tab ab bb 1024 1024) →
        n = { kind := .runb (o.f.getLsbD 5) (o.f.getLsbD 4), live := c.live, fa := 0, fb := 0, abase := ab, bbase := bb, packed := false, chain := []
              table := tab, steps := tableSteps tab, len := Claims.rounds c.contract (tableSteps tab) } →
      exec (.mrunb t o x) s = .next (s.setCur (Claims.started { c with active := c.mtab } (.mrunb t o x) t.sig.toNat (o.f.getLsbD 3)
        (Live.start .int32 0) n)))
    ∧ (∀ n r, Ready (.mlowr t o x) t s c → r = 8 * 2 ^ o.n.toNat → (o.f.getLsbD 3 = true → c.live.kind ≠ .int32) →
        Claims.StepsReadable c [(some ((ab : Int), 128 * r), ((bb : Int), 128 * r))] →
        n = { kind := .lowr r, live := c.live, fa := 1, fb := 1, abase := ab, bbase := bb, packed := false, chain := [], table := []
              steps := 1, len := Claims.rounds c.contract 1 } →
      exec (.mlowr t o x) s = .next (s.setCur (Claims.started c (.mlowr t o x) t.sig.toNat (o.f.getLsbD 3) (Live.start .fp32 0) n)))
    ∧ (∀ n, Ready (.mrun t o x) t s c → c.mrunOk o x = true → x.x0.getLsbD 5 = false →
        Claims.StepsReadable c (nestRanges tab ab bb (64 * (opFmt (x.x0.toNat / 2 ^ 10 % 16)).rowBytes) (64 * (opFmt (x.x0.toNat / 2 ^ 6 % 16)).rowBytes)) →
        n = { kind := .run (o.f.getLsbD 5) (o.f.getLsbD 4), live := c.live, fa := x.x0.toNat / 2 ^ 10 % 16, fb := x.x0.toNat / 2 ^ 6 % 16
              abase := ab, bbase := bb, packed := false, chain := [], table := tab, steps := tableSteps tab
              len := Claims.rounds c.contract (tableSteps tab) } →
      exec (.mrun t o x) s = .next (s.setCur (Claims.started { c with active := c.mtab } (.mrun t o x) t.sig.toNat (o.f.getLsbD 3)
        (Live.start (if o.f.getLsbD 5 then .window else .fp32) (signedOf 9 (x.x1.toNat / 2 ^ 5 % 2 ^ 9))) n)))
    ∧ (∀ n ch, Ready (.mrun t o x) t s c → c.mrunOk o x = true → x.x0.getLsbD 5 = true →
        ch = chainWalk c.sp (fun g => g == x.x0.toNat / 2 ^ 10 % 16 + 1) (tableSteps tab) ab → ch.broken = false →
        Claims.StepsReadable c (packedRanges ch tab bb (64 * (opFmt (x.x0.toNat / 2 ^ 6 % 16)).rowBytes)) →
        n = { kind := .run (o.f.getLsbD 5) (o.f.getLsbD 4), live := c.live, fa := x.x0.toNat / 2 ^ 10 % 16, fb := x.x0.toNat / 2 ^ 6 % 16
              abase := ab, bbase := bb, packed := true, chain := ch.tiles.map (·.1), table := tab, steps := tableSteps tab, walk := ch.lines
              len := Claims.rounds c.contract (tableSteps tab) } →
      exec (.mrun t o x) s = .next (s.setCur (Claims.started { c with active := c.mtab } (.mrun t o x) t.sig.toNat (o.f.getLsbD 3)
        (Live.start (if o.f.getLsbD 5 then .window else .fp32) (signedOf 9 (x.x1.toNat / 2 ^ 5 % 2 ^ 9))) n)))

/-- MTAB, MZERO, MDRAIN, MJOIN, MREC and MREPLAY issue on a croft with no nest running and no copy holding their tile, and land at 1, 2, 66, 70, 2 and
1 vc (R74, R124, R133, R134, R150, R177, R319, R320, R323, R324). A drain gives each element the live value, or its sum with the tile's rounded once, of a
window its value rounded once; a join gives a cold row its partial, a hot row that and the live window of its slot, summed exactly and rounded once (R112). MREPLAY
arms a record that may govern, and is ILLOP for another. That MJOIN's map and partials may lie in M's read or write sets is the model's reading (log 17). -/
def Sys2Proof.Claims.TileInstructions : Prop :=
  ∀ (t : Tok) (o : MF) (x : Ext) (s : State) (c : Croft),
    let tile := o.t.toNat
    let record := vget c.records 0 tile
    (Ready (.mtab t o x) t s c → exec (.mtab t o x) s = .next (s.setCur (c.land .M (.mtab t o x) t.sig.toNat 1 (.shadow o.n.toNat (x.x0 ++ x.x1)))))
    ∧ (Ready (.mzero t o x) t s c → o.f = 0 → c.nest = none →
      exec (.mzero t o x) s = .next (s.setCur (Croft.land { c with governs := c.armed, armed := none } .M (.mzero t o x) t.sig.toNat 2
        (.zeroLive c.armed.isSome))))
    ∧ (Ready (.mzero t o x) t s c → o.f ≠ 0 → c.heldTile tile = false →
      exec (.mzero t o x) s = .next (s.setCur (c.land .M (.mzero t o x) t.sig.toNat 2 (.zeroTile tile))))
    ∧ (Ready (.mdrain t o x) t s c → c.nest = none → c.heldTile tile = false →
      exec (.mdrain t o x) s = .next (s.setCur (c.land .M (.mdrain t o x) t.sig.toNat 66
        (.tile tile (Claims.tileOf (Claims.drained c tile (o.f.getLsbD 0))).1
          (Claims.drainedRecord c.live ||| (if o.f.getLsbD 0 then record &&& 0x7F#64 else 0)) (Claims.tileOf (Claims.drained c tile (o.f.getLsbD 0))).2))))
    ∧ (∀ mp, Ready (.mjoin t o x) t s c → c.nest = none → c.heldTile tile = false →
        (∀ p ∈ c.inFlight, ∀ a b r, p.op ≠ .map a b r) → c.live.kind = .window →
        readMap c.sp (64 * (x.x0.toNat / 2 ^ 14)) = some mp → Claims.SpOk c .M (64 * (x.x0.toNat / 2 ^ 14)) mp.extent false →
        Claims.SpOk c .M mp.gbase 65536 false → partialGen (c.sp.le mp.gbase 16) = mp.gen →
      let elem (i : Nat) : Nat × Flags := Claims.splitElem c mp.nrows mp.gbase (Claims.mapPlc c (64 * (x.x0.toNat / 2 ^ 14))) (i / 64) (i % 64)
      exec (.mjoin t o x) s = .next (s.setCur (c.land .M (.mjoin t o x) t.sig.toNat 70
        (.tile tile (Claims.tileOf elem).1 (Claims.drainedRecord c.live) (Claims.tileOf elem).2))))
    ∧ (Ready (.mrec t o x) t s c → c.qr.length + c.pendR < 16 → (∀ p ∈ c.inFlight, ∀ a b r rs, p.op ≠ .map a b (r :: rs)) →
      exec (.mrec t o x) s = .next (s.setCur (c.land .M (.mrec t o x) t.sig.toNat 2 (.pushR [record]))))
    ∧ (Ready (.mreplay t o x) t s c → c.mode = .score → Claims.Governs c.contract record →
      exec (.mreplay t o x) s = .next (s.setCur (c.land .M (.mreplay t o x) t.sig.toNat 1 (.armReplay (record &&& 0xFFFFFFFFFFFFC000#64)))))
    ∧ (Ready (.mreplay t o x) t s c → (c.mode = .fixed ∨ ¬Claims.Governs c.contract record) →
      exec (.mreplay t o x) s = .next (Claims.raised s (.mreplay t o x) { code := .illop }))

/-- A drain, a join or a new live tile while a nest runs is SCHEDCLASH with AUX 0xFF in FIXED mode and waits in SCORE mode (R130, R147). -/
def Sys2Proof.Claims.LiveTileBusy : Prop :=
  ∀ (i : Instr) (t : Tok) (o : MF) (x : Ext) (s : State) (c : Croft), (i = .mdrain t o x ∨ i = .mjoin t o x ∨ (i = .mzero t o x ∧ o.f = 0)) →
    Ready i t s c → c.nest ≠ none →
    (c.mode = .fixed → exec i s = .next (Claims.raised s i { code := .schedclash, aux := 0xFF }))
    ∧ (c.mode = .score → exec i s = .next (s.holdBack .M i))

/-- TileInstructions and LiveTileBusy together. -/
def Obligations.TileInstructionsLand : Prop := Claims.TileInstructions ∧ Claims.LiveTileBusy

/-- MFIRE, MAGE and MPLACE on a row map land at 8 + ⌈rows / 16⌉, 4 + ⌈rows / 16⌉ and 16 + ⌈rows / 4⌉ vc with the map's new bytes (R74, R173, R174, R317):
MFIRE counts the rows whose element fires, MAGE shifts every counter, MPLACE, once QR is empty, demotes and promotes in rank order, at most 15 slots, with a
new GEN where a slot changed, and has its summary and a move for each changed slot for QR; it is ILLOP where DEMO is above PROM. That the new bytes are computed
at issue and written as a whole at landing is the model's reading (log 37), and so is that MFIRE's vector may lie in M's read or write sets (log 17). -/
def Obligations.MapInstructions : Prop :=
  ∀ (t : Tok) (o : MF) (x : Ext) (s : State) (c : Croft) (mp : RowMap),
    let a := 64 * (x.x0.toNat / 2 ^ 14)
    let n := mp.nrows
    let cnt := Claims.mapCnt c a
    let plc := Claims.mapPlc c a
    let gen := c.sp.le (a + 0x18) 2
    let prom := 4 * (x.x1.toNat / 2 ^ 15)
    let demo := 4 * (x.x1.toNat / 2 % 2 ^ 14)
    (∀ p ∈ c.inFlight, ∀ a b r, p.op ≠ .map a b r) → readMap c.sp a = some mp → Claims.SpOk c .M a mp.extent true →
    (∀ v h, h = 64 * (x.x1.toNat / 2 ^ 14) → Ready (.mfire t o x) t s c → fireVector c.sp h mp.nrows = some v → Claims.SpOk c .M h (fireLen c.sp h) false →
      exec (.mfire t o x) s = .next (s.setCur (c.land .M (.mfire t o x) t.sig.toNat (8 + (mp.nrows + 15) / 16)
        (.map a (Claims.mapImage c a n gen (fun k => if Claims.firing v k then min (cnt k + 1) 65535 else cnt k) plc) []))))
    ∧ (Ready (.mage t o x) t s c →
      exec (.mage t o x) s = .next (s.setCur (c.land .M (.mage t o x) t.sig.toNat (4 + (mp.nrows + 15) / 16)
        (.map a (Claims.mapImage c a n gen (fun k => cnt k / 2 ^ c.sp.le (a + 6) 1) plc) []))))
    ∧ (Ready (.mplace t o x) t s c → c.qr = [] → c.pendR = 0 → prom < demo →
      exec (.mplace t o x) s = .next (Claims.raised s (.mplace t o x) { code := .illop }))
    ∧ (Ready (.mplace t o x) t s c → c.qr = [] → c.pendR = 0 → demo ≤ prom →
      ∃ p1 ch1 cold p ch, Claims.Demotes cnt demo (List.range n) plc [] p1 ch1
        ∧ (∀ k, k ∈ cold ↔ k < n ∧ p1 k = 0xFF ∧ prom ≤ cnt k) ∧ cold.Pairwise (Claims.Above cnt)
        ∧ Claims.Promotes cnt n mp.h cold p1 ch1 p ch ∧ ch.length ≤ 15
        ∧ (let slots := (List.range mp.h).filter fun j => j ∈ ch
           let gen' := if slots = [] then gen else (gen + 1) % 2 ^ 16
           let hot := ((List.range n).filter fun k => p k ≠ 0xFF).length
           let summary := 2 * 2 ^ 56 + gen' * 2 ^ 40 + hot * 2 ^ 16 + slots.length
           let move (j : Nat) : Nat := 2 ^ 56 + Claims.rowAt p n j * 2 ^ 32 + Claims.rowAt plc n j * 2 ^ 16 + j
           exec (.mplace t o x) s = .next (s.setCur (c.land .M (.mplace t o x) t.sig.toNat (16 + (n + 3) / 4)
             (.map a (Claims.mapImage c a n gen' cnt p) ((summary :: slots.map move).map (BitVec.ofNat 64)))))))

/-! ### The vector engine -/

/-- Every vector instruction with a result in Vd issues at once and lands at its latency, 4 vc later in the .W form: with its value and flags, or with
the fault that it raises at landing (R74, R155, R158, R343 to R358). -/
def Obligations.VectorInstructions : Prop :=
  ∀ (i : Instr) (t : Tok) (o : VF) (x : Ext) (lat side : Nat) (f : Croft → Except VErr VRes) (s : State) (c : Croft),
    Claims.vector i = some (t, o, x, lat, side, f) → Ready i t s c →
    (∀ r, f c = .ok r → exec i s = .next (s.setCur (c.land .V i t.sig.toNat (if o.w then lat + 4 else lat) (.setV o.w o.d.toNat side r))))
    ∧ (f c = .error .lenmis → exec i s = .next (s.setCur (c.land .V i t.sig.toNat (if o.w then lat + 4 else lat) (.vfault .lenmis))))
    ∧ (f c = .error .runovf → exec i s = .next (s.setCur (c.land .V i t.sig.toNat (if o.w then lat + 4 else lat) (.vfault .runovf))))

/-- An operation on runs gives, element by element, what it gives on the operands' elements (R156, R158): the runs come out merged and within the
limit, or are RUNOVF; operands that differ in LEN or TAG, or whose tag the operation does not take, are LENMIS, and no others. -/
def Sys2Proof.Claims.RunsActElementwise : Prop :=
  ∀ (w : Bool) (v : VReg) (vs : List VReg) (okTag : Nat → Bool) (rtag : Nat → Nat) (op : Nat → List (BitVec 32) → Nat × Flags),
    (∀ u ∈ v :: vs, Claims.RunsOk u) →
    Claims.Answers (elementwise w (v :: vs) okTag rtag op) w ((∀ u ∈ vs, u.len = v.len ∧ u.tag = v.tag) ∧ okTag v.tag = true) (rtag v.tag) v.len
      fun k => op v.tag ((v :: vs).map fun u => (elems u.runs).getD k 0)

/-- What the moving vector instructions do to elements (R155 to R158, R345, R346, R358): VMOV and VCOAL merge the source, VLEN cuts or extends it with zeros, VCAT
joins two of one tag, VSLICE, VEXT and VINS take out and replace elements, VSPLAT and VIOTA make new ones, VCNT counts runs and elements; each answers where its
operands fit it and its result keeps the run limit, and only there. -/
def Sys2Proof.Claims.VectorMoves : Prop :=
  ∀ (o : VF) (x : Ext) (c : Croft) (u v : VReg), u = Claims.source c o.w o.a.toNat → v = Claims.source c o.w o.b.toNat → Claims.RunsOk u → Claims.RunsOk v →
    let ra := Claims.Readable c o.w o.a.toNat
    let rb := Claims.Readable c o.w o.b.toNat
    let n := x.imm32.toNat
    let start := n % 2 ^ 13
    let len := n / 2 ^ 16 % 2 ^ 13
    let tag := x.x0.toNat / 2 ^ 20 % 16
    let merged (f : Except VErr VRes) : Prop := (¬ra → f = .error .lenmis)
      ∧ (ra → ∃ r, f = .ok r ∧ r.vd.tag = u.tag ∧ elems r.vd.runs = elems u.runs ∧ Claims.Merged r.vd.runs ∧ r.flags = 0)
    merged (vmovValue o c) ∧ merged (vcoalValue o c)
    ∧ Claims.Gives (vlenValue o x c) o.w ra u.tag ((elems u.runs).take n ++ List.replicate (n - u.len) 0) 0
    ∧ Claims.Gives (vcatValue o c) o.w (ra ∧ rb ∧ u.tag = v.tag ∧ u.len + v.len ≤ 4096) u.tag (elems u.runs ++ elems v.runs) 0
    ∧ Claims.Cuts (vsliceValue o x c) o.w (ra ∧ start + len ≤ u.len) u.tag (Claims.runsIn u start (start + len)) (((elems u.runs).drop start).take len)
    ∧ Claims.Gives (vextValue o x c) o.w (ra ∧ n < u.len) u.tag [(elems u.runs).getD n 0] 0
    ∧ Claims.Cuts (vinsValue o x c) o.w (ra ∧ rb ∧ n + v.len ≤ u.len ∧ u.tag = v.tag) u.tag
        (Claims.runsIn u 0 n + v.runs.length + Claims.runsIn u (n + v.len) u.len)
        ((elems u.runs).take n ++ elems v.runs ++ (elems u.runs).drop (n + v.len))
    ∧ Claims.Gives (vsplatValue o x c) o.w ra tag (List.replicate u.len x.imm32) 0
    ∧ Claims.Gives (viotaValue o x c) o.w ra tag ((List.range u.len).map fun j => BitVec.ofNat 32 ((n + j) % 2 ^ tagWidth tag)) 0
    ∧ Claims.Gives (vcntValue o c) o.w ra 11 [BitVec.ofNat 32 u.runs.length, BitVec.ofNat 32 u.len] 0

/-- The values of VADD, VSUB, VMUL, VMIN, VMAX, VAND, VOR, VXOR, VNOT, VCMP and VSEL on vectors of I32 (R343, R344, R349, R351, R352): sums, differences and products
modulo 2^32 where sat = 0, signed comparisons, bits as they stand; VCMP's and VSEL's masks are MASK vectors. -/
def Sys2Proof.Claims.VectorValues : Prop :=
  ∀ (o : VF) (x : Ext) (c : Croft) (u v k : VReg) (r : VRes), o.w = false → u = vget c.v {} o.a.toNat → v = vget c.v {} o.b.toNat →
    k = vget c.v {} (x.x0.toNat / 2 ^ 24 % 32) → Claims.RunsOk u → Claims.RunsOk v → Claims.RunsOk k → u.tag = 8 → v.tag = 8 → u.len = v.len →
    let each (tag : Nat) (f : BitVec 32 → BitVec 32 → BitVec 32) : Prop := r.vd.tag = tag ∧ elems r.vd.runs = List.zipWith f (elems u.runs) (elems v.runs)
    (x.x0.getLsbD 13 = false → (vaddValue o x c = .ok r → each 8 (· + ·)) ∧ (vsubValue o x c = .ok r → each 8 (· - ·))
      ∧ (vmulValue o x c = .ok r → each 8 (· * ·)))
    ∧ (vminValue o c = .ok r → each 8 fun a b => if a.toInt ≤ b.toInt then a else b)
    ∧ (vmaxValue o c = .ok r → each 8 fun a b => if b.toInt ≤ a.toInt then a else b)
    ∧ (vandValue o c = .ok r → each 8 (· &&& ·)) ∧ (vorValue o c = .ok r → each 8 (· ||| ·)) ∧ (vxorValue o c = .ok r → each 8 (· ^^^ ·))
    ∧ (vnotValue o c = .ok r → r.vd.tag = 8 ∧ elems r.vd.runs = (elems u.runs).map fun a => ~~~a)
    ∧ (vcmpValue o x c = .ok r → each 12 fun a b =>
        if [decide (a = b), decide (a ≠ b), decide (a.toInt < b.toInt), decide (a.toInt ≤ b.toInt), decide (b.toInt < a.toInt), decide (b.toInt ≤ a.toInt),
            false, true].getD (x.x0.toNat / 2 ^ 14 % 8) false then 1 else 0)
    ∧ (vselValue o x c = .ok r → r.vd.tag = 8 ∧ k.tag = 12 ∧ k.len = u.len
        ∧ elems r.vd.runs = (List.range u.len).map fun i => if (elems k.runs).getD i 0 = 1 then (elems u.runs).getD i 0 else (elems v.runs).getD i 0)

/-- The values of the arithmetic, comparing and logical vector instructions on every tag (R155 to R158, R343, R344, R349, R351, R352): floats with one rounding, integers
modulo 2^n or, with sat, clamped with SATB, comparisons with NaN unordered, shifts by elements or by the immediate, bits as they stand; each flag set where an
element sets it. Each answers exactly where its operands can be read, agree in LEN and TAG and have a tag that it takes, and its result keeps the run limit. -/
def Sys2Proof.Claims.VectorArithmetic : Prop :=
  ∀ (o : VF) (x : Ext) (c : Croft) (u v z : VReg), u = Claims.source c o.w o.a.toNat → v = Claims.source c o.w o.b.toNat →
    z = Claims.source c o.w (x.x0.toNat / 2 ^ 24 % 32) → Claims.RunsOk u → Claims.RunsOk v → Claims.RunsOk z →
    let sat := x.x0.getLsbD 13
    let a := Claims.nth u
    let b := Claims.nth v
    let k := Claims.nth z
    let w := tagWidth u.tag
    let one : Prop := Claims.Readable c o.w o.a.toNat
    let two : Prop := one ∧ Claims.Readable c o.w o.b.toNat ∧ v.len = u.len ∧ v.tag = u.tag
    let three : Prop := two ∧ Claims.Readable c o.w (x.x0.toNat / 2 ^ 24 % 32) ∧ z.len = u.len ∧ z.tag = u.tag
    let each (f : Except VErr VRes) (good : Prop) (g : Nat → Nat × Flags) : Prop := Claims.Answers f o.w good u.tag u.len g
    -- floats with one rounding, integers exactly and then modulo 2^n or clamped
    let p (i : Nat) : Int := tagIntVal u.tag (a i)
    let q (i : Nat) : Int := tagIntVal u.tag (b i)
    let arith (fl : Fmt → Nat → FV) (it : Nat → Int) (i : Nat) : Nat × Flags :=
      match tagFmt u.tag with
      | some f => rnd f 0 sat (fl f i)
      | none => Claims.intOut u.tag sat (it i)
    let sign (fl : Fmt → Nat → Nat) (it : Nat → Int) (i : Nat) : Nat × Flags :=
      match tagFmt u.tag with
      | some f => (if f.value (a i) = .nan then f.nanCode else fl f i, 0)
      | none => Claims.intOut u.tag false (it i)
    let shl (n i : Nat) : Nat × Flags := (a i * 2 ^ n % 2 ^ w, 0)
    let shr (n i : Nat) : Nat × Flags := ((p i / 2 ^ n % (2 ^ w : Int)).toNat, 0)
    each (vaddValue o x c) (two ∧ u.tag ≤ 11) (arith (fun f i => (f.value (a i)).add (f.value (b i))) fun i => p i + q i)
    ∧ each (vsubValue o x c) (two ∧ u.tag ≤ 11) (arith (fun f i => (f.value (a i)).add (f.value (b i)).neg) fun i => p i - q i)
    ∧ each (vmulValue o x c) (two ∧ u.tag ≤ 11) (arith (fun f i => (f.value (a i)).mul (f.value (b i))) fun i => p i * q i)
    ∧ each (vfmaValue o x c) (three ∧ u.tag ≤ 11)
        (arith (fun f i => ((f.value (a i)).mul (f.value (b i))).add (f.value (k i))) fun i => p i * q i + tagIntVal u.tag (k i))
    ∧ each (vabsValue o c) (one ∧ u.tag ≤ 11) (sign (fun _ i => a i % 2 ^ (w - 1)) fun i => if tagSigned u.tag then ((p i).natAbs : Int) else p i)
    ∧ each (vnegValue o c) (one ∧ u.tag ≤ 11)
        (sign (fun _ i => if a i < 2 ^ (w - 1) then a i + 2 ^ (w - 1) else a i - 2 ^ (w - 1)) fun i => -p i)
    ∧ Claims.Answers (vcmpValue o x c) o.w (two ∧ u.tag ≤ 11) 12 u.len (fun i =>
        let y (j : Nat) : Nat × Nat := (a j, b j)
        let holds : List Bool := match tagFmt u.tag with
          | some f =>
            let un := f.value (y i).1 = .nan ∨ f.value (y i).2 = .nan
            let lt := FV.lt false (f.value (y i).1) (f.value (y i).2) = true
            let gt := FV.lt false (f.value (y i).2) (f.value (y i).1) = true
            let eq := ¬un ∧ ¬lt ∧ ¬gt
            [decide eq, !decide eq, decide lt, decide (lt ∨ eq), decide gt, decide (gt ∨ eq), decide un, !decide un]
          | none => [decide (p i = q i), decide (p i ≠ q i), decide (p i < q i), decide (p i ≤ q i), decide (q i < p i), decide (q i ≤ p i), false, true]
        (if holds.getD (x.x0.toNat / 2 ^ 14 % 8) false then 1 else 0, 0))
    ∧ (o.b = 0 ∧ x.count = 2 → each (vshlValue o x c) (one ∧ tagInt u.tag = true) (shl x.imm32.toNat)
        ∧ each (vshrValue o x c) (one ∧ tagInt u.tag = true) (shr x.imm32.toNat))
    ∧ (¬(o.b = 0 ∧ x.count = 2) → each (vshlValue o x c) (two ∧ tagInt u.tag = true) (fun i => shl (b i) i)
        ∧ each (vshrValue o x c) (two ∧ tagInt u.tag = true) (fun i => shr (b i) i))
    ∧ each (vminValue o c) (two ∧ u.tag ≤ 11) (fun i => (Claims.least false u.tag (a i) (b i), 0))
    ∧ each (vmaxValue o c) (two ∧ u.tag ≤ 11) (fun i => (Claims.least true u.tag (a i) (b i), 0))
    ∧ each (vandValue o c) two (fun i => ((a i &&& b i) % 2 ^ w, 0)) ∧ each (vorValue o c) two (fun i => ((a i ||| b i) % 2 ^ w, 0))
    ∧ each (vxorValue o c) two (fun i => ((a i ^^^ b i) % 2 ^ w, 0)) ∧ each (vnotValue o c) one (fun i => (2 ^ w - 1 - a i % 2 ^ w, 0))
    ∧ each (vselValue o x c) (two ∧ Claims.Readable c o.w (x.x0.toNat / 2 ^ 24 % 32) ∧ z.tag = 12 ∧ z.len = u.len) (fun i => (if k i = 1 then a i else b i, 0))

/-- RunsActElementwise and VectorMoves and VectorValues and VectorArithmetic together. -/
def Obligations.RunsAndMoves : Prop := Claims.RunsActElementwise ∧ Claims.VectorMoves ∧ Claims.VectorValues ∧ Claims.VectorArithmetic

/-- The values of VQNT and VDQNT (R100 to R102, R156, R158, R354 to R356): a block image becomes its elements' values in FP32; 32 elements become a block each, those above the
threshold being diverted to the side list, as many as it may hold, and zero in their block. Each answers exactly where its operands fit it and its result keeps the run
limit. The block that a quantiser builds has the smallest scale, at most 254, with which no element passes the format's range, and each element rounded under it. The
model's readings are that the roundings of the side list raise flags too (log 24), that a VDQNT of more than 4,096 elements is LENMIS (log 25), what exceeds
a block's range past the side list's capacity (log 95), and the code of an element that is or becomes −0 (log 96). -/
def Obligations.VectorBlocks : Prop :=
  (∀ (o : VF) (x : Ext) (c : Croft) (u v : VReg), u = Claims.source c o.w o.a.toNat → v = Claims.source c o.w o.b.toNat → Claims.RunsOk u → Claims.RunsOk v →
    let fm := mxFmt (x.x0.toNat / 2 ^ 20 % 16)
    let mode := x.x0.toNat / 2 ^ 17 % 8
    let ra := Claims.Readable c o.w o.a.toNat
    let rb := Claims.Readable c o.w o.b.toNat
    Claims.Answers (vdqntValue o x c) o.w (ra ∧ u.tag = 9 ∧ u.len % fm.rowBytes = 0 ∧ 32 * (u.len / fm.rowBytes) ≤ 4096) 0 (32 * (u.len / fm.rowBytes))
      (fun i => rne32 (Claims.blockElem fm ((elems u.runs).map BitVec.toNat) i))
    ∧ (let good := ra ∧ rb ∧ u.tag ≤ 2 ∧ u.len % 32 = 0 ∧ u.len / 32 * fm.rowBytes ≤ 4096
      let th := fp32.value x.imm32.toNat
      let val (i : Nat) : FV := tagValue u.tag (Claims.nth u i)
      let above (i : Nat) : Bool := !th.isZero && FV.lt false th (match val i with | .num _ m e => .num false m e | .inf _ => .inf false | .nan => .nan)
      let diverted := ((List.range u.len).filter above).take (min v.len 64)
      let block (j : Nat) := quantBlock fm mode ((List.range 32).map fun i =>
        if 32 * j + i ∈ diverted then (FV.num false 0 0, false) else (val (32 * j + i), above (32 * j + i)))
      let image := (List.range (u.len / 32)).flatMap fun j => blockBytes fm (block j).1 (block j).2.1
      let runs := Claims.runCount (image.map (BitVec.ofNat 32))
      (¬good → vqntValue o x c = .error .lenmis)
      ∧ (good → Claims.limit o.w < runs → vqntValue o x c = .error .runovf)
      ∧ (good → runs ≤ Claims.limit o.w → ∃ r, vqntValue o x c = .ok r ∧
        r.vd.tag = 9 ∧ (elems r.vd.runs).map BitVec.toNat = image ∧ Claims.Merged r.vd.runs
        ∧ (th.isZero = true → r.side = none)
        ∧ (th.isZero = false → ∃ sd, r.side = some sd ∧ sd.tag = 8
            ∧ elems sd.runs = diverted.map fun i => BitVec.ofNat 32 (i * 2 ^ 16 + (rnd bf16 0 false (val i)).1))
        ∧ r.flags = (List.range (u.len / 32)).foldl (fun f j => f ||| (block j).2.2) 0 ||| diverted.foldl (fun f i => f ||| (rnd bf16 0 false (val i)).2) 0)))
  ∧ ∀ (fm : OpFmt) (mode : RMode) (xs : List (FV × Bool)), fm ∈ [mxFmt 3, mxFmt 4, mxFmt 5, mxFmt 6, mxFmt 7, mxFmt 8] → xs.length = 32 →
    let q := quantBlock fm mode xs
    ((∃ y ∈ xs, y.1.isFin = false) → q = (0xFF, List.replicate 32 0, fINV))
    ∧ ((∀ y ∈ xs, y.1.isFin = true) →
      q.1 ≤ 254 ∧ (q.1 < 254 → ∀ y ∈ xs, fm.beyond q.1 y.1 = false) ∧ (0 < q.1 → ∃ y ∈ xs, fm.beyond (q.1 - 1) y.1 = true)
      ∧ (∀ f mx, fm = .flt f mx → q.2.1 = xs.map fun y => (rnd f mode true (y.1.scale (127 - (q.1 : Int)))).1)
      ∧ (∀ n s m e, fm = .mxint n → ∀ j, j < 32 → (xs.getD j (.nan, false)).1 = .num s m e →
          let z := rndInt mode s m (e + (127 - (q.1 : Int) + (n - 2 : Nat)))
          let hi : Int := 2 ^ (n - 1) - 1
          q.2.1.getD j 0 = ((max (-hi) (min hi z)) % (2 ^ n : Int)).toNat)
      ∧ (q.2.2 &&& fZBLK ≠ 0 ↔ (∃ y ∈ xs, y.1.isZero = false)
          ∧ ∀ code ∈ q.2.1, (match fm with | .flt f _ => (f.value code).isZero | .mxint _ => code == 0) = true))

/-- The values of VRND, VGEXP, VGMAN, VSCALB, VCVT and VCVP (R113, R156, R158, R347, R348, R353): an integral value of the same tag that keeps its sign; the exponent and the
mantissa in [1, 2) of an FP32 element; x · 2^n for n the second operand truncated; a conversion; several registers converted and packed into N32 elements. Each
answers exactly where its operands fit it and its result keeps the run limit. -/
def Sys2Proof.Claims.VectorConversions : Prop :=
  ∀ (o : VF) (x : Ext) (c : Croft) (u v : VReg), u = Claims.source c o.w o.a.toNat → v = Claims.source c o.w o.b.toNat → Claims.RunsOk u → Claims.RunsOk v →
    let sat := x.x0.getLsbD 13
    let mode := x.x0.toNat / 2 ^ 17 % 8
    let tag := x.x0.toNat / 2 ^ 20 % 16
    let a := Claims.nth u
    let b := Claims.nth v
    let inf (s : Bool) : Nat := if s then 0xFF800000 else 0x7F800000
    let nan : Nat := 0x7FC00000
    let ra := Claims.Readable c o.w o.a.toNat
    let rb := Claims.Readable c o.w o.b.toNat
    Claims.Answers (vrndValue o x c) o.w (ra ∧ u.tag ≤ 5) u.tag u.len (fun i =>
      (match tagFmt u.tag with
        | some f => (match f.value (a i) with
          | .nan => f.nanCode
          | .inf s => f.signed s f.infCode
          | .num s m e => (rnd f mode true (.num s (roundTo mode s m e 0) 0)).1)
        | none => 0, 0))
    ∧ Claims.Answers (vgexpValue o c) o.w (ra ∧ u.tag = 0) 0 u.len (fun i =>
      (match fp32.value (a i) with
        | .nan => nan
        | .inf _ => inf false
        | .num _ m e => if m = 0 then inf true else (rne32 (.ofInt (e + Nat.log2 m))).1, 0))
    ∧ Claims.Answers (vgmanValue o c) o.w (ra ∧ u.tag = 0) 0 u.len (fun i =>
      (match fp32.value (a i) with
        | .nan => nan
        | .inf s => fp32.signed s 0x3F800000
        | .num s m _ => if m = 0 then fp32.signed s 0 else (rne32 (.num s m (-(Nat.log2 m : Int)))).1, 0))
    ∧ Claims.Answers (vscalbValue o x c) o.w (ra ∧ rb ∧ v.len = u.len ∧ v.tag = u.tag ∧ u.tag = 0) 0 u.len (fun i =>
      match fp32.value (a i), fp32.value (b i) with
        | .nan, _ => (nan, 0)
        | _, .nan => (nan, 0)
        | .inf s, y => (if y = .inf true then nan else inf s, 0)
        | .num s m _, .inf false => (if m = 0 then nan else inf s, 0)
        | .num s _ _, .inf true => (fp32.signed s 0, 0)
        | .num s m e, .num ys ym ye => if m = 0 then (fp32.signed s 0, 0) else rnd fp32 mode sat (.num s m (e + rndInt 1 ys ym ye)))
    ∧ Claims.Answers (vcvtValue o x c) o.w ra tag u.len (fun i => Claims.converted u.tag tag mode sat (a i))
    ∧ (tag ∈ [1, 2, 3, 4, 6, 7, 9, 10] →
      (∀ j, j < 32 / tagWidth tag → Claims.RunsOk (vget c.v {} (o.a.toNat + j))) →
      let src (j i : Nat) : Nat × Flags := Claims.converted 0 tag mode sat (Claims.nth (vget c.v {} (o.a.toNat + j)) i)
      Claims.Answers (vcvpValue o x c) false
        (∀ j, j < 32 / tagWidth tag → (vget c.v {} (o.a.toNat + j)).tag = 0 ∧ (vget c.v {} (o.a.toNat + j)).len = (vget c.v {} o.a.toNat).len)
        11 (vget c.v {} o.a.toNat).len fun i =>
          ((List.range (32 / tagWidth tag)).foldr (fun j n => (src j i).1 + 2 ^ tagWidth tag * n) 0,
           (List.range (32 / tagWidth tag)).foldl (fun f j => f ||| (src j i).2) 0))

/-- The values of VRED and VSCAN (R156, R158, R160, R357): one element, reduced from all elements of Va, and for each element the reduction of those up to it, each
rounded once; AND, OR and XOR take no float tag. Each answers exactly where its operation takes the tag and its result keeps the run limit. -/
def Sys2Proof.Claims.VectorReductions : Prop :=
  ∀ (o : VF) (x : Ext) (c : Croft) (u : VReg), u = Claims.source c o.w o.a.toNat → Claims.RunsOk u → x.imm32.toNat ≤ 5 →
    let op := x.imm32.toNat
    let tag := if op = 0 ∧ u.tag = 12 then 11 else u.tag
    let codes := (elems u.runs).map BitVec.toNat
    let good := Claims.Readable c o.w o.a.toNat ∧ (op ≤ 2 ∨ 6 ≤ u.tag)
    Claims.Answers (vredValue o x c) o.w good tag 1 (fun _ => Claims.reduced op u.tag codes)
    ∧ Claims.Answers (vscanValue o x c) o.w good tag u.len (fun i => Claims.reduced op u.tag (codes.take (i + 1)))

/-- VPOP, VPUSH, VRDA and VWRA issue and land at 8 vc (R74, R163, R359 to R362): the head of a QV queue, merged; the dense or packed form of Va on its
way into QS; a row of an ACM tile read; a row written or added to. -/
def Sys2Proof.Claims.VectorQueuesAndTiles : Prop :=
  ∀ (t : Tok) (o : VF) (x : Ext) (s : State) (c : Croft),
    let imm := x.imm32.toNat
    let va := vget c.v {} o.a.toNat
    let tile := imm / 64 % 16
    (∀ id e q, Ready (.vpop t o x) t s c → c.popping o.a.toNat = false → vget c.qv [] o.a.toNat = ⟨id, some e⟩ :: q →
      exec (.vpop t o x) s = .next (s.setCur (c.land .V (.vpop t o x) t.sig.toNat 8
        (.vpop o.d.toNat o.a.toNat (if (mergeRuns e.runs).length ≤ 64 then some ⟨e.tag, mergeRuns e.runs⟩ else none)))))
    ∧ (Ready (.vpush t o x) t s c → c.vpush = none →
      let ds := if imm = 1 then packedDwords va else denseDwords va
      exec (.vpush t o x) s = .next (s.setCur (Croft.land { c with vpush := if ds = [] then none else some ⟨ds⟩ } .V (.vpush t o x) t.sig.toNat 8 .nothing)))
    ∧ (Ready (.vrda t o x) t s c → c.heldTile tile = false → ∃ tag, tag = (if (vget c.records 0 tile).toNat / 2 ^ 12 % 4 = 1 then 8 else 0) ∧
      exec (.vrda t o x) s = .next (s.setCur (c.land .V (.vrda t o x) t.sig.toNat 8
        (.setV false o.d.toNat 32 ⟨⟨tag, ofElems (c.acmElems tile (64 * (imm % 64)) 64)⟩, none, 0⟩))))
    ∧ (Ready (.vwra t o x) t s c → c.heldTile tile = false → va.len = 64 → (va.tag = 0 ∨ va.tag = 8 ∨ va.tag = 11) →
      exec (.vwra t o x) s = .next (s.setCur (c.land .V (.vwra t o x) t.sig.toNat 8
        (.wrow tile (imm % 64) (if imm / 2 ^ 10 % 2 = 1 then some va.tag else none) (elems va.runs)))))

/-- VectorConversions and VectorReductions and VectorQueuesAndTiles together. -/
def Obligations.VectorQueuesAndConversions : Prop := Claims.VectorConversions ∧ Claims.VectorReductions ∧ Claims.VectorQueuesAndTiles

/-! ### The index and generation engines -/

/-- XGATH, XSCAT, XSCADD and XBAG with a good descriptor pass into the index unit with the descriptor as read at issue, their arrival reserved (R39, R165,
R366, R367). Which checks come first is the model's reading of two rules (log 101). -/
def Obligations.IndexAccepted : Prop :=
  ∀ (i : Instr) (t : Tok) (o : XF) (op : Nat) (s : State) (c : Croft), Claims.index i = some (t, o, op) → Ready i t s c →
    let d : BitVec 512 := BitVec.ofNat 512 (c.sp.le (128 * o.desc.toNat) 64)
    let tbase : Word64 := BitVec.ofNat 64 (Claims.descField d 0 8)
    let dbase : Word64 := BitVec.ofNat 64 (Claims.descField d 8 8)
    let rowb := 4 * Claims.descField d 0x14 2
    let rows := if op = 3 then Claims.descField d 0x2C 4 else Claims.descField d 0x24 4
    let idx := Claims.descField d 0x20 4
    let n := Claims.descField d 0x24 4
    let offs := Claims.descField d 0x28 4
    let bar := Claims.descField d 0x19 1
    Claims.SpOk c .X (128 * o.desc.toNat) 64 false → ixFieldsOk op d = true →
    tbase.toNat % 4 = 0 → dbase.toNat % 4 = 0 → idx % 4 = 0 → offs % 4 = 0 →
    Claims.Area c tbase (Claims.descField d 0x10 4 * rowb) (op = 1 ∨ op = 2) →
    Claims.Area c dbase (if rows = 0 then 0 else (rows - 1) * Claims.descField d 0x1C 4 + rowb) (op = 0 ∨ op = 3) →
    Claims.SpOk c .X idx (4 * n) false → (op = 3 → Claims.SpOk c .X offs (4 * (rows + 1)) false ∧ offsOk n (c.n32 offs (rows + 1)) = true) →
    (bar / 16 % 2 = 1 → (vget c.abs {} (bar % 16)).ini ≠ 0) →
    (o.arv = 0 ∨ vget c.arv 0 (o.arv.toNat - 1) + vget c.arvRes 0 (o.arv.toNat - 1) < 8) →
    exec i s = .next (s.setCur (({ c with
      indexq := c.indexq ++ [{ seq := c.issueSeq, pc := c.issuePc, launch := c.lastLaunch, arv := o.arv.toNat, op := op, desc := d }]
      arvRes := if o.arv = 0 then c.arvRes else vset c.arvRes (o.arv.toNat - 1) (vget c.arvRes 0 (o.arv.toNat - 1) + 1) } : Croft).pushSig .X t.sig.toNat))

/-- Every generation command passes into the work queue with its parameter block from QG, its arrival reserved, where its ranges are in G's open phase;
GBUDG arms the croft's budget as it issues, and a GSHORT of the budget's slot disarms it (R39, R242, R244, R251, R297, R298, R301). A bank of its ranges that is down at its
issue is BOUNDS there (R138, R280), GSLOW's logits among them. The address of that BOUNDS, the range's first byte, is the model's reading (log 33), and so are that
the command keeps the banks that were down at its issue (log 56), that a range past the end of scratchpad is accepted and faults when it performs (log 13), and
that the Hayward checks GSLOW's issue against CBASE alone (log 98). -/
def Obligations.GenerationAccepted : Prop :=
  ∀ (i : Instr) (t : Tok) (o : GF) (x : Ext) (op : Nat) (s : State) (c : Croft) (id : Nat) (b : BitVec 512) (q : List (Slot (BitVec 512))),
    Claims.generation i = some (t, o, x, op) → Ready i t s c → c.genq.length < 8 →
    (o.arv = 0 ∨ vget c.arv 0 (o.arv.toNat - 1) + vget c.arvRes 0 (o.arv.toNat - 1) < 8) →
    (op ≠ 7 → c.qg = ⟨id, some b⟩ :: q) → (op = 7 → b = 0 ∧ q = c.qg) →
    let up (r : SpAcc) : Prop := ∀ y, r.a ≤ y → y < r.a + r.n → y < 2 ^ 21 → c.gateUp (y / 65536) = true
    (∀ p r l, (Claims.genAreas c op b ++ if op = 2 then Claims.slowAreas c o.k.toNat else []) = p ++ r :: l → (∀ x ∈ p, up x) → ¬up r →
      exec i s = .next (Claims.raised s i { code := .bounds, addr := 2 ^ 56 + r.a }))
    ∧ ((∀ r ∈ Claims.genAreas c op b, up r ∧ ∀ y, r.a ≤ y → y < r.a + r.n → y < 2 ^ 21 →
      ∃ p ∈ (if r.w then (vget c.phases {} 5).writes else (vget c.phases {} 5).reads ++ (vget c.phases {} 5).writes), p.base ≤ y ∧ y < p.base + p.len) →
      (op = 2 → ∀ r ∈ Claims.slowAreas c o.k.toNat, up r) →
    ∃ shut, (∀ k, k ∈ shut ↔ k < 32 ∧ c.gateUp k = false) ∧ exec i s = .next (s.setCur (({ c with
      qg := q
      budget := (if op = 5 then some { slot := o.k.toNat, due := c.vclock + x.x0.toNat, resume := b.toNat % 2 ^ 16
                                       step := b.toNat / 2 ^ (8 * 0x1C) % 2 ^ 32, pc := c.issuePc, seq := c.issueSeq }
                 else if op = 1 ∧ c.budget.map (·.slot) = some o.k.toNat then none else c.budget)
      genq := c.genq ++ [{ seq := c.issueSeq, pc := c.issuePc, launch := c.lastLaunch, arv := o.arv.toNat, op := op, k := o.k.toNat
                           word := c.imem.le (4 * c.issuePc) 4, x0 := x.x0.toNat, block := b, vc := c.vclock, shut := shut }]
      arvRes := if o.arv = 0 then c.arvRes else vset c.arvRes (o.arv.toNat - 1) (vget c.arvRes 0 (o.arv.toNat - 1) + 1) } : Croft).pushSig .G t.sig.toNat)))

/-! ### Landings and tokens -/

/-- A result that is due by the vc the clock has reached lands, a push into QS only outside a VPUSH's transfer (R159, R163): it enters its register, queue, barrier object, shadow level or the live tile, nothing else changes, and its signal
token is pushed (R39, R44, R74, R105, R155, R168, R220). -/
def Obligations.ResultLandings : Prop :=
  ∀ (s : State) (n : Nat) (p : Pending) (rest : List Pending) (d : Croft), s.power = true → (s.croft n).lands = p :: rest → p.due ≤ (s.croft n).landLimit →
    (∀ v, p.op = .pushS v → (s.croft n).vpush = none) → Claims.landed { s.croft n with lands := rest } p.op = some d →
    exec (.resultLanding n) s = .next (s.setCroft n (d.pushSig p.eng p.sig))

/-- What a landing writes to scratchpad and ACM (R61, R122, R134, R136, R138, R174, R221, R278, R280, R330, R338, R362): exactly its bytes, each as given,
with the zero flags of the blocks it writes, the record of its tile, its replies in QC and QR; nothing else of the croft changes. A BANKGATE starts the change
of each bank that is not as it asks, or appends it behind the one under way, which is the model's reading (log 107); going down keeps the power for the accesses that have issued (R138, R280). -/
def Obligations.MemoryLandings : Prop :=
  ∀ (s : State) (n : Nat) (p : Pending) (rest : List Pending) (c : Croft), s.power = true → (s.croft n).lands = p :: rest → p.due ≤ (s.croft n).landLimit →
    c = { s.croft n with lands := rest } → Claims.LandingForm c →
    (∀ a bs, p.op = .store .sp a bs → ∃ d, exec (.resultLanding n) s = .next (s.setCroft n (Claims.ended d p)) ∧ Claims.LandedMem c d
      ∧ Claims.Written c.sp d.sp a bs ∧ Claims.FlagsCleared c d a bs.length ∧ d.acm = c.acm ∧ d.gates = c.gates ∧ d.records = c.records
      ∧ d.qstat = c.qstat ∧ d.qc = c.qc ∧ d.qr = c.qr)
    ∧ (∀ a bs, p.op = .store .acm a bs → ∃ d, exec (.resultLanding n) s = .next (s.setCroft n (Claims.ended d p)) ∧ Claims.LandedMem c d
      ∧ Claims.Written c.acm d.acm a bs ∧ d.sp = c.sp ∧ d.zclear = c.zclear ∧ d.gates = c.gates ∧ d.records = c.records
      ∧ d.qstat = c.qstat ∧ d.qc = c.qc ∧ d.qr = c.qr)
    ∧ (∀ a size op cmp v reply new, p.op = .atomSp a size op cmp v reply → Claims.atomic (8 * size) op (c.sp.le a size) cmp.toNat v.toNat = some new →
      ∃ d, exec (.resultLanding n) s = .next (s.setCroft n (Claims.ended d p)) ∧ Claims.LandedMem c d
        ∧ Claims.Written c.sp d.sp a (leBytes size new) ∧ d.acm = c.acm ∧ d.gates = c.gates ∧ d.records = c.records ∧ d.qstat = c.qstat ∧ d.qr = c.qr
        ∧ d.qc = (match reply with | none => c.qc | some id => Claims.filled id (BitVec.ofNat 64 (c.sp.le a size)) c.qc)
        ∧ (op = 9 ∧ c.sp.le a size ≠ cmp.toNat % 2 ^ (8 * size) → d.zclear = c.zclear)
        ∧ (¬(op = 9 ∧ c.sp.le a size ≠ cmp.toNat % 2 ^ (8 * size)) → Claims.FlagsCleared c d a size))
    ∧ (∀ a cmp v reply r, p.op = .atomSp a 4 10 cmp v reply → r = rne32 (FV.add (fp32.value (c.sp.le a 4)) (fp32.value (v.toNat % 2 ^ 32))) →
      ∃ d, exec (.resultLanding n) s = .next (s.setCroft n (Claims.ended d p)) ∧ Claims.LandedMem c d
        ∧ Claims.Written c.sp d.sp a (leBytes 4 r.1) ∧ Claims.FlagsCleared c d a 4 ∧ d.acm = c.acm ∧ d.gates = c.gates ∧ d.records = c.records
        ∧ d.qstat = c.qstat ||| r.2 ∧ d.qr = c.qr
        ∧ d.qc = (match reply with | none => c.qc | some id => Claims.filled id (BitVec.ofNat 64 (c.sp.le a 4)) c.qc))
    ∧ (∀ b k dirty, p.op = .zflags b k dirty → ∃ d, exec (.resultLanding n) s = .next (s.setCroft n (Claims.ended d p)) ∧ Claims.LandedMem c d
      ∧ d.sp = c.sp ∧ d.acm = c.acm ∧ d.gates = c.gates ∧ d.records = c.records ∧ d.qstat = c.qstat ∧ d.qc = c.qc ∧ d.qr = c.qr
      ∧ (∀ x, b ≤ x → x < b + k → (Claims.zeroFlag d x = true ↔ x ∉ dirty ∧ ∀ y, 1024 * x ≤ y → y < 1024 * x + 1024 → c.sp.read y = 0))
      ∧ (∀ x, x < b ∨ b + k ≤ x → Claims.zeroFlag d x = Claims.zeroFlag c x))
    ∧ (∀ lo hi up, p.op = .gates lo hi up → ∃ d, exec (.resultLanding n) s = .next (s.setCroft n (Claims.ended d p)) ∧ Claims.LandedMem c d
      ∧ d.sp = c.sp ∧ d.acm = c.acm ∧ d.zclear = c.zclear ∧ d.records = c.records ∧ d.qstat = c.qstat ∧ d.qc = c.qc ∧ d.qr = c.qr
      ∧ (let turns (x : Nat) : Prop := lo ≤ x ∧ x ≤ hi ∧ c.gateUp x ≠ up
         (∀ x, x < 32 →
            (turns x → vget c.gates .up x = .down → vget d.gates .up x = .waking) ∧ (turns x → vget c.gates .up x = .up → vget d.gates .up x = .falling)
            ∧ (¬turns x ∨ vget c.gates .up x = .waking ∨ vget c.gates .up x = .falling → vget d.gates .up x = vget c.gates .up x)
            ∧ (turns x → vget c.gates .up x = .up → vget d.gateAcc [] x = c.spIssued)
            ∧ (¬(turns x ∧ vget c.gates .up x = .up) → vget d.gateAcc [] x = vget c.gateAcc [] x))
         ∧ d.gateq = c.gateq ++ (((List.range (hi + 1 - lo)).map (lo + ·)).filter fun x =>
              c.gateUp x ≠ up ∧ (vget c.gates .up x = .waking ∨ vget c.gates .up x = .falling)).map fun x => ⟨x, up, c.spIssued⟩))
    ∧ (∀ t vs r f, p.op = .tile t vs r f → vs.length = 4096 → t < 16 →
      ∃ d, exec (.resultLanding n) s = .next (s.setCroft n (Claims.ended d p)) ∧ Claims.LandedMem c d
        ∧ (∀ i, i < 4096 → Claims.element d t i = vs.getD i 0) ∧ (∀ y, y < 16384 * t ∨ 16384 * t + 16384 ≤ y → d.acm.read y = c.acm.read y)
        ∧ d.records = vset c.records t r ∧ d.qstat = c.qstat ||| f ∧ d.sp = c.sp ∧ d.zclear = c.zclear ∧ d.gates = c.gates ∧ d.qc = c.qc ∧ d.qr = c.qr)
    ∧ (∀ t, p.op = .zeroTile t → ∃ d, exec (.resultLanding n) s = .next (s.setCroft n (Claims.ended d p)) ∧ Claims.LandedMem c d
        ∧ (∀ i, i < 4096 → Claims.element d t i = 0) ∧ (∀ y, y < 16384 * t ∨ 16384 * t + 16384 ≤ y → d.acm.read y = c.acm.read y)
        ∧ d.records = vset c.records t 0 ∧ d.qstat = c.qstat ∧ d.sp = c.sp ∧ d.zclear = c.zclear ∧ d.gates = c.gates ∧ d.qc = c.qc ∧ d.qr = c.qr)
    ∧ (∀ t r add vs, p.op = .wrow t r add vs → vs.length = 64 → add ≠ some 0 →
      ∃ d, exec (.resultLanding n) s = .next (s.setCroft n (Claims.ended d p)) ∧ Claims.LandedMem c d
        ∧ (∀ i, i < 64 → Claims.element d t (64 * r + i) = (if add = none then vs.getD i 0 else Claims.element c t (64 * r + i) + vs.getD i 0))
        ∧ (∀ y, y < 16384 * t + 256 * r ∨ 16384 * t + 256 * r + 256 ≤ y → d.acm.read y = c.acm.read y)
        ∧ d.records = c.records ∧ d.qstat = c.qstat ∧ d.sp = c.sp ∧ d.zclear = c.zclear ∧ d.gates = c.gates ∧ d.qc = c.qc ∧ d.qr = c.qr)
    ∧ (∀ t r vs, p.op = .wrow t r (some 0) vs → vs.length = 64 →
      ∃ d, exec (.resultLanding n) s = .next (s.setCroft n (Claims.ended d p)) ∧ Claims.LandedMem c d
        ∧ (∀ i, i < 64 → Claims.element d t (64 * r + i) =
            BitVec.ofNat 32 (accStep (Claims.element c t (64 * r + i)).toNat (fp32.value (vs.getD i 0).toNat)).1)
        ∧ (∀ y, y < 16384 * t + 256 * r ∨ 16384 * t + 256 * r + 256 ≤ y → d.acm.read y = c.acm.read y)
        ∧ d.records = c.records ∧ d.sp = c.sp ∧ d.zclear = c.zclear ∧ d.gates = c.gates ∧ d.qc = c.qc ∧ d.qr = c.qr)
    ∧ (∀ a bs rs, p.op = .map a bs rs → ∃ d, exec (.resultLanding n) s = .next (s.setCroft n (Claims.ended d p)) ∧ Claims.LandedMem c d
        ∧ Claims.Written c.sp d.sp a bs ∧ Claims.FlagsCleared c d a bs.length ∧ d.qr = c.qr ++ rs ∧ d.acm = c.acm ∧ d.gates = c.gates
        ∧ d.records = c.records ∧ d.qstat = c.qstat ∧ d.qc = c.qc)

/-- A result that faults at its landing enters the handler with LAND set, at the vc at which it was due, and none of its effect is made (R168, R223,
R225, R226). That a faulted landing pushes no signal is the model's reading (log 32). -/
def Sys2Proof.Claims.LandingFaults : Prop :=
  ∀ (s : State) (n : Nat) (p : Pending) (f : Flt), s.power = true → (s.croft n).lands = [p] → p.due ≤ (s.croft n).atVc → (s.croft n).mode = .fixed →
    Claims.Handles (s.croft n) → Claims.landingFault (s.croft n) p.op = some f → f.code ≠ .trap →
    ∃ s', exec (.resultLanding n) s = .next s' ∧ (∀ m, m ≠ n → s'.croft m = s.croft m) ∧ s'.hbm = s.hbm
      ∧ Claims.Entered { s.croft n with lands := [], vclock := p.due } (s'.croft n) f p.eng p.pc true false (s.croft n).queues

/-- The landing list (R44): a result stands in it L vc after its issue, the list stays in the order in which results land, nothing leaves it at issue;
and a landing keeps the form of the croft that the next one finds. -/
def Sys2Proof.Claims.LandingList : Prop :=
  (∀ (c : Croft) (e : Eng) (i : Instr) (sig lat : Nat) (op : LandOp), c.lands.Pairwise Claims.LandsBefore →
    (c.land e i sig lat op).lands.Pairwise Claims.LandsBefore
    ∧ (c.land e i sig lat op).lands.Perm (⟨c.vclock + lat, c.issueSeq, c.issuePc, e, sig, op, i⟩ :: c.lands))
  ∧ (∀ (s s' : State) (n : Nat) (p : Pending) (rest : List Pending), Claims.LandingForm (s.croft n) → (s.croft n).lands = p :: rest →
      p.due ≤ (s.croft n).landLimit → (∀ v, p.op = .pushS v → (s.croft n).vpush = none) → p.op ≠ .nest → Claims.landingFault (s.croft n) p.op = none → exec (.resultLanding n) s = .next s' →
      Claims.LandingForm (s'.croft n))

/-- LandingFaults and LandingList together. -/
def Obligations.LandingFaultsAndList : Prop := Claims.LandingFaults ∧ Claims.LandingList

/-- Token FIFOs and arrivals (R37, R39, R54): a signal pushes one token of the FIFO of its engine pair, or waits for room in it, behind what of its engine
waits already, while its engine issues nothing; a wait pops one, and none is there to pop where it is empty; a pop makes the first push that waited for that
FIFO, and those behind it wait on. -/
def Obligations.Tokens : Prop :=
  ∀ (c : Croft) (e : Eng) (k : Nat),
    let fifo (x y : Nat) : Nat := vget c.tok 0 (6 * (x - 1) + (y - 1))
    let waiting (x : Eng) : List Nat := vget c.sigWait [] (x.code - 1)
    (c.pushSig e 0 = c)
    ∧ (1 ≤ k → fifo e.code k < 8 → k ∉ waiting e → c.pushSig e k = { c with tok := vset c.tok (6 * (e.code - 1) + (k - 1)) (fifo e.code k + 1) })
    ∧ (1 ≤ k → 8 ≤ fifo e.code k ∨ k ∈ waiting e → c.pushSig e k = { c with sigWait := vset c.sigWait (e.code - 1) (waiting e ++ [k]) })
    ∧ (1 ≤ k → k ≤ 6 → fifo k e.code = 0 → c.takeWait k e = none)
    ∧ (vget c.arv 0 (e.code - 1) = 0 → c.takeWait 7 e = none)
    ∧ ((∀ f : Eng, waiting f = []) →
        c.takeWait 0 e = some c
        ∧ (1 ≤ k → k ≤ 6 → 0 < fifo k e.code → c.takeWait k e = some { c with tok := vset c.tok (6 * (k - 1) + (e.code - 1)) (fifo k e.code - 1) })
        ∧ (0 < vget c.arv 0 (e.code - 1) → c.takeWait 7 e = some { c with arv := vset c.arv (e.code - 1) (vget c.arv 0 (e.code - 1) - 1) }))
    ∧ (∀ (x : Eng) (j : Nat), waiting x = e.code :: List.replicate j e.code → (∀ f : Eng, f ≠ x → waiting f = []) → fifo x.code e.code = 8 →
        ∃ d, c.takeWait x.code e = some d ∧ vget d.tok 0 (6 * (x.code - 1) + (e.code - 1)) = 8
          ∧ vget d.sigWait [] (x.code - 1) = List.replicate j e.code
          ∧ (∀ j, j ≠ 6 * (x.code - 1) + (e.code - 1) → vget d.tok 0 j = vget c.tok 0 j))

/-! ### Service messages and the platform -/

/-- A request with a wrong SEQ is answered 2 and changes nothing else; one with the right SEQ and a header that breaks R266 or an OP that is no request's is
answered 1, one on a function that may not carry it, and a management request whose signature does not verify, 3: these consume the SEQ and change nothing
else (R266 to R268; that they consume it is the model's reading, log 57). -/
def Obligations.RequestsRefused : Prop :=
  ∀ (s : State) (m : Msg) (i : Instr) (op : Nat) (who : From), (i, op, who) ∈ Claims.requests m → s.power = true → s.boot = .running →
    (∀ o, m.fn = some o → (s.owners.find o).isSome) → 32 ≤ m.bytes.length → Claims.field m.bytes 0 2 = 0x535A →
    (Claims.field m.bytes 0x04 2 = op ∨ ∀ r ∈ Claims.requests m, Claims.field m.bytes 0x04 2 ≠ r.2.1) →
    (Claims.field m.bytes 0x18 8 ≠ s.seqs.get 0 (Claims.endpointOf m.fn) → exec i s = .next (Claims.replied s m 2 []))
    ∧ (Claims.field m.bytes 0x18 8 = s.seqs.get 0 (Claims.endpointOf m.fn) → ¬Claims.Header m op →
        exec i s = .next (Claims.replied (Claims.taken s m) m 1 []))
    ∧ (Claims.Arrives s m op → (who = .operator ∧ m.fn ≠ none ∨ who = .owner ∧ m.fn = none) →
        exec i s = .next (Claims.replied (Claims.taken s m) m 3 []))
    ∧ (Claims.Arrives s m op → m.fn = none → ∀ p sig, m.bytes.drop 32 = p ++ sig → sig.length = 64 → Claims.signed s m sig = false →
        exec i s = .next (Claims.replied (Claims.taken s m) m 3 []))

/-- The operators' requests: what ADMIT, REVOKE, OPKEY, IMAGE, FLOOR and CERT do where their signature verifies, each with its reply (R22, R23, R197,
R260, R262, R265, R267 to R269). Where it does not verify the reply is 3. Statuses that the spec does not name are the model's readings (logs 58, 59),
the lanes that an admission needs its choice (logs 15, 18). -/
def Sys2Proof.Claims.ManagementRequests : Prop :=
  ∀ (s : State) (m : Msg) (p sig : List Byte), m.fn = none → m.bytes.drop 32 = p ++ sig → sig.length = 64 →
    let t := Claims.taken s m
    let ok := Claims.signed s m sig
    (Claims.Arrives s m 5 → p.length = 8 → Claims.field p 4 4 = 0 →
      exec (.floor m) s = .next (if ok then Claims.replied { t with minVer := max s.minVer (Claims.field p 0 4) } m 0 [] else Claims.replied t m 3 []))
    ∧ (Claims.Arrives s m 3 → p.length = 40 → Claims.field p 33 7 = 0 → Claims.field p 32 1 = 1 →
      exec (.opkey m) s = .next (if ok then
        Claims.replied { t with opKeys := if p.take 32 ∈ s.opKeys then s.opKeys else s.opKeys ++ [p.take 32] } m 0 [] else Claims.replied t m 3 []))
    ∧ (Claims.Arrives s m 3 → p.length = 40 → Claims.field p 33 7 = 0 → Claims.field p 32 1 = 0 → p.take 32 ∈ s.opKeys → (∃ k ∈ s.opKeys, k ≠ p.take 32) →
      exec (.opkey m) s = .next (if ok then
        Claims.replied { t with opKeys := s.opKeys.filter fun k => k ≠ p.take 32 } m 0 [] else Claims.replied t m 3 []))
    ∧ (Claims.Arrives s m 3 → p.length = 40 → Claims.field p 33 7 = 0 → Claims.field p 32 1 = 0 → (∀ k ∈ s.opKeys, k = p.take 32) →
      exec (.opkey m) s = .next (if ok then Claims.replied t m 7 [] else Claims.replied t m 3 []))
    ∧ (Claims.Arrives s m 4 → imageOk p = true →
      exec (.image m) s = .next (if ok ∧ imageSigned p = true ∧ s.minVer ≤ Claims.field p 4 4 then
        Claims.replied { t with flash0 := p, flash1 := p } m 0 [] else Claims.replied t m 3 []))
    ∧ (Claims.Arrives s m 0x21 → p = [] →
      exec (.cert m) s = .next (if ok then Claims.replied t m 0 (identityKey ++ leBytes 64 Config.identityCert.toNat) else Claims.replied t m 3 []))
    ∧ (∀ o w, Claims.Arrives s m 2 → p.length = 8 → o < 128 → Claims.field p 0 1 = o → Claims.field p 1 7 = 0 → s.owners.find o = some w →
      ∃ t', exec (.revoke m) s = .next t' ∧
        if ok then
          t'.owners.find o = none ∧ (∀ q, q ≠ o → t'.owners.find q = s.owners.find q) ∧ Claims.SendsOnly s t' [Claims.reply m 0 []]
          ∧ (∀ n ∈ w.crofts, (t'.croft n).owner = none ∧ (t'.croft n).sp = [] ∧ (t'.croft n).acm = [] ∧ (t'.croft n).zeroing = true)
          ∧ (∀ l ∈ t'.launches, l.owner ≠ o) ∧ (∀ v ∈ t'.saved, v.2.owner ≠ o) ∧ ∀ v ∈ t'.spilled, v.owner ≠ o
        else t' = Claims.replied t m 3 [])
    ∧ (∀ o, Claims.Arrives s m 1 → admOk p = true → o < 128 → s.owners.find o = none → s.hot = false →
      (Claims.field p 0 1 = o ∨ Claims.field p 0 1 = 0xFF ∧ ∀ q, q < o → s.owners.find q ≠ none) →
      (∀ n ∈ admCrofts p, (s.croft n).owner = none) →
      s.lanesFor (linksOf (admCrofts p) ((List.range 16).filter fun st => 0 < Claims.field p (0x90 + 4 * st) 4)) = true →
      s.owners.foldl (fun n w => n + w.2.space) 0 + Claims.field p 0x88 8 ≤ 2 ^ 41 →
      (∀ st, st < 16 → Claims.field p (0x90 + 4 * st) 4 + s.owners.foldl (fun n w => n + vget w.2.res 0 st) 0 ≤ 2 ^ 29) →
      ∃ t', exec (.admission m) s = .next t' ∧
        match ok, unsealKey (byteSlice p 0x108 32) (byteSlice p 0x128 64) (byteSlice p 0x168 16) (p.take 0x108) with
        | false, _ => t' = Claims.replied t m 3 []
        | true, none => t' = Claims.replied t m 1 []
        | true, some key =>
          Claims.SendsOnly s t' [Claims.reply m 0 (leBytes 8 o)] ∧ t'.seqs.get 0 o = 0 ∧ t'.outSeqs.get 0 o = 0 ∧ (∀ q, q ≠ o → t'.owners.find q = s.owners.find q)
          ∧ (∃ w, t'.owners.find o = some w ∧ w.crofts = admCrofts p ∧ w.space = Claims.field p 0x88 8 ∧ w.memKey = key
              ∧ ∀ st, st < 16 → vget w.res 0 st = Claims.field p (0x90 + 4 * st) 4)
          ∧ (∀ n ∈ admCrofts p, t'.croft n = { Croft.reset with owner := some o, zeroing := true })
          ∧ (∀ n, n ∉ admCrofts p → t'.croft n = s.croft n) ∧ t'.hbm = s.hbm)

/-- The admissions that Sillu refuses, with nothing changed but the SEQ consumed and the reply (R19, R21, R22, R265, R269): a record out of form, or whose key does
not open, is answered 1; while a die is above 110 °C, or the owner named is admitted, or every number is taken, 4 with offset 0; a croft that is owned, or lanes that
are missing, 4 with offset 8; an address space past 2 TiB in all, 4 with offset 0x88; a reserve past a stack's sectors, 4 with that reserve's offset. The statuses
and offsets that the spec does not name are the model's readings (log 58), the lanes its choice (logs 15, 18). -/
def Sys2Proof.Claims.AdmissionsRefused : Prop :=
  ∀ (s : State) (m : Msg) (p sig : List Byte), m.fn = none → m.bytes.drop 32 = p ++ sig → sig.length = 64 → Claims.Arrives s m 1 →
    let key := unsealKey (byteSlice p 0x108 32) (byteSlice p 0x128 64) (byteSlice p 0x168 16) (p.take 0x108)
    let replies (code : Nat) (b : List Byte) : Prop := exec (.admission m) s = .next (if Claims.signed s m sig = true then
      Claims.replied (Claims.taken s m) m code b else Claims.replied (Claims.taken s m) m 3 [])
    let refuses (offset : Nat) : Prop := replies (if key = none then 1 else 4) (if key = none then [] else leBytes 8 offset)
    let o := Claims.field p 0 1
    let taken := (o = 0xFF ∧ ∀ q, q < 128 → s.owners.find q ≠ none) ∨ (o < 128 ∧ s.owners.find o ≠ none)
    let held := ∃ n ∈ admCrofts p, (s.croft n).owner ≠ none
    let lanes := s.lanesFor (linksOf (admCrofts p) ((List.range 16).filter fun st => 0 < Claims.field p (0x90 + 4 * st) 4))
    let beyond := 2 ^ 41 < (s.owners.map fun w => w.2.space).sum + Claims.field p 0x88 8
    let short (st : Nat) : Prop := 2 ^ 29 < Claims.field p (0x90 + 4 * st) 4 + (s.owners.map fun w => vget w.2.res 0 st).sum
    (admOk p = false → replies 1 [])
    ∧ (admOk p = true →
      (s.hot = true ∨ taken → refuses 0)
      ∧ (s.hot = false → ¬taken → held ∨ lanes = false → refuses 8)
      ∧ (s.hot = false → ¬taken → ¬held → lanes = true → beyond → refuses 0x88)
      ∧ ∀ st, s.hot = false → ¬taken → ¬held → lanes = true → ¬beyond → st < 16 → short st → (∀ k, k < st → ¬short k) → refuses (0x90 + 4 * st))

/-- ManagementRequests and AdmissionsRefused together. -/
def Obligations.OperatorRequests : Prop := Claims.ManagementRequests ∧ Claims.AdmissionsRefused

/-- The owners' requests: what QUOTE, CERT, UNLOAD, GRAMMAR, CONTEXT, DROP and LOAD do, each with its reply (R95, R262, R263, R267, R268, R270). The
numbers of handles and the statuses that the spec does not name are the model's choice (logs 34, 59), and so is that a quote lists at most 255 objects
(log 65). -/
def Obligations.OwnerRequests : Prop :=
  ∀ (s : State) (m : Msg) (o : Nat) (w : Owner) (p : List Byte), m.fn = some o → s.owners.find o = some w → p = m.bytes.drop 32 →
    let t := Claims.taken s m
    let h := s.nextHandle
    (Claims.Arrives s m 0x20 → p.length = 32 →
      ∃ b, b = p ++ s.msillu ++ leBytes 1 o ++ leBytes 1 (min 255 w.objects.length) ++ List.replicate 6 0 ++ (w.objects.take 255).flatMap (·.1)
        ∧ exec (.quote m) s = .next (Claims.replied t m 0 (b ++ identitySign b)) ∧ (identitySign b).length = 64)
    ∧ (Claims.Arrives s m 0x21 → p = [] → exec (.cert m) s = .next (Claims.replied t m 0 (identityKey ++ leBytes 64 Config.identityCert.toNat)))
    ∧ (Claims.Arrives s m 0x12 → p.length = 8 → Claims.field p 2 6 = 0 → (w.overlays.find (Claims.field p 0 2)).isSome →
        ((∃ l ∈ s.launches, l.owner = o ∧ l.handle = Claims.field p 0 2 ∧ l.told = false) → exec (.unload m) s = .next (Claims.replied t m 7 []))
        ∧ ((∀ l ∈ s.launches, ¬(l.owner = o ∧ l.handle = Claims.field p 0 2 ∧ l.told = false)) →
          ∃ w', exec (.unload m) s = .next (Claims.replied (t.setOwner o w') m 0 []) ∧ w'.overlays.find (Claims.field p 0 2) = none
            ∧ (∀ k, k ≠ Claims.field p 0 2 → w'.overlays.find k = w.overlays.find k)
            ∧ w'.fields = w.fields.filter (fun f => Claims.field f.2 6 2 ≠ Claims.field p 0 2) ∧ w'.crofts = w.crofts ∧ w'.queue = w.queue
            ∧ w'.contract = w.contract))
    ∧ (Claims.Arrives s m 0x30 →
        (grammarOf p = none → exec (.grammar m) s = .next (Claims.replied t m 8 []))
        ∧ ∀ g, grammarOf p = some g → exec (.grammar m) s =
            .next (Claims.replied { t.setOwner o { w with grammars := w.grammars.put h g } with nextHandle := h + 1 } m 0 (leBytes 8 h)))
    ∧ (∀ g, Claims.Arrives s m 0x31 → p.length = 8 → w.grammars.find (Claims.field p 0 8) = some g →
        exec (.context m) s = .next (Claims.replied
          { t.setOwner o { w with contexts := w.contexts.put h ⟨Claims.field p 0 8, some g.start⟩ } with nextHandle := h + 1 } m 0 (leBytes 8 h)))
    ∧ (Claims.Arrives s m 0x32 → p.length = 8 →
        let k := Claims.field p 0 8
        ((w.contexts.find k).isSome →
          exec (.drop m) s = .next (Claims.replied (t.setOwner o { w with contexts := w.contexts.filter fun x => x.1 ≠ k }) m 0 []))
        ∧ (w.contexts.find k = none → (w.grammars.find k).isSome → (∀ x ∈ w.contexts, x.2.grammar ≠ k) →
          exec (.drop m) s = .next (Claims.replied (t.setOwner o { w with grammars := w.grammars.filter fun x => x.1 ≠ k }) m 0 []))
        ∧ (w.contexts.find k = none → (∃ x ∈ w.contexts, x.2.grammar = k) → exec (.drop m) s = .next (Claims.replied t m 7 [])))
    ∧ (Claims.Arrives s m 0x10 →
        (∀ code k, t.loadCheck o w p = some (code, k) → exec (.load m) s = .next (Claims.replied t m 5 (leBytes 4 code ++ leBytes 4 k)))
        ∧ (t.loadCheck o w p = none → ∃ t' hs w', exec (.load m) s = .next t' ∧ Claims.SendsOnly s t' [Claims.reply m 0 (hs.flatMap (leBytes 8))]
            ∧ hs.length = (objOvers p).length ∧ t'.owners.find o = some w' ∧ w'.objects = w.objects ++ [(sha512 p, hs)]
            ∧ (∀ x ∈ hs, (w'.overlays.find x).isSome)
            ∧ (hs.Nodup → ∀ (k : Nat) (v : Over) (x : Nat), (objOvers p)[k]? = some v → hs[k]? = some x →
                w'.overlays.find x = some ⟨v.overlay x, v.text⟩)))

/-- LAUNCH numbers a field, and its record enters the launch queue with a reply, or is held back without one while the queue holds 16; a launch held
back enters when there is room, and is answered then (R25 to R28, R267). Each die that the levels over dies reach gets as many furrows as the levels over
crofts have points. A name that no field has is answered 7. The numbers are the model's choice (log
34). -/
def Obligations.Launches : Prop :=
  ∀ (s : State) (o : Nat) (w : Owner), s.owners.find o = some w →
    (∀ (m : Msg) (name r : List Byte) (v : Loaded), m.fn = some o → Claims.Arrives s m 0x11 → launchName (m.bytes.drop 32) = some name →
      (w.fields.find? (fun f => f.1 == name) = none → exec (.launch m) s = .next (Claims.replied (Claims.taken s m) m 7 []))
      ∧ (w.fields.find? (fun f => f.1 == name) = some (name, r) → w.overlays.find (Claims.field r 6 2) = some v → recOk r = true → recPlaced w r = true →
          (hasBar (codeWords v.code) = true → recCrowded w r = false) →
          let n := s.nextLaunch
          let ls : List Level := (List.range 6).map fun j => ⟨Claims.field r (0x10 + 8 * j) 8 / 2 ^ 62, Claims.field r (0x10 + 8 * j) 8 % 2 ^ 16 + 1⟩
          let dies := ((List.range 16).filter fun d => (Claims.field r 2 2).testBit d).take (Claims.sizeOf 3 ls)
          let l : Launch := { num := n, owner := o, handle := Claims.field r 6 2, rank := Claims.field r 5 1 / 16, dies := Claims.field r 2 2, arg := Claims.field r 8 8
                              levels := ls, left := dies.map fun d => (d, Claims.sizeOf 2 ls), parts := dies.length * Claims.sizeOf 2 ls }
          let t := { Claims.taken s m with nextLaunch := n + 1, launches := s.launches ++ [l] }
          (w.queue.length < 16 → w.held = [] →
            exec (.launch m) s = .next (Claims.replied (t.setOwner o { w with queue := w.queue ++ [n] }) m 0 (leBytes 8 n)))
          ∧ (16 ≤ w.queue.length ∨ w.held ≠ [] →
            exec (.launch m) s = .next (t.setOwner o { w with held := w.held ++ [(n, BitVec.ofNat 64 (Claims.field m.bytes 0x08 8))] }))))
    ∧ (∀ n tag r, s.power = true → w.held = (n, tag) :: r → w.queue.length < 16 →
        exec (.launchQueueEntry o) s = .next { s.setOwner o { w with queue := w.queue ++ [n], held := r } with
          sent := if s.boot = .running then s.sent ++ Claims.stamped s.outSeqs [.reply (some o) 0x0011 0 tag (leBytes 8 n)] else s.sent
          outSeqs := if s.boot = .running then s.outSeqs.put o (s.outSeqs.get 0 o + 1) else s.outSeqs })

/-- The platform: without power every event and instruction stops (R21); the boot ROM runs the first of the two images that it accepts (R260); the
warning of a die above 110 °C is kept and sent (R21; AdmissionsRefused says what it refuses); at 120 °C the module loses its power and every owner's work, and keeps flash, fuses and operator keys; packets
that R264 does not support are counted; a croft accepts work again once its zeroing completes (R23). What outlives the loss of power is the model's
reading (log 85). -/
def Obligations.PlatformEvents : Prop :=
  ∀ (s : State),
    (s.power = false → step s = .fault .noPower ∧ ∀ i, exec i s = .fault .noPower)
    ∧ (s.power = true →
      (s.boot = .before → exec .boot s = .next (
          if imageBoots s.minVer s.flash0 = true then { s with boot := .running, msillu := imageDigest s.flash0 }
          else if imageBoots s.minVer s.flash1 = true then { s with boot := .running, msillu := imageDigest s.flash1 }
          else { s with boot := .refused }))
      ∧ (∀ die, exec (.thermalWarning die) s = .next { s with
          hot := true
          sent := if s.boot = .running then s.sent ++ Claims.stamped s.outSeqs [.service 0x0100 die 0xFF s.time] else s.sent
          outSeqs := if s.boot = .running then s.outSeqs.put 128 (s.outSeqs.get 0 128 + 1) else s.outSeqs })
      ∧ exec .junctionTemperatureFall s = .next { s with hot := false }
      ∧ (∃ t, exec .thermalShutdown s = .next t ∧ t.power = false ∧ t.owners = [] ∧ t.hbm = [] ∧ (∀ n, t.croft n = Croft.reset)
          ∧ t.boot = .before ∧ t.flash0 = s.flash0 ∧ t.flash1 = s.flash1 ∧ t.minVer = s.minVer ∧ t.opKeys = s.opKeys)
      ∧ (s.boot = .running → exec .unsupportedPacket s = .next { s with dropped := s.dropped + 1 })
      ∧ (∀ n, exec (.zeroingComplete n) s = .next (s.setCroft n { s.croft n with zeroing := false })))

/-! ### Fields, fetch, phases -/

/-- FURROW_DISPATCH (R28 to R31): a die's walker takes an offer of the highest RANK, of the next owner after the one it served last at that RANK; a
furrow of the launch the croft ran last starts there, its S1 to S7 preloaded at its first vc (R293), one of another launch waits for the swap; nothing else of the module but the launch's count and
the walker's memory changes. The furrow's point is the next of the die in mixed-radix order, its levels over dies the digits of the die's ordinal. How the
walker's memory is kept is the model's choice (log 77). -/
def Sys2Proof.Claims.FurrowDispatch : Prop :=
  ∀ (s : State) (die o n : Nat) (l : Launch), s.power = true → s.pickOffer die = some (o, l, n) →
    let c := s.croft n
    let start := s.served.get 0 (die * 16 + l.rank)
    (∃ w, (o, w) ∈ s.owners ∧ n ∈ w.crofts ∧ n / 64 = die ∧ c.free = true ∧ l.num ∈ w.queue ∧ l ∈ s.launches ∧ 0 < l.leftOn die)
    ∧ (∀ x ∈ s.offers die, x.2.1.rank ≤ l.rank)
    ∧ (s.owners.Pairwise (fun p q => p.1 < q.1) →
        (start ≤ o → ∀ x ∈ s.offers die, x.2.1.rank = l.rank → start ≤ x.1 → o ≤ x.1)
        ∧ (o < start → ∀ x ∈ s.offers die, x.2.1.rank = l.rank → x.1 < start ∧ o ≤ x.1))
    ∧ ∃ t u, exec (.furrowDispatch die) s = .next t
        -- R28: the furrow's number among the die's, and the die's ordinal, as the digits of its point
        ∧ u = ({ launch := l.num, handle := l.handle, levels := l.levels, point := u.point, arg := l.arg } : Furrow) ∧ u.point.length = l.levels.length
        ∧ (∀ (k : Nat) (v : Level), l.levels[k]? = some v → ∀ p, u.point[k]? = some p → if v.kind = 2 ∨ v.kind = 3 then 1 ≤ v.count → p < v.count else p = 0)
        ∧ ((∀ v ∈ l.levels, 1 ≤ v.count) →
            (l.leftOn die ≤ Claims.sizeOf 2 l.levels → Claims.digits 2 l.levels u.point = Claims.sizeOf 2 l.levels - l.leftOn die)
            ∧ (let ord := ((List.range die).filter fun d => l.dies.testBit d).length
               ord < Claims.sizeOf 3 l.levels → Claims.digits 3 l.levels u.point = ord))
        ∧ (∀ m, m ≠ n → t.croft m = s.croft m) ∧ t.hbm = s.hbm ∧ t.sent = s.sent
        ∧ t.served = s.served.put (die * 16 + l.rank) (o + 1)
        ∧ t.launches = s.launches.map (fun x => if x.num = l.num then { x with left := x.left.put die (x.leftOn die - 1) } else x)
        ∧ (c.lastLaunch ≠ l.num → t.croft n = { c with ended := false, nextFur := some u })
        ∧ (c.lastLaunch = l.num → c.mode = c.overlay.mode →
            (t.croft n).furrow = some u ∧ (t.croft n).split = { pc := c.overlay.entry } ∧ (t.croft n).phases = c.overlay.phases
            ∧ (u.point.length = 6 → (∀ k, k < 6 → vget (t.croft n).preloaded.s 0 (k + 1) = BitVec.ofNat 64 (u.point.getD k 0))
                ∧ vget (t.croft n).preloaded.s 0 7 = BitVec.ofNat 64 u.arg)
            ∧ (c.mode = .score → (t.croft n).preloaded = t.croft n) ∧ (c.mode = .fixed → (t.croft n).s = c.s)
            ∧ (t.croft n).b = c.b ∧ (t.croft n).v = c.v ∧ (t.croft n).sp = c.sp ∧ (t.croft n).acm = c.acm ∧ (t.croft n).handler = c.handler)

/-- OVERLAY_SWAP (R33, R47): outside a handler, once the outgoing overlay's trailer is done, and the croft has drained where the mode changes, the overlay's words
stand in instruction memory, HANDLER is 0, VCLOCK is 0 with every result in flight as far from its landing as before, and the furrow starts, its S1 to S7
preloaded at its first vc (R293); scratchpad, ACM, B and V registers stay. That what is pending keeps its distance to VCLOCK, which restarts, is the model's
reading (log 76). -/
def Sys2Proof.Claims.OverlaySwaps : Prop :=
  ∀ (s : State) (n o : Nat) (c : Croft) (w : Owner) (v : Loaded) (u : Furrow), s.power = true → c = s.croft n → c.owner = some o →
    s.owners.find o = some w → c.nextFur = some u → w.overlays.find u.handle = some v → c.frame = none → Claims.TrailerDone c →
    (c.mode = v.ov.mode ∨ ((∀ e, c.queue e = []) ∧ c.lands = [] ∧ c.stq = none)) →
    ∃ d, exec (.overlaySwap n) s = .next (s.setCroft n d) ∧ (c.memWf = true → Claims.Written c.imem d.imem 0 v.code) ∧ d.overlay = v.ov ∧ d.handler = 0
      ∧ d.vclock = 0 ∧ d.nextVc = 0 ∧ d.atVc = 0 ∧ d.furrow = some u ∧ d.nextFur = none ∧ d.lastLaunch = u.launch ∧ d.mode = v.ov.mode
      ∧ d.lands.map (·.due) = c.lands.map (fun p => p.due - (match c.mode with | .fixed => c.atVc | .score => c.nextVc))
      ∧ d.split = { pc := v.ov.entry } ∧ d.phases = v.ov.phases
      ∧ (u.point.length = 6 → (∀ k, k < 6 → vget d.preloaded.s 0 (k + 1) = BitVec.ofNat 64 (u.point.getD k 0))
          ∧ vget d.preloaded.s 0 7 = BitVec.ofNat 64 u.arg)
      ∧ (v.ov.mode = .score → d.preloaded = d) ∧ (v.ov.mode = .fixed → d.s = c.s)
      ∧ d.sp = c.sp ∧ d.acm = c.acm ∧ d.b = c.b ∧ d.v = c.v ∧ d.qstat = c.qstat ∧ d.records = c.records ∧ d.abs = c.abs

/-- FurrowDispatch and OverlaySwaps together. -/
def Obligations.FurrowsAndSwaps : Prop := Claims.FurrowDispatch ∧ Claims.OverlaySwaps

/-- SPLIT_WORD (R35, R55 to R59, R258): an extension word is kept for the word after it, an instruction word enters its engine's queue with its place
in the stream, the splitter stops behind a word that transfers control, follows a JMP inside the overlay, and past the overlay's end it leaves BOUNDS.
That a phase marker takes no place of a queue's depth is the model's reading (log 8). That running past the end, as a word that breaks R55 or R56, leaves its fault as an entry of C's queue, which must
have room, is the model's choice (log 108). -/
def Sys2Proof.Claims.SplitterSteps : Prop :=
  ∀ (s : State) (n pc : Nat) (w : Word32) (c : Croft), s.power = true → c = s.croft n → c.furrow ≠ none → c.split.stopped = false → pc = c.split.pc →
    w = BitVec.ofNat 32 (c.imem.le (4 * pc) 4) →
    (∀ x, pc + 1 < c.overlay.len → w.toNat / 2 ^ 29 = 7 → c.split.ext.push (w.extractLsb' 0 29) = some x →
      exec (.splitWord n) s = .next (s.setCroft n { c with split := { pc := pc + 1, ext := x } }))
    ∧ (∀ e i, pc < c.overlay.len → Eng.ofCode (w.toNat / 2 ^ 29) = some e → w.toNat / 2 ^ 29 ≠ 7 → decodeWord w c.split.ext = .ok i →
        ((c.queue e).filter QEntry.counts).length < e.depth → (∀ t o x, i ≠ .phase t o x) →
        let d := { c with queues := vset c.queues (e.code - 1) (c.queue e ++ [(⟨c.seq, pc, .ins i []⟩ : QEntry)]), seq := c.seq + 1 }
        (stopsSplit w = false → isJump w = false →
          exec (.splitWord n) s = .next (s.setCroft n { d with split := { pc := pc + 1 } }))
        ∧ (stopsSplit w = true → exec (.splitWord n) s = .next (s.setCroft n { d with split := { pc := pc + 1, stopped := true, seq := c.seq } }))
        ∧ (∀ t o x, i = .jmp t o x → stopsSplit w = false → isJump w = true → 0 ≤ Claims.target pc o x → Claims.target pc o x < c.overlay.len →
          exec (.splitWord n) s = .next (s.setCroft n { d with split := { pc := (Claims.target pc o x).toNat } })))
    ∧ (c.overlay.len ≤ pc → ((c.queue .C).filter QEntry.counts).length < 16 →
      exec (.splitWord n) s = .next (s.setCroft n { c with
        queues := vset c.queues 0 (c.queue .C ++ [(⟨c.seq, c.overlay.len, .bad .bounds c.overlay.len⟩ : QEntry)])
        seq := c.seq + 1, split := { pc := c.overlay.len, stopped := true, seq := c.seq } }))

/-- PHASE_MARKER_EFFECT (R48, R49, R334): a latched marker at the head of its engine's queue opens its phase once every access of the old phase has
performed, where no other engine's open phase shares a byte that either writes; where one does, the marker raises HEDGE at the vc at which it would have taken
effect, the one the clock has reached between packets. That this HEDGE has LAND set is the model's reading (log 73). -/
def Sys2Proof.Claims.MarkersOpenPhases : Prop :=
  ∀ (s : State) (n : Nat) (e : Eng) (c : Croft) (q : QEntry) (p : Phase) (r : List QEntry), s.power = true → c = s.croft n → c.queue e = q :: r →
    q.item = .marker (some p) → Claims.PhaseDone c e →
    ((∀ f : Eng, f ≠ e → (f = .A ∨ f = .M ∨ f = .X ∨ f = .G) → Claims.Apart p (vget c.phases {} f.ix)) →
      exec (.phaseMarkerEffect n e) s = .next (s.setCroft n { c with queues := vset c.queues e.ix r, phases := vset c.phases e.ix p }))
    ∧ ((∃ f : Eng, f ≠ e ∧ (f = .A ∨ f = .M ∨ f = .X ∨ f = .G) ∧ ¬Claims.Apart p (vget c.phases {} f.ix)) → Claims.Running c → c.lands = [] →
      Claims.Handles c →
      let vc := match c.mode with | .fixed => max c.atVc (min (c.vclock + 1) c.nextVc) | .score => max c.vclock c.nextVc
      ∃ t a, exec (.phaseMarkerEffect n e) s = .next t
        ∧ Claims.Entered { c with vclock := vc } (t.croft n) { code := .hedge, addr := (joinAddr .sp a).toNat } e q.pc true false c.queues)

/-- SplitterSteps and MarkersOpenPhases together. -/
def Obligations.SplitterAndMarkers : Prop := Claims.SplitterSteps ∧ Claims.MarkersOpenPhases

/-! ### The Mill -/

/-- The Mill's events: NEST_LANDING, ROUND_BOUNDARY, RISING_PLAN_INSTALL, the cy of MILL_KSTEP that do not end
a K-step, and NEST_BREACH (R125, R141, R144, R147, R148, R271). At a round boundary, cy 128 · round, each croft's share is laid out in its core's round behind the
shares of the crofts with lower numbers, but for the slots in which an ECC freeze stands the Mill; a Mill works in its own slots as their cy come; a nest whose
contracted landing vc has come with steps left that the slots so far did not give is a breach, of which Sillu gets croft and owner; while an ECC freeze stands
that vc has not come. How slots count that come while the clock stands is the model's
reading (log 22). -/
def Obligations.MillEvents : Prop :=
  ∀ (s : State), s.power = true →
    (∀ n c x p rest, c = s.croft n → c.nest = some x → x.steps ≤ x.k → (x.closed = true ∨ x.breach = false ∧ x.replay = false) →
      c.lands = p :: rest → p.op = .nest → p.due ≤ c.landLimit →
      exec (.nestLanding n) s = .next (s.setCroft n (Croft.pushSig { c with
        lands := rest, nest := none, qstat := c.qstat ||| x.flags
        live := { x.live with lrec := if x.breach ∧ x.replay = false then x.live.lrec ||| 0x10 else x.live.lrec } } p.eng p.sig)))
    ∧ (s.crofts.Pairwise (fun p q => p.1 < q.1) →
        ∃ t, exec .roundBoundary s = .next t ∧ t.round = s.round + 1 ∧ t.hbm = s.hbm ∧ t.sent = s.sent ∧ t.owners = s.owners
        ∧ ∀ n c, Table.find s.crofts n = some c →
          let base := 128 * s.round + ((t.crofts.filter fun p => p.1 / 4 = n / 4 ∧ p.1 < n).map fun p => p.2.share).sum
          let laid (d : Croft) (share : Nat) : Prop :=
            d.slots = share - min share (c.stand - base) ∧ d.slot = base + min share (c.stand - base) ∧ d.used = 0
          (c.nest = none → c.plan = none → c.riseOn = false → laid (t.croft n) c.share
            ∧ t.croft n = { c with slots := (t.croft n).slots, slot := (t.croft n).slot, used := 0
                                   mons := { c.mons with mill := c.mons.mill.sample c.used } })
          ∧ (∀ x, c.nest = some x → x.steps ≤ x.k → c.plan = none → c.riseOn = false → laid (t.croft n) c.share
            ∧ t.croft n = { c with slots := (t.croft n).slots, slot := (t.croft n).slot, used := 0
                                   nest := some { x with rounds := x.rounds + 1, closed := true }
                                   mons := { c.mons with mill := c.mons.mill.sample c.used } })
          ∧ (∀ g sh, c.nest = none → c.plan = none → c.rise = some (g, sh) → c.riseOn = true → laid (t.croft n) sh
            ∧ (t.croft n).want = g ∧ (t.croft n).share = sh ∧ (t.croft n).released = true ∧ (t.croft n).rise = none)
          ∧ (∀ g sh, c.nest = none → c.plan = some (g, sh) → c.riseOn = false → laid (t.croft n) sh
            ∧ (t.croft n).share = sh ∧ (t.croft n).plan = none ∧ (c.planSt ≠ .changed → (t.croft n).grade = g ∧ (t.croft n).want = g))
          ∧ (∀ g sh x, c.nest = some x → x.graded = true → x.begun = true → x.walk = 0 → 0 < x.cost → x.k + 1 < x.steps → c.slots = 0 → c.governs = none →
              c.plan = some (g, sh) → c.planSt ≠ .changed → g < c.grade → c.riseOn = false →
            laid (t.croft n) c.share ∧ (t.croft n).share = c.share ∧ (t.croft n).grade = c.grade ∧ (t.croft n).want = g
              ∧ (t.croft n).planSt = .armed ∧ (t.croft n).plan = some (g, sh)))
    ∧ (∀ core, (∀ k, k < 4 → (s.croft (4 * core + k)).plan = none) → ∃ t, exec (.risingPlanInstall core) s = .next t
        ∧ (∀ k, k < 4 → t.croft (4 * core + k) =
            (if (s.croft (4 * core + k)).rise.isSome then { s.croft (4 * core + k) with riseOn := true } else s.croft (4 * core + k)))
        ∧ ∀ n, n / 4 ≠ core → t.croft n = s.croft n)
    ∧ (∀ n c x, c = s.croft n → c.nest = some x → x.rounds ≠ 0 → x.k < x.steps →
        let m := min c.slots (Claims.millTime c s.time - c.slot)
        (0 < x.walk → 0 < m → exec (.millKstep n) s = .next (s.setCroft n { c with
          slots := c.slots - min m x.walk, slot := c.slot + min m x.walk, used := c.used + min m x.walk, nest := some { x with walk := x.walk - min m x.walk } }))
        ∧ (x.walk = 0 → x.begun = true → 0 < m → m < x.cost → exec (.millKstep n) s = .next (s.setCroft n { c with
          slots := c.slots - m, slot := c.slot + m, used := c.used + m, nest := some { x with cost := x.cost - m } }))
        ∧ (m = 0 → (0 < x.walk ∨ x.begun = true ∧ 0 < x.cost) → exec (.millKstep n) s = .next (s.setCroft n c)))
    ∧ (∀ n c x p, c = s.croft n → c.nest = some x → x.replay = false → x.breach = false → x.k < x.steps → c.freeze.ecc = false → c.kstep (Claims.millTime c s.time) = none → p ∈ c.lands →
        p.op = .nest → p.due ≤ c.landLimit →
        ∃ t, exec (.nestBreach n) s = .next t ∧ t.croft n = { c with nest := some { x with breach := true } } ∧ (∀ m, m ≠ n → t.croft m = s.croft m)
          ∧ Claims.SendsOnly s t [.service 0x43 (n / 64) (c.owner.getD 0xFF) c.vclock]
          ∧ t.told = s.told ++ (if s.boot = .running then [⟨BitVec.ofNat 64 (0xFF * 2 ^ 32 + 0x43), 0, n, c.owner.getD 0xFF, 0, c.vclock⟩] else []))
    ∧ ∀ n, (s.croft n).freeze.ecc = true → exec (.nestBreach n) s = .next s

/-- In binary mode a K-step that a nest completes adds to each element of the live tile, modulo 2^32, the number of one bits of the XOR, or AND, of its
128-bit row of A and row of B, and sets no flag; nothing else of the module changes but the slots used and the nest's progress (R110, R127, R131). -/
def Obligations.BinaryKSteps : Prop :=
  ∀ (s : State) (n : Nat) (c : Croft) (x : Nest) (isAnd z : Bool), s.power = true → c = s.croft n → c.nest = some x → x.rounds ≠ 0 → x.k < x.steps →
    x.kind = .runb isAnd z → x.live.kind = .int32 → x.walk = 0 → x.begun = true → 0 < x.cost →
    x.cost ≤ min c.slots (Claims.millTime c s.time - c.slot) →
    ∃ d y, exec (.millKstep n) s = .next (s.setCroft n d) ∧ d = { c with slots := c.slots - x.cost, slot := c.slot + x.cost, used := c.used + x.cost, nest := some y }
      ∧ y.k = x.k + 1 ∧ y.begun = false ∧ y.flags = x.flags ∧ y.live.lrec = x.live.lrec
      ∧ ∀ i j, i < 64 → j < 64 →
        let a := c.sp.le ((stepAddr lvA x.table x.abase x.k).toNat + 16 * i) 16
        let b := c.sp.le ((stepAddr lvB x.table x.bbase x.k).toNat + 16 * j) 16
        y.live.vals.getD (64 * i + j) 0 = x.live.vals.getD (64 * i + j) 0
          + BitVec.ofNat 32 ((List.range 128).filter fun k => (if isAnd then a &&& b else a ^^^ b).testBit k).length

/-- A K-step of an MRUN or of an MLOWR that a croft's Mill completes, one at hand or one that starts in these slots (R107, R109, R111, R125, R128, R132, R137,
R145, R149, R325): an MRUN reads its A tile, plain or run-packed, and its B tile in their stored formats, narrowed to the grade of a graded step, and what that raises enters the record
and the nest's flags, of a skipped step too; then each element of the live tile has the exact sum of its 32 products added with one rounding, or each
window its products, saturated after the nest's last step. An MLOWR does it with rows of r BF16 values, the products that they lack being +0. -/
def Obligations.RunAndLowRankKSteps : Prop :=
  ∀ (s : State) (n : Nat) (c e : Croft) (x₀ x : Nest), s.power = true → c = s.croft n → c.nest = some x₀ → x₀.rounds ≠ 0 → x₀.k < x₀.steps → x₀.walk = 0 →
    (x₀.begun = true → e = c ∧ x = x₀) → (x₀.begun = false → (e, x) = c.beginStep x₀) →
    x.cost ≤ min c.slots (Claims.millTime c s.time - c.slot) →
    let graded := ∃ z, x.kind = .run false z
    let fmt (f : Nat) : OpFmt := match x.kind with | .run false _ => (opFmt f).atGrade x.grade (c.contract.getLsbD 12) | _ => opFmt f
    let sat := c.contract.getLsbD 13
    let tile := (stepAddr lvA x.table x.abase x.k).toNat
    let es := elems (packedVector (c.sp.header (x.chain.getD x.k 0)) (c.sp.pairs (x.chain.getD x.k 0) (hdrPairs (c.sp.header (x.chain.getD x.k 0))))).runs
    let rowA (i : Nat) : NarrowOut := readRow (opFmt x.fa) (fmt x.fa) sat
      (if x.packed then ((es.drop (32 * i)).take 32).foldr (fun y k => k * 2 ^ (opFmt x.fa).ewidth + y.toNat) 0
       else c.sp.le (tile + i * (opFmt x.fa).rowBytes) (opFmt x.fa).rowBytes)
    let rowB (j : Nat) : NarrowOut := readRow (opFmt x.fb) (fmt x.fb) sat
      (c.sp.le ((stepAddr lvB x.table x.bbase x.k).toNat + j * (opFmt x.fb).rowBytes) (opFmt x.fb).rowBytes)
    let nf : Flags := (List.range 64).foldl (fun f i => f ||| (rowA i).flags ||| (rowB i).flags) 0
    let nans := ∃ i ∈ List.range 64, (rowA i).nans = true ∨ (rowB i).nans = true
    let ovfi := ∃ i ∈ List.range 64, (rowA i).ovfi = true ∨ (rowB i).ovfi = true
    let narrowed : Word64 := BitVec.ofNat 64 ((if nf &&& fZBLK ≠ 0 then 1 else 0) + (if nf &&& fSATB ≠ 0 then 2 else 0) + (if ovfi then 4 else 0) + (if nans then 8 else 0))
    let low (r a i : Nat) : List FV := (List.range r).map fun k => bf16.value (c.sp.le (a + 2 * r * i + 2 * k) 2)
    let pad (r : Nat) (l : List FV) : List FV := l ++ List.replicate (32 - r) (FV.num false 0 0)
    let goes (f : Flags) (rec : Word64) (live : Live → Prop) : Prop :=
      ∃ y, exec (.millKstep n) s = .next (s.setCroft n { e with slots := e.slots - x.cost, slot := e.slot + x.cost, used := e.used + x.cost, nest := some y })
        ∧ y.k = x.k + 1 ∧ y.begun = false ∧ y.cost = 0 ∧ y.rounds = x.rounds ∧ y.flags = x.flags ||| f ∧ y.live.lrec = x.live.lrec ||| rec
        ∧ y.live.gi = (if graded then x.live.gi + 1 else x.live.gi) ∧ y.live.kind = x.live.kind ∧ y.live.tref = x.live.tref ∧ live y.live
    let added (a b : Nat → List FV) (p : Nat) : Nat × Flags := accStep (x.live.vals.getD p 0).toNat (exactDot (a (p / 64)) (b (p % 64)))
    let window (a b : Nat → List FV) (p : Nat) : Win := (List.zipWith FV.mul (a (p / 64)) (b (p % 64))).foldl (Win.add x.live.tref) (x.live.wins.getD p {})
    let sums (a b : Nat → List FV) (f : Flags) (rec : Word64) : Prop :=
      goes (f ||| (List.range 4096).foldl (fun g p => g ||| (added a b p).2) 0) rec fun l => l.wins = x.live.wins
        ∧ ∀ p, p < 4096 → l.vals.getD p 0 = BitVec.ofNat 32 (added a b p).1
    let windows (a b : Nat → List FV) (f : Flags) (rec : Word64) : Prop :=
      goes (f ||| (if x.k + 1 = x.steps ∧ ∃ p ∈ List.range 4096, 2 ^ 95 - 1 < (window a b p).w ∨ (window a b p).w < -(2 ^ 95 - 1) then fWOVF else 0)) rec
        fun l => l.vals = x.live.vals ∧ ∀ p, p < 4096 → (l.wins.getD p {}).st = (window a b p).st
          ∧ (l.wins.getD p {}).w = (if x.k + 1 = x.steps then max (-(2 ^ 95 - 1)) (min (2 ^ 95 - 1) (window a b p).w) else (window a b p).w)
    (∀ w z, x.kind = .run w z → (x.packed = true → es.length = 2048) →
      (0 < x.cost → w = false → x.live.kind = .fp32 → sums (fun i => (rowA i).vals) (fun j => (rowB j).vals) nf narrowed)
      ∧ (0 < x.cost → w = true → x.live.kind = .window → windows (fun i => (rowA i).vals) (fun j => (rowB j).vals) nf narrowed)
      ∧ (x.cost = 0 → (w = false ∧ x.live.kind = .fp32) ∨ (w = true ∧ x.live.kind = .window ∧ x.k + 1 ≠ x.steps) → goes nf narrowed fun l => l.vals = x.live.vals ∧ l.wins = x.live.wins))
    ∧ ∀ r, x.kind = .lowr r → 0 < x.cost →
      (x.live.kind = .fp32 → sums (fun i => pad r (low r x.abase i)) (fun j => pad r (low r x.bbase j)) 0 0)
      ∧ (x.live.kind = .window → windows (low r x.abase) (low r x.bbase) 0 0)

/-! ### Commands as they perform -/

/-- COPY_QUEUE_START and BLOCK_DECODE (R179 to R183, R191, R239): the copy path moves the next 64 bytes of its front COPY, plainly or with ADDW, and decodes
the next block of its front COPYD and stores the whole units of 64 decoded bytes, after the last block all, plainly or with ADDW, each FP32 element of an ADDW
added to the destination's and rounded once. How much one event performs is the model's choice (log 82). -/
def Sys2Proof.Claims.CopyUnits : Prop :=
  ∀ (s s1 : State) (n : Nat) (c : Croft) (k : CopyCmd) (rest : List CopyCmd), s.power = true → c = s.croft n → c.copyq = k :: rest → k.halt = .no →
    k.fin = false → c.freeze.held = none → Claims.AllUp c → (k.done ≠ 0 ∨ k.out ≠ 0 ∨ Claims.CommandReady c k.seq k.ord.cls) →
    (∀ src srcSp dst space units bytes, k.kind = .copy src srcSp dst space false units → space ≠ .owner →
        (srcSp = true → s1 = s ∧ bytes = c.sp.readN (src + 64 * k.done) 64) →
        (srcSp = false → s.cmdRead n (src + 64 * k.done) 64 = .ok (bytes, s1)) → bytes.length = 64 →
      ∃ d, exec (.copyQueueStart n) s = .next (s1.setCroft n d)
        ∧ d.copyq = { k with done := k.done + 1, fin := decide (k.done + 1 = units) } :: rest
        ∧ (Claims.LandingForm c → space = .sp →
            Claims.Written c.sp d.sp (dst + 64 * k.done) bytes ∧ Claims.FlagsCleared c d (dst + 64 * k.done) 64 ∧ d.acm = c.acm)
        ∧ (c.memWf = true → space = .acm → Claims.Written c.acm d.acm (dst + 64 * k.done) bytes ∧ d.sp = c.sp ∧ d.zclear = c.zclear)
        ∧ d.s = c.s ∧ d.b = c.b ∧ d.v = c.v ∧ d.qstat = c.qstat ∧ d.records = c.records ∧ d.abs = c.abs)
    ∧ (∀ src srcSp dst space units bytes, k.kind = .copy src srcSp dst space true units → space ≠ .owner →
        (srcSp = true → s1 = s ∧ bytes = c.sp.readN (src + 64 * k.done) 64) →
        (srcSp = false → s.cmdRead n (src + 64 * k.done) 64 = .ok (bytes, s1)) → bytes.length = 64 →
      let old (j : Nat) : Nat := (if space = .acm then c.acm else c.sp).le (dst + 64 * k.done + 4 * j) 4
      let sum (j : Nat) : Nat × Flags := accStep (old j) (fp32.value (leNat ((bytes.drop (4 * j)).take 4)))
      let out := (List.range 16).flatMap fun j => leBytes 4 (sum j).1
      ∃ d, exec (.copyQueueStart n) s = .next (s1.setCroft n d)
        ∧ d.copyq = { k with done := k.done + 1, fin := decide (k.done + 1 = units)
                             flags := k.flags ||| (List.range 16).foldl (fun f j => f ||| (sum j).2) 0 } :: rest
        ∧ (c.memWf = true → space = .sp → Claims.Written c.sp d.sp (dst + 64 * k.done) out ∧ d.acm = c.acm)
        ∧ (c.memWf = true → space = .acm → Claims.Written c.acm d.acm (dst + 64 * k.done) out ∧ d.sp = c.sp)
        ∧ d.s = c.s ∧ d.b = c.b ∧ d.v = c.v ∧ d.qstat = c.qstat ∧ d.records = c.records ∧ d.abs = c.abs)
    ∧ (∀ src srcSp dst units bytes s2, k.kind = .copy src srcSp dst .owner false units →
        (srcSp = true → s1 = s ∧ bytes = c.sp.readN (src + 64 * k.done) 64) →
        (srcSp = false → s.cmdRead n (src + 64 * k.done) 64 = .ok (bytes, s1)) → s1.cmdWrite n (dst + 64 * k.done) bytes false = .ok s2 →
      exec (.copyQueueStart n) s = .next (s2.setCroft n { s2.croft n with
        copyq := { k with done := k.done + 1, fin := decide (k.done + 1 = units) } :: (s2.croft n).copyq.tail }))
    ∧ (∀ src dst space addw blocks head body h out s2, k.kind = .copyd src dst space addw blocks → space ≠ .owner →
        s.cmdRead n k.next 24 = .ok (head, s1) → blockOf head = some h → s1.cmdRead n (k.next + 24) (h.size - 24) = .ok (body, s2) →
        blockBody h body = some out →
      let bytes := k.tail ++ out.drop (k.out - k.pos)
      let whole := if k.done + 1 = blocks then bytes.length else bytes.length - (k.out + bytes.length) % 64
      let old (j : Nat) : Nat := (if space = .acm then c.acm else c.sp).le (dst + k.out + 4 * j) 4
      let sum (j : Nat) : Nat × Flags := accStep (old j) (fp32.value (leNat ((bytes.drop (4 * j)).take 4)))
      let stored := if addw then (List.range (whole / 4)).flatMap fun j => leBytes 4 (sum j).1 else bytes.take whole
      (addw = true → out.length % 4 = 0 ∧ bytes.length % 4 = 0 ∧ k.out % 4 = 0) →
      ∃ d ms, exec (.blockDecode n) s = .next (s2.setCroft n d)
        ∧ d.copyq = { k with done := k.done + 1, out := k.out + whole, next := k.next + h.size, pos := k.pos + out.length, tail := bytes.drop whole
                             marks := ms, fin := decide (k.done + 1 = blocks)
                             flags := if addw then k.flags ||| (List.range (whole / 4)).foldl (fun f j => f ||| (sum j).2) 0 else k.flags } :: rest
        ∧ (c.memWf = true → space = .sp → Claims.Written c.sp d.sp (dst + k.out) stored ∧ d.acm = c.acm)
        ∧ (c.memWf = true → space = .acm → Claims.Written c.acm d.acm (dst + k.out) stored ∧ d.sp = c.sp)
        ∧ (h.raw = true → out = body.take h.paylen)
        ∧ d.s = c.s ∧ d.b = c.b ∧ d.v = c.v ∧ d.qstat = c.qstat)

/-- COPY_QUEUE_START at the front GLSEND (R111, R175, R176): the Gleaners take the next row of the snapshot. Of a hot row each of 64 entries is a finite 0; of
a cold row entry m holds the window of the products of activation row m with the row's chunks, zero activations adding nothing, saturated, and a saturation
enters the command's flags. Every entry carries the snapshot's GEN and REF, and no other byte changes. That a zero activation adds nothing against an
infinity or a NaN too is the model's reading (log 111), and so is how much one event performs (log 82). -/
def Sys2Proof.Claims.GleanerRows : Prop :=
  ∀ (s : State) (n : Nat) (c : Croft) (k : CopyCmd) (rest : List CopyCmd), s.power = true → c = s.croft n → c.copyq = k :: rest → k.halt = .no →
    k.fin = false → c.freeze.held = none → Claims.AllUp c → (k.done ≠ 0 ∨ k.out ≠ 0 ∨ Claims.CommandReady c k.seq k.ord.cls) →
    ∀ gen ref wbase wstr ks wfmt gbase plc acts, k.kind = .glsend gen ref wbase wstr ks wfmt gbase plc acts → k.done < plc.length → plc.length ≤ 64 →
      gbase + 65536 ≤ 2 ^ 21 →
      let ref' : Int := (ref : Int) - 256
      let o := opFmt wfmt
      let entry (m : Nat) : Nat := gbase + (64 * m + k.done) * 16
      let row (s1 : State) (f : Flags) (w : Nat → Win) : Prop :=
        ∃ d, exec (.copyQueueStart n) s = .next (s1.setCroft n d)
          ∧ d.copyq = { k with done := k.done + 1, fin := decide (k.done + 1 = plc.length), flags := k.flags ||| f } :: rest
          ∧ (c.memWf = true →
              (∀ m, m < 64 → d.sp.le (entry m) 16 = gen % 2 ^ 16 * 2 ^ 107 + (ref' % 2 ^ 9).toNat * 2 ^ 98 + (w m).st * 2 ^ 96 + ((w m).w % 2 ^ 96).toNat)
              ∧ ∀ y, (∀ m, m < 64 → y < entry m ∨ entry m + 16 ≤ y) → d.sp.read y = c.sp.read y)
          ∧ d.acm = c.acm ∧ d.s = c.s ∧ d.b = c.b ∧ d.v = c.v ∧ d.qstat = c.qstat ∧ d.abs = c.abs
      (plc.getD k.done 0xFF ≠ 0xFF → row s 0 fun _ => ⟨0, 0⟩)
      ∧ (∀ chunks s1, plc.getD k.done 0xFF = 0xFF → acts.length = ks → (∀ v ∈ acts, v.len = 2048) →
          Claims.RowsRead n o.rowBytes ((List.range ks).map fun j => (Space.owner, wbase + k.done * wstr + j * o.rowBytes)) s chunks s1 →
          (s1.croft n).sp = c.sp → (s1.croft n).acm = c.acm → (s1.croft n).copyq = c.copyq →
        let x (m i : Nat) : FV := let v := acts.getD (i / 32) {}; tagValue v.tag (Claims.nth v (32 * m + i % 32))
        let weight (i : Nat) : FV := (readRow o o false (leNat (chunks.getD (i / 32) []))).vals.getD (i % 32) .nan
        let win (m : Nat) : Win := Claims.windowOf ref' (((List.range (32 * ks)).filter fun i => !(x m i).isZero).map fun i => (x m i).mul (weight i))
        row s1 (if ∃ m ∈ List.range 64, 2 ^ 95 - 1 < (win m).w.natAbs then fWOVF else 0)
          fun m => { win m with w := max (-(2 ^ 95 - 1)) (min (2 ^ 95 - 1) (win m).w) })

/-- COPY_QUEUE_START at a COLL, and COLL_GENERATION_FORM (R199, R239, R286, R288): a COLL registers, and a complete generation of COLLs, those of peer packages
among them (log 81), runs: the values and residuals of every chunk are those of R199's ring in the order of the positions, and nothing outside the buffers and
the residual regions of its members here changes. How much one event performs is the model's choice (log 82). -/
def Sys2Proof.Claims.CollectiveRuns : Prop :=
  (∀ (s : State) (n : Nat) (c : Croft) (k : CopyCmd) (rest : List CopyCmd), s.power = true → c = s.croft n → c.copyq = k :: rest → k.halt = .no →
    k.fin = false → c.freeze.held = none → Claims.AllUp c → (k.done ≠ 0 ∨ k.out ≠ 0 ∨ Claims.CommandReady c k.seq k.ord.cls) →
    (∀ base op nf rid cnum parts region m o, k.kind = .coll base op nf rid cnum parts region m → c.owner = some o → k.next = 0 → s.coll = [] →
      exec (.copyQueueStart n) s = .next { s.setCroft n { c with copyq := { k with next := 1 } :: rest } with coll := [(o, cnum, [(n, k.seq)])] }))
  ∧ ∀ (s : State) (o cnum : Nat) (ms : List Member) (m0 : Member), s.power = true → s.coll = [(o, cnum, ms.map fun m => (m.croft, m.cmd.seq))] → m0 ∈ ms →
        (∀ p ∈ s.peers, p.2.owner = o → p.2.cnum = cnum → (2 ^ 20 + p.1, 0) ∈ ms.map fun m => (m.croft, m.cmd.seq)) →
        (∀ m ∈ ms, s.member (m.croft, m.cmd.seq) = some m ∧ m.away = false ∧ m.op = m0.op ∧ m.nf = m0.nf ∧ m.n = m0.n ∧ m.parts = m0.parts
          ∧ (m.remote = none → Claims.AllUp (s.croft m.croft))) →
        ms.length = m0.parts → ms.Pairwise (fun p q => p.index * 2 ^ 20 + p.place < q.index * 2 ^ 20 + q.place) →
      ∃ t, exec (.collGenerationForm o cnum) s = .next t ∧ t.coll = [] ∧ t.hbm = s.hbm ∧ Claims.Collected s t ms
        ∧ (∀ x, (∀ m ∈ ms, m.croft ≠ x) → t.croft x = s.croft x)
        ∧ (∀ m ∈ ms, m.remote ≠ none → t.peers.find (m.croft - 2 ^ 20) = none)
        ∧ ∀ m ∈ ms, m.remote = none → (∃ fl, (t.croft m.croft).copyq.head? = some { m.cmd with fin := true, flags := fl })
          ∧ (m.rid ≠ 0 → m.rid < 16 → vget (t.croft m.croft).collValid false m.rid = true)
          ∧ ((s.croft m.croft).memWf = true → ∀ y, (y < m.base ∨ m.base + 4 * m.n ≤ y) → (m.rid = 0 ∨ y < m.region ∨ m.region + 4 * m.n ≤ y) →
              (t.croft m.croft).sp.read y = (s.croft m.croft).sp.read y)

/-- CopyUnits and GleanerRows and CollectiveRuns together. -/
def Obligations.CopyPathPerforms : Prop := Claims.CopyUnits ∧ Claims.GleanerRows ∧ Claims.CollectiveRuns

/-- INDEX_QUEUE_START and GEN_QUEUE_START (R165, R166, R242, R247, R250, R256, R298, R304, R368): the index unit gathers or scatters the next row, an index
outside the table giving a row of zeros or none, adds the rows of the next distinct index or of the next bag with one rounding for each element, in scratchpad and
in owner memory, and after the last forms its reply, of a bag command the non-empty bags and the indices of its bags outside the table (log 12); a generation command that passes its checks starts, a GMASK writes a mask that came before, and a GCOMP writes its next unit. How much one
event performs is the model's choice (log 82), and so is the token drawn from an empty list, a free value (log 14). That the integers of a bag
saturate, where XSCADD adds modulo 2^n, is the model's reading (log 49). -/
def Obligations.UnitsPerform : Prop :=
  ∀ (s : State) (n : Nat) (c : Croft), s.power = true → c = s.croft n → c.freeze.held = none → Claims.AllUp c →
    (∀ k rest, c.indexq = k :: rest → k.halt = .no → k.reply = none →
      let d := k.desc
      let len := 4 * Claims.descField d 0x14 2
      let et := Claims.descField d 0x16 1
      let wd := tagWidth et / 8
      let nrows := Claims.descField d 0x10 4
      let count := Claims.descField d 0x24 4
      let ix (j : Nat) : Nat := c.sp.le (Claims.descField d 0x20 4 + 4 * j) 4
      let off (b : Nat) : Nat := c.sp.le (Claims.descField d 0x28 4 + 4 * b) 4
      let row (w : Word64) (j stride : Nat) : Nat := w.toNat - 2 ^ 56 + j * stride
      let tb : Word64 := BitVec.ofNat 64 (Claims.descField d 0 8)
      let db : Word64 := BitVec.ofNat 64 (Claims.descField d 8 8)
      let trow (r j : Nat) : Nat := c.sp.le (row tb r len + wd * j) wd
      let drow (i j : Nat) : Nat := c.sp.le (row db i (Claims.descField d 0x1C 4) + wd * j) wd
      ((∃ a b, splitAddr tb = some (.sp, a) ∧ splitAddr db = some (.sp, b)) →
      (k.op = 0 → k.done < count → ∃ e, exec (.indexQueueStart n) s = .next (s.setCroft n e) ∧ e.indexq = { k with done := k.done + 1 } :: rest
        ∧ (c.memWf = true → Claims.Written c.sp e.sp (row db k.done (Claims.descField d 0x1C 4))
            (if ix k.done < nrows then c.sp.readN (row tb (ix k.done) len) len else List.replicate len 0))
        ∧ e.acm = c.acm ∧ e.qstat = c.qstat ∧ e.s = c.s ∧ e.b = c.b ∧ e.v = c.v)
      ∧ (k.op = 1 → k.done < count → ix k.done < nrows →
        ∃ e, exec (.indexQueueStart n) s = .next (s.setCroft n e) ∧ e.indexq = { k with done := k.done + 1 } :: rest
        ∧ (c.memWf = true → Claims.Written c.sp e.sp (row tb (ix k.done) len) (c.sp.readN (row db k.done (Claims.descField d 0x1C 4)) len))
        ∧ e.acm = c.acm ∧ e.qstat = c.qstat ∧ e.s = c.s ∧ e.b = c.b ∧ e.v = c.v)
      ∧ (k.op = 1 → k.done < count → nrows ≤ ix k.done →
        exec (.indexQueueStart n) s = .next (s.setCroft n { c with indexq := { k with done := k.done + 1 } :: rest }))
      ∧ (∀ r, k.op = 2 → (distinctRows nrows ((List.range count).map ix))[k.done]? = some r →
        let out := Claims.sumBytes et true len (trow r :: ((List.range count).filter fun i => ix i = r).map drow)
        ∃ e, exec (.indexQueueStart n) s = .next (s.setCroft n e) ∧ e.indexq = { k with done := k.done + 1, flags := k.flags ||| out.2 } :: rest
          ∧ (c.memWf = true → Claims.Written c.sp e.sp (row tb r len) out.1)
          ∧ e.acm = c.acm ∧ e.qstat = c.qstat ∧ e.s = c.s ∧ e.b = c.b ∧ e.v = c.v)
      ∧ (k.op = 3 → k.done < Claims.descField d 0x2C 4 →
        let bag := (List.range count).filter fun i => off k.done ≤ i ∧ i < off (k.done + 1) ∧ ix i < nrows
        let out := Claims.sumBytes et false len (bag.map fun i => trow (ix i))
        ∃ e, exec (.indexQueueStart n) s = .next (s.setCroft n e) ∧ e.indexq = { k with done := k.done + 1, flags := k.flags ||| out.2 } :: rest
          ∧ (c.memWf = true → Claims.Written c.sp e.sp (row db k.done (Claims.descField d 0x1C 4)) out.1)
          ∧ e.acm = c.acm ∧ e.qstat = c.qstat ∧ e.s = c.s ∧ e.b = c.b ∧ e.v = c.v))
      ∧ (let bad := ((List.range count).filter fun j => nrows ≤ ix j).length
         let rows := distinctRows nrows ((List.range count).map ix)
         let nbag := Claims.descField d 0x2C 4
         let inBag (b i : Nat) : Prop := off b ≤ i ∧ i < off (b + 1)
         let replies (out done : Nat) : Prop :=
           exec (.indexQueueStart n) s = .next (s.setCroft n { c with indexq := { k with reply := some (BitVec.ofNat 64 (out * 2 ^ 32 + done)) } :: rest })
         (k.op = 0 → count ≤ k.done → replies bad (count - bad))
         ∧ (k.op = 1 ∧ count ≤ k.done ∨ k.op = 2 ∧ rows.length ≤ k.done → replies bad rows.length)
         ∧ (k.op = 3 → nbag ≤ k.done → (∀ b, b < nbag → off b ≤ off (b + 1)) → off nbag ≤ count →
            replies ((List.range count).filter fun i => nrows ≤ ix i ∧ ∃ b ∈ List.range nbag, inBag b i).length
              ((List.range nbag).filter fun b => off b < off (b + 1)).length))
      ∧ (∀ ts ta ds da u, splitAddr tb = some (ts, ta) → splitAddr db = some (ds, da) → u = k.done →
        let table (r : Nat) : Space × Nat := (ts, ta + r * len)
        let data (i : Nat) : Space × Nat := (ds, da + i * Claims.descField d 0x1C 4)
        let goes (reads : List (Space × Nat)) (dest : Space × Nat) (rmw : Bool) (out : List (List Byte) → List Byte × Flags) : Prop :=
          ∀ bs s1, Claims.RowsRead n len reads s bs s1 →
            (∀ s2, dest.1 = .owner → s1.cmdWrite n dest.2 (out bs).1 rmw = .ok s2 → exec (.indexQueueStart n) s = .next (s2.setCroft n { s2.croft n with
              indexq := { k with done := u + 1, flags := k.flags ||| (out bs).2 } :: (s2.croft n).indexq.tail }))
            ∧ (dest.1 = .sp → ∃ e, exec (.indexQueueStart n) s = .next (s1.setCroft n e)
              ∧ e.indexq = { k with done := u + 1, flags := k.flags ||| (out bs).2 } :: (s1.croft n).indexq.tail
              ∧ ((s1.croft n).memWf = true → Claims.Written (s1.croft n).sp e.sp dest.2 (out bs).1)
              ∧ e.acm = (s1.croft n).acm ∧ e.qstat = (s1.croft n).qstat ∧ e.s = (s1.croft n).s ∧ e.b = (s1.croft n).b ∧ e.v = (s1.croft n).v)
        let copied (bs : List (List Byte)) : List Byte × Flags := (bs.headD (List.replicate len 0), 0)
        let added (wrap : Bool) (bs : List (List Byte)) : List Byte × Flags := Claims.sumBytes et wrap len (bs.map (Claims.rowElem wd))
        (k.op = 0 → u < count → goes (if ix u < nrows then [table (ix u)] else []) (data u) false copied)
        ∧ (k.op = 1 → u < count → ix u < nrows → goes [data u] (table (ix u)) true copied)
        ∧ (∀ r, k.op = 2 → (distinctRows nrows ((List.range count).map ix))[u]? = some r →
          goes (table r :: ((List.range count).filter fun i => ix i = r).map data) (table r) true (added true))
        ∧ (k.op = 3 → u < Claims.descField d 0x2C 4 →
          goes (((List.range count).filter fun i => off u ≤ i ∧ i < off (u + 1) ∧ ix i < nrows).map fun i => table (ix i)) (data u) false (added false))))
    ∧ (∀ k rest, c.genq = k :: rest → k.halt = .no → k.fin = none → c.genFault k = none →
      (k.op ≠ 3 → k.op ≠ 4 → k.op < 9 → exec (.genQueueStart n) s = .next (s.setCroft n { c with genq := { k with done := 1, fin := some [] } :: rest }))
      ∧ (k.op = 4 → k.mask = none → exec (.genQueueStart n) s = .next (s.setCroft n { c with genq := { k with done := 1 } :: rest }))
      ∧ (∀ m, k.op = 4 → k.mask = some m →
        let words : List Word64 := BitVec.ofNat 64 (m.length * 2 ^ 48 + (m.map (·.2)).sum)
          :: m.map fun r => BitVec.ofNat 64 ((if r.1 then 2 ^ 31 else 0) + (r.2 - 1))
        ∃ d, exec (.genQueueStart n) s = .next (s.setCroft n d) ∧ d.genq = { k with done := 1, fin := some [] } :: rest
          ∧ (c.memWf = true → Claims.Written c.sp d.sp (Claims.descField k.block 0 4) (words.flatMap fun w => leBytes 8 w.toNat))
          ∧ d.acm = c.acm ∧ d.rows = c.rows ∧ d.s = c.s)
      ∧ (∀ tok, k.op = 3 → (vget c.rows {} k.k).st ≠ .withheld → (vget c.rows {} k.k).draw c.rngseed (k.block.toNat % 2 ^ 32) = some tok →
          exec (.genQueueStart n) s = .next (s.setCroft n { c with genq := { k with done := 1, fin := some [BitVec.ofNat 64 tok] } :: rest }))
      ∧ (k.op = 3 → (vget c.rows {} k.k).st ≠ .withheld → (vget c.rows {} k.k).draw c.rngseed (k.block.toNat % 2 ^ 32) = none →
          ∃ tok : BitVec 18, exec (.genQueueStart n) s = .next (({ s with fresh := s.fresh + 1 } : State).setCroft n
            { c with genq := { k with done := 1, fin := some [tok.setWidth 64] } :: rest }))
      ∧ (k.op = 3 → (vget c.rows {} k.k).st = .withheld →
          exec (.genQueueStart n) s = .next (s.setCroft n { c with genq := { k with done := 1, fin := some [] } :: rest }))
      ∧ (∀ base s1 s2 bs, k.op = 9 →
          let esz := c.staging.esz
          let b (o m : Nat) : Nat := Claims.descField k.block o m
          let pos := b 8 4 + k.done / esz
          (k.done % esz = 0 → s.cmdRead n (b 0 8 + 8 * (pos / 2 ^ b 12 1)) 8 = .ok (bs, s1) ∧ base = leNat bs) →
          (k.done % esz ≠ 0 → s1 = s ∧ base = k.base) → base % 64 = 0 →
          let a := base + 64 * esz * (pos % 2 ^ b 12 1) + 64 * (k.done % esz)
          a + 64 ≤ 2 ^ 53 → s1.cmdWrite n a (c.sp.readN (c.staging.base + 64 * k.done) 64) false = .ok s2 →
        exec (.genQueueStart n) s = .next (s2.setCroft n { s2.croft n with
          genq := { k with base := base, done := k.done + 1, fin := if k.done + 1 = (c.staging.last + 1) * esz then some [] else none }
            :: (s2.croft n).genq.tail })))

/-- COMMAND_COMPLETION (R39, R166, R169, R242 to R256, R299, R335): a finished command leaves its queue, raises its flags, makes its arrival and, where it
names a barrier object that is not idle, an arrival there, pushes its replies into QR, and has its effect. A GSHORT thresholds its row: it is FAST where the
sheaf's weights reach THR of all, and a row that allows nothing becomes WITHHELD with a MASKLATE record; a GSLOW resolves it with its nucleus. An index reply
stands before those that generation commands push at the same vc (R41). How z's of equal value rank is the model's reading (log 14), and so are the flags of a
GSHORT (log 51). -/
def Sys2Proof.Claims.CommandsComplete : Prop :=
  ∀ (s : State) (n : Nat) (c : Croft), s.power = true → c = s.croft n →
    let barrier (ab : Option Nat) (t : Croft) : Prop := t.abs = (match ab with
      | none => c.abs
      | some a => if (vget c.abs {} a).ini = 0 then c.abs else if (vget c.abs {} a).pend = 0 then t.abs
                  else vset c.abs a (Claims.arrivals 1 (vget c.abs {} a)))
    -- the entries at QR's end that generation commands have pushed at this vc
    let late := if c.qrLate.1 = c.landLimit then min c.qrLate.2 c.qr.length else 0
    (∀ k rest, c.copyq = k :: rest → k.fin = true → k.halt = .no → ∃ t, exec (.commandCompletion n .copy) s = .next t ∧ t.hbm = s.hbm
      ∧ (t.croft n).copyq = rest ∧ Claims.Arrived c (t.croft n) k.arv ∧ (t.croft n).qstat = c.qstat ||| k.flags ∧ (t.croft n).sp = c.sp
      ∧ barrier k.ab (t.croft n))
    ∧ (∀ k rest v, c.indexq = k :: rest → k.reply = some v → k.halt = .no → c.placing = false → c.qr.length + c.pendR < 16 →
      ∃ t, exec (.commandCompletion n .index) s = .next t ∧ t.hbm = s.hbm
        ∧ (t.croft n).indexq = rest ∧ Claims.Arrived c (t.croft n) k.arv ∧ (t.croft n).sp = c.sp
        ∧ (t.croft n).qr = c.qr.take (c.qr.length - late) ++ v :: c.qr.drop (c.qr.length - late)
        ∧ (t.croft n).qstat = c.qstat ||| k.flags
        ∧ barrier (if Claims.descField k.desc 0x19 1 / 16 % 2 = 1 then some (Claims.descField k.desc 0x19 1 % 16) else none) (t.croft n))
    ∧ (∀ k rest f, c.genq = k :: rest → k.fin = some f → k.halt = .no → c.placing = false → c.qr.length + c.pendR ≤ 14 → k.k < 16 →
      let slot := vget c.rows {} k.k
      let b := k.block.toNat
      let fld (o m : Nat) : Nat := Claims.descField k.block o m
      let now : RowSlot := if slot.step = fld 0x1C 4 then slot else { step := fld 0x1C 4 }
      ∃ t, exec (.commandCompletion n .gen) s = .next t ∧ t.hbm = s.hbm
        ∧ (t.croft n).genq = rest ∧ Claims.Arrived c (t.croft n) k.arv
        ∧ (t.croft n).qrLate = (c.landLimit, late + ((t.croft n).qr.length - c.qr.length))
        ∧ (k.op = 0 → (t.croft n).rngseed = BitVec.ofNat 64 (b % 2 ^ 64) ∧ (t.croft n).qr = c.qr ∧ (t.croft n).rows = c.rows)
        ∧ (k.op = 1 → now.st = .withheld →
            (t.croft n).qr = c.qr ++ [BitVec.ofNat 64 (4 * 2 ^ 56 + 2 ^ 33)] ∧ (t.croft n).rows = vset c.rows k.k now ∧ (t.croft n).sp = c.sp)
        ∧ (k.op = 1 → now.st ≠ .withheld →
            let l := Claims.candidates c now.mask (fld 0 4) (fld 4 4) (fld 8 4)
            (l = [] → (t.croft n).qr = c.qr ++ [BitVec.ofNat 64 (4 * 2 ^ 56 + 2 ^ 33)] ∧ (t.croft n).sp = c.sp
              ∧ (t.croft n).rows = vset c.rows k.k { now with st := .withheld, tokv := false }
              ∧ ∀ o, c.owner = some o → Claims.SendsFirst s t [.service 0x42 (n / 64) o c.vclock,
                  .record o ⟨BitVec.ofNat 64 (k.k % 2 ^ 32 * 2 ^ 32 + 0x42), 0, n, o, 0, c.vclock⟩])
            ∧ ∀ best, Claims.Greatest l best →
              let sum := (rnd fp32 0 false (Claims.weights best.z l)).1
              ∃ sheaf, Claims.Sheaf (fld 4 4) l sheaf ∧
              let sm := (rnd fp32 0 false (Claims.weights best.z (sheaf.filterMap id))).1
              ∃ r : RowSlot, (t.croft n).rows = vset c.rows k.k r ∧ r.step = now.step ∧ r.mask = now.mask ∧ r.rowMask = now.mask ∧ r.tokv = false
                ∧ r.lbase = fld 0 4 ∧ r.v = fld 4 4 ∧ r.ks = fld 8 4 ∧ r.thr = fld 0x0C 4 ∧ r.topp = fld 0x10 4 ∧ r.shb = fld 0x14 4
                ∧ r.row = fld 0x18 4 ∧ r.z = best.z ∧ r.s = sum ∧ r.sm = sm ∧ r.sheaf = sheaf
                ∧ (r.st = .fast ↔ ¬r.st = .slow)
                ∧ ((fp32.value r.thr).isNan = false → ((fp32.value r.thr).mul (fp32.value sum)).isNan = false →
                    (r.st = .fast ↔ FV.lt false (fp32.value sm) ((fp32.value r.thr).mul (fp32.value sum)) = false))
                ∧ (c.memWf = true → Claims.Written c.sp (t.croft n).sp r.shb (sheaf.flatMap fun y => leBytes 8 (match y with
                    | none => 2 ^ 63 + 0xFF800000 | some x => x.idx * 2 ^ 32 + x.z)))
                ∧ (t.croft n).qr = c.qr ++ [BitVec.ofNat 64 (4 * 2 ^ 56 + (if r.st = .slow then 2 ^ 32 else 0) + sm)]
                ∧ (t.croft n).qstat = c.qstat ||| c.shortFlags r k.block l)
        ∧ (k.op = 2 →
            let l := Claims.candidates c slot.rowMask slot.lbase slot.v slot.ks
            ∀ best, Claims.Greatest l best →
              ∃ keep, Claims.Nucleus best.z slot.topp (Claims.weights best.z l) l keep ∧
              let cands := keep.take (fld 4 2)
              (t.croft n).rows = vset c.rows k.k { slot with st := .resolved, z := best.z, cands := cands }
              ∧ (c.memWf = true → Claims.Written c.sp (t.croft n).sp (fld 0 4) (cands.flatMap fun x => leBytes 8 (x.idx * 2 ^ 32 + x.z)))
              ∧ (t.croft n).qr = c.qr ++ [BitVec.ofNat 64 (5 * 2 ^ 56 + (if fld 4 2 < keep.length then 2 ^ 32 else 0) + cands.length)])
        ∧ (k.op = 3 → (∀ tok r, f = tok :: r → (t.croft n).rows = vset c.rows k.k { slot with tokv := true, token := tok.toNat }
              ∧ (t.croft n).qr = c.qr ++ [BitVec.ofNat 64 (6 * 2 ^ 56 + tok.toNat)])
            ∧ (f = [] → (t.croft n).rows = vset c.rows k.k { slot with tokv := false } ∧ (t.croft n).qr = c.qr ++ [BitVec.ofNat 64 (6 * 2 ^ 56 + 2 ^ 33)]))
        ∧ (k.op = 5 → (t.croft n).rows = vset c.rows k.k now)
        ∧ (∀ m, k.op = 4 → k.mask = some m →
            (t.croft n).rows = vset c.rows k.k { now with mask := some m, rowMask := if now.tokv then now.rowMask else some m })
        ∧ (k.op = 7 → k.x0 = 0 → k.k < 3 → ∃ g, g = vget c.stages {} k.k ∧ (t.croft n).stages = vset c.stages k.k g
            ∧ (t.croft n).qr = c.qr ++ [BitVec.ofNat 64 (7 * 2 ^ 56 + (k.k * 2 ^ 48 + g.dmax * 2 ^ 44 + g.dmin * 2 ^ 40 + g.depth * 2 ^ 36 + g.prop * 2 ^ 16 + g.acc))])
        ∧ (k.op = 8 → fld 12 1 = 1 →
            (c.memWf = true → Claims.Written c.sp (t.croft n).sp (fld 4 4) (c.sp.readN (fld 0 4) (64 * fld 10 1 * fld 11 1)))
            ∧ (t.croft n).staging.fill = fld 11 1 ∧ (t.croft n).staging.base = fld 4 4)
        ∧ (k.op = 9 → (t.croft n).staging.fill = 0 ∧ (t.croft n).staging.valid = false ∧ (t.croft n).sp = c.sp))

/-- The drafter's check (R253): with n drafted tokens, the accepted ones are the longest prefix whose tokens their slots hold and are not WITHHELD;
the reply says what the slot after them is, and the fragment index comes behind it. -/
def Sys2Proof.Claims.DraftsAccepted : Prop :=
  ∀ (s : State) (n : Nat) (c : Croft) (k : GenCmd) (rest : List GenCmd), s.power = true → c = s.croft n → c.genq = k :: rest → k.op = 6 → k.fin = some [] →
    k.halt = .no → c.placing = false → c.qr.length + c.pendR ≤ 14 → k.k ≤ 15 →
    let w := k.block.toNat % 2 ^ 32
    let slot (i : Nat) : RowSlot := vget c.rows {} (w % 16 + i)
    let good (i : Nat) : Prop := (slot i).st ≠ .withheld ∧ (slot i).token = Claims.descField k.block (4 * (i + 1)) 4
    ∀ a, a ≤ k.k → (∀ i, i < a → good i) → (a < k.k → ¬good a) →
    ∃ t, exec (.commandCompletion n .gen) s = .next t
      ∧ (t.croft n).staging = { c.staging with last := a, valid := true }
      ∧ (t.croft n).qr = c.qr ++
          [BitVec.ofNat 64 (3 * 2 ^ 56 + ((if (slot a).st = .withheld then 2 else if a = k.k then 0 else 1) * 2 ^ 36 + a * 2 ^ 32
              + (if (slot a).st = .withheld then 0 else (slot a).token))),
           BitVec.ofNat 64 ((if (slot a).st = .withheld then w / 2 ^ 18 else if a = k.k then w / 2 ^ 6 else w / 2 ^ 12) % 2 ^ 6)]
      ∧ ((t.croft n).stages = c.stages ∨ (slot a).st ≠ .withheld ∧ w / 2 ^ 4 % 4 ≠ 3)

/-- CommandsComplete and DraftsAccepted together. -/
def Obligations.CommandsAndDraftsComplete : Prop := Claims.CommandsComplete ∧ Claims.DraftsAccepted

/-! ### Sillu, the Granary, deadlines -/

/-- WALK_COMPLETE, OWNER_ACCESS_COMPLETE, HELD_WRITE_GRANT, HOLD_TIMEOUT and SILLU_FAULT_SERVICE (R187 to R191, R193, R195, R206, R221, R225, R232,
R241): a walk that finds a page fills the translation caches; a load, a store and an ATOM that may perform do, and leave the list with their signal
pushed; a held write performs once its sectors fit, or raises OUTOFSPACE for Sillu; Sillu maps a zero page of first-touch space, and lets the croft go
on where the page is mapped already. Where Sillu takes the page from, and that a write held again keeps its place, are the model's (logs 11, 47). -/
def Sys2Proof.Claims.MemoryServices : Prop :=
  ∀ (s : State) (n : Nat) (c : Croft), s.power = true → c = s.croft n →
    let without (d : Croft) (id : Nat) : List Access := d.accs.filter fun b => b.id ≠ id
    (∀ w ws o leaf r, c.walks = w :: ws → c.owner = some o → w.probe = false → r = s.lookup n o w.va → r.leaf = some leaf → 1 ≤ r.level → r.level ≤ 4 →
      ∃ t, exec (.walkComplete n 0) s = .next t ∧ (t.croft n).walks = ws ∧ t.hbm = s.hbm ∧ Claims.SameData c (t.croft n)
        ∧ tlbFind (t.croft n).tlb w.va = some ⟨w.va / 2 ^ (13 + 10 * (4 - r.level)), 4 - r.level, leaf⟩ ∧ (t.croft n).tlb.length ≤ 64)
    ∧ (∀ k a id q form bytes s1, c.accs[k]? = some a → a.kind = .ldq q id form → c.accessMay a = true → s.ownerRead n a.va a.len = .ok (bytes, s1) →
      let d : Croft := { c with
        accs := without c a.id
        qc := if q = 0 then Claims.filled id (BitVec.ofNat 64 (leNat bytes)) c.qc else c.qc
        qg := if q = 5 then Claims.filled id (BitVec.ofNat 512 (leNat bytes)) c.qg else c.qg
        qv := if q = 0 ∨ q = 5 then c.qv else vset c.qv (q - 1) (Claims.filled id (ldqVector form bytes) (vget c.qv [] (q - 1))) }
      exec (.ownerAccessComplete n k) s = .next (s1.setCroft n (d.pushSig .A a.sig).pruneFences))
    ∧ (∀ k a s1, c.accs[k]? = some a → a.kind = .stq → c.accessMay a = true → s.ownerWrite n a.va a.bytes false = .ok s1 →
      exec (.ownerAccessComplete n k) s = .next (s1.setCroft n
        (Croft.pushSig { s1.croft n with accs := without (s1.croft n) a.id } .A a.sig).pruneFences))
    ∧ (∀ k a size op cmp v reply bytes s1 s2 new, c.accs[k]? = some a → a.kind = .atom size op cmp v reply → c.accessMay a = true → op < 10 →
        s.ownerRead n a.va a.len = .ok (bytes, s1) → Claims.atomic (8 * size) op (leNat bytes) cmp.toNat v.toNat = some new →
        (op = 9 → leNat bytes = cmp.toNat % 2 ^ (8 * size)) → s1.ownerWrite n a.va (leBytes a.len new) true = .ok s2 →
      exec (.ownerAccessComplete n k) s = .next (s2.setCroft n (Croft.pushSig { s2.croft n with
        accs := without (s2.croft n) a.id
        qc := (match reply with | some id => Claims.filled id (BitVec.ofNat 64 (leNat bytes)) (s2.croft n).qc | none => (s2.croft n).qc) } .A a.sig).pruneFences))
    ∧ (∀ h, c.freeze.held = some h → s.mayGrant n h = true →
      ∃ t, exec (.heldWriteGrant n) s = .next t ∧ t = s.retryHeld n h ∧ (t.croft n).freeze.held = none)
    ∧ (∀ id sts got x since a s1, c.freeze.held = some ⟨.access id, sts, got, x, since⟩ → c.accs.find? (fun b => b.id == id) = some a → a.kind = .stq →
        State.ownerWrite { s.setCroft n { c with freeze := { c.freeze with held := none } } with holds := s.holds.takeWhile fun m => m != n }
          n a.va a.bytes false = .ok s1 →
      ∃ t, exec (.heldWriteGrant n) s = .next t ∧ t.hbm = s1.hbm ∧ (t.croft n).freeze.held = none ∧ (∀ b ∈ (t.croft n).accs, b.id ≠ id)
        ∧ t.holds = s1.holds ++ (s.holds.dropWhile fun m => m != n).drop 1)
    ∧ (∀ id st l got a since x, c.freeze.held = some ⟨.access id, st :: l, got, a, since⟩ → c.freeze.sys = none → c.accs.find? (fun y => y.id == id) = some x →
      ∃ t, exec (.holdTimeout n) s = .next t ∧ (t.croft n).freeze.held = none ∧ t.hbm = s.hbm ∧ Claims.SameData c (t.croft n) ∧ n ∉ t.holds
        ∧ (t.croft n).freeze.sys = some { code := .outofspace, addr := a, aux := st, eng := .A, pc := x.pc, seq := x.seq, write := true, access := some id })
    ∧ (∀ f o w va, c.freeze.sys = some f → f.code = .transnp → va = f.missing.getD f.addr → c.owner = some o → s.owners.find o = some w →
      -- page numbers left on every stack for a page at m addresses, a root and the tables above
      let pages (m : Nat) : Prop := ∀ st, (vget s.granaries {} st).nextPage + 2 + 3 * m ≤ 2 ^ 24
      let goesOn (d : Croft) : Prop := d.freeze.sys = none ∧ Claims.SameData c d ∧ (∀ e, d.queue e = c.queue e)
        ∧ d.accs = c.accs.map (fun a => { a with halt := if a.halt = .sillu then .no else a.halt })
        ∧ d.copyq = c.copyq.map (fun k => { k with halt := if k.halt = .sillu then .no else k.halt })
        ∧ d.indexq = c.indexq.map (fun k => { k with halt := if k.halt = .sillu then .no else k.halt })
        ∧ d.genq = c.genq.map (fun k => { k with halt := if k.halt = .sillu then .no else k.halt })
      let slot (level table : Nat) : Nat := 8192 * table + 8 * (va / 2 ^ (53 - 10 * level) % 1024)
      let entry (level table : Nat) : BitVec 64 := BitVec.ofNat 64 (s.hbm.le (slot level table) 8)
      ((s.walk [] o va).leaf.isSome = true →
        ∃ t, exec (.silluFaultService n) s = .next t ∧ goesOn (t.croft n) ∧ t.hbm = s.hbm ∧ t.owners = s.owners ∧ t.sent = s.sent)
      ∧ ((s.walk [] o va).leaf = none → (∀ p ∈ s.spilled, p.owner = o → ∀ x ∈ p.maps, x.1 ≠ va / 8192 * 8192) →
          w.ftbase ≤ va → va < w.ftbase + w.ftlen → w.mapped + 8192 ≤ w.space → pages 1 →
        ∃ t w', exec (.silluFaultService n) s = .next t ∧ goesOn (t.croft n) ∧ t.sent = s.sent ∧ t.owners.find o = some w' ∧ w'.mapped = w.mapped + 8192
          ∧ (∀ m l r0 r1 r2 r3, w.crofts = m :: l → m < 1024 → va < 2 ^ 53 →
              w.root = some r0 → r1 < 2 ^ 28 → r2 < 2 ^ 28 → r3 < 2 ^ 28 →
              entry 1 r0 = BitVec.ofNat 64 (2 ^ 63 + r1) → entry 2 r1 = BitVec.ofNat 64 (2 ^ 63 + r2) → entry 3 r2 = BitVec.ofNat 64 (2 ^ 63 + r3) →
              entry 4 r3 = 0 → slot 4 r3 ≠ slot 1 r0 → slot 4 r3 ≠ slot 2 r1 → slot 4 r3 ≠ slot 3 r2 → Memory.wf s.hbm = true →
            let leaf := 2 ^ 63 + 2 ^ 62 + 2 ^ 59 + 2 ^ 57 + (m / 64 * 2 ^ 24 + (vget s.granaries {} (m / 64)).nextPage)
            Claims.Written s.hbm t.hbm (slot 4 r3) (leBytes 8 leaf) ∧ (t.walk [] o va).leaf = some (BitVec.ofNat 64 leaf)))
      ∧ (∀ p, (s.walk [] o va).leaf = none → (s.spilled.find? fun x => x.owner == o && x.maps.any fun y => y.1 == va / 8192 * 8192) = some p →
          pages p.maps.length →
        ∃ t, exec (.silluFaultService n) s = .next t ∧ (t.croft n).freeze.sys = none ∧ Claims.SameData c (t.croft n) ∧ t.sent = s.sent
          ∧ t.spilled = s.spilled.filter fun x => x ≠ p))

/-- A system fault that Sillu cannot serve enters the handler as a program fault with the same code, at the packet that could not issue, which stands
again at the head of its queue (R232, R241): an ATOM or an STQ that popped operands keeps them (R221, R339; log 74). -/
def Sys2Proof.Claims.SystemFaultsDelivered : Prop :=
  ∀ (s : State) (n o : Nat) (w : Owner) (c : Croft) (f : SysFault), s.power = true → c = s.croft n → c.owner = some o → s.owners.find o = some w →
    c.freeze = { sys := some f } → f.code = .transperm → f.async = none → f.access = none → c.mode = .fixed → Claims.Handles c → c.lands = [] →
    ∃ t d, exec (.silluFaultService n) s = .next t ∧ d.vclock = c.nextVc ∧ d.handler = c.handler ∧ d.overlay = c.overlay ∧ d.s = c.s ∧ d.sp = c.sp
      ∧ d.acm = c.acm ∧ d.b = c.b ∧ d.v = c.v ∧ d.mode = c.mode ∧ d.split = c.split ∧ d.lands = [] ∧ d.seq = c.seq
      ∧ Claims.Entered d (t.croft n) { code := .transperm, aux := f.aux, addr := f.addr } f.eng f.pc false false d.queues
      ∧ (c.queue .A = [] → d.queues = c.queues ∧ d.qa = c.qa ∧ d.qs = c.qs)
      ∧ (∀ q rest, c.queue .A = q :: rest → q ∉ rest →
        let keeps (i : Instr) (l : List Word64) : Prop := d.queues = vset c.queues 1 ({ q with item := .ins i l } :: rest)
        (∀ t o x, q.item = .ins (.atom t o x) [] →
          let k := if x.x1.toNat % 16 = 9 then 2 else 1
          k ≤ c.qa.length → keeps (.atom t o x) (c.qa.take k) ∧ d.qa = c.qa.drop k ∧ d.qs = c.qs)
        ∧ (∀ t o x v qs, q.item = .ins (.stq t o x) [] → c.qs = v :: qs → keeps (.stq t o x) [v] ∧ d.qs = qs ∧ d.qa = c.qa)
        ∧ (∀ i l, q.item = .ins i l → (l ≠ [] ∨ ((∀ t o x, i ≠ .atom t o x) ∧ ∀ t o x, i ≠ .stq t o x)) →
          d.queues = c.queues ∧ d.qa = c.qa ∧ d.qs = c.qs))

/-- MemoryServices and SystemFaultsDelivered together. -/
def Obligations.MemoryAndFaultServices : Prop := Claims.MemoryServices ∧ Claims.SystemFaultsDelivered

/-- ECC_CORRECTABLE, ECC_FREEZE_END, SRAM_UNCORRECTABLE, PREEMPT and RESTORE (R233 to R238, R288): a correctable error freezes the croft until 24 cy
after the last, its Mill's slots until then passing idle, and is recorded, to the owner at most once in 2^24 cy; an uncorrectable one in croft SRAM sends POISON and ends the issue, one in HBM
poisons the unit; a pre-empted context is saved, its nest at a K-step boundary, and restored whole on a croft of the same owner, whose clock restarts
at the next round boundary. What an ended issue clears, that the 2^24 cy are counted in rounds, and what a context leaves at its croft are the
model's (logs 36, 86, 102). -/
def Obligations.ErrorsAndContexts : Prop :=
  ∀ (s : State) (n o : Nat) (c : Croft), s.power = true → c = s.croft n → c.owner = some o →
    (c.stand ≤ s.time →
      let vc := Claims.vcAt c s.time
      let told : Bool := match c.eccTold with | none => true | some r => 2 ^ 17 ≤ s.round - r
      let r : Record := ⟨BitVec.ofNat 64 ((c.eccs + 1) % 2 ^ 32 * 2 ^ 32 + 0x41), 0, n, o, 0, vc⟩
      ∃ t, exec (.eccCorrectable n) s = .next t ∧ (t.croft n).freeze = { c.freeze with ecc := true } ∧ Claims.SameData c (t.croft n)
        ∧ (t.croft n).stand = s.time + 24 ∧ (t.croft n).now = (if c.freeze.ecc = true then c.now + 24 else max s.time c.now) ∧ (t.croft n).vclock = vc
        ∧ (c.nest = none → (t.croft n).slots = c.slots - min c.slots (s.time + 24 - c.slot))
        ∧ (t.croft n).eccs = (if told then 0 else c.eccs + 1) ∧ (t.croft n).eccTold = (if told then some s.round else c.eccTold)
        ∧ Claims.SendsOnly s t (.service 0x41 (n / 64) o vc :: (if told then [.record o r] else [])))
    ∧ (s.time < c.stand → c.mode = .fixed → c.nest = none →
      let gone := min c.slots (s.time + 24 - c.slot)
      exec (.eccCorrectable n) s = .next (s.setCroft n
        { c with stand := s.time + 24, now := c.now + (s.time + 24 - c.stand), slots := c.slots - gone, slot := c.slot + gone }))
    ∧ (c.freeze.ecc = true →
      exec (.eccFreezeEnd n) s = .next (s.setCroft n { c with freeze := { c.freeze with ecc := false }, now := c.now + 24 }))
    ∧ (∀ w a space, splitAddr w = some (space, a) → (space = .sp ∨ space = .acm) →
      let r : Record := ⟨BitVec.ofNat 64 ((if space = .sp then 1 else 2) * 2 ^ 32 + 0x40), joinAddr space (a / 64 * 64), n, o, 0, c.vclock⟩
      ∃ t, exec (.sramUncorrectable n w) s = .next t ∧ Claims.IssueEnded c (t.croft n)
        ∧ Claims.SendsFirst s t [.service 0x40 (n / 64) o c.vclock, .record o r])
    ∧ (∀ w a u, splitAddr w = some (.owner, a) → s.unitOf n a = some u →
      exec (.sramUncorrectable n w) s = .next { s with hbmPoison := if u ∈ s.hbmPoison then s.hbmPoison else s.hbmPoison ++ [u] })
    ∧ (c.zeroing = false → ∃ t v, exec (.preempt n) s = .next t ∧ t.saved.find s.nextSaved = some v ∧ v.owner = o ∧ v.source = n
        ∧ Claims.SameData { c with imem := [] } v.croft ∧ v.croft.vclock = Claims.vcAt c s.time ∧ v.croft.lands = c.lands ∧ v.croft.frame = c.frame
        ∧ v.croft.queues = c.queues ∧ v.croft.tok = c.tok ∧ v.croft.rows = c.rows ∧ v.croft.overlay = c.overlay ∧ v.croft.mons = c.mons
        ∧ v.croft.nest.isSome = c.nest.isSome ∧ (∀ m, v.croft.nest = some m → m.begun = false)
        ∧ (∀ m, c.nest = some m → m.begun = false → m.rounds = 0 → v.croft.nest = some m)
        ∧ t.coll = s.coll.map (fun g => (g.1, g.2.1, g.2.2.map fun x => if x.1 = n then (1024 + s.nextSaved, x.2) else x))
        ∧ (t.croft n).vacated = true ∧ (t.croft n).free = false ∧ (t.croft n).furrow = none ∧ (t.croft n).sp = [] ∧ (t.croft n).owner = some o ∧ t.hbm = s.hbm)
    ∧ (∀ id v w, s.saved.find id = some v → v.owner = o → s.owners.find o = some w → c.mayRestore o = true → v.source ≠ n →
      ∃ t, exec (.restore id n) s = .next t ∧ t.saved.find id = none ∧ (t.croft v.source).vacated = false ∧ (t.croft n).vacated = false
        ∧ Claims.SameData { v.croft with imem := (t.croft n).imem } (t.croft n)
        ∧ (∀ l, w.overlays.find v.croft.overlay.handle = some l → (t.croft n).imem = c.imem.writeN 0 l.code)
        ∧ (t.croft n).vclock = v.croft.vclock ∧ (t.croft n).lands = v.croft.lands ∧ (t.croft n).nest = v.croft.nest
        ∧ (t.croft n).queues = v.croft.queues ∧ (t.croft n).overlay = v.croft.overlay ∧ (t.croft n).furrow = v.croft.furrow
        ∧ (t.croft n).owner = some o ∧ (t.croft n).contract = c.contract
        ∧ (t.croft n).now = max c.now (128 * s.round) ∧ (t.croft n).slot = 128 * s.round ∧ (t.croft n).slots = 0)

/-- BUDGET_EXPIRY, MASK_DEADLINE and MASK_DELIVERY (R225, R227, R249 to R252, R299, R301, R304): an expired budget enters the handler as BUDGET of its
GBUDG's word, or with EN = 0 lets fetch restart at RESUME; a GMASK past its deadline makes its slot WITHHELD and sends MASKLATE; a mask in time is kept
for the slot and written at MBASE in the long mask form once the GMASK has made its checks. At which vc a budget ends and a mask is late while the clock
stands is the model's reading (log 67). -/
def Obligations.Deadlines : Prop :=
  ∀ (s : State) (n o : Nat) (c : Croft), s.power = true → c = s.croft n → c.owner = some o →
    (∀ b, c.budget = some b → b.slot < 16 → Claims.Running c → c.frame = none → c.draining = none → c.lands = [] →
        (c.mode = .fixed → b.due ≤ c.vcNow ∧ (b.due < c.nextVc ∨ c.shortNext b.slot = false)) → (c.mode = .score → b.due < c.nextVc) →
      let vc := match c.mode with | .fixed => max c.vclock b.due | .score => c.vclock
      let rows := vset c.rows b.slot { vget c.rows {} b.slot with st := .withheld, step := b.step }
      (c.handler.getLsbD 16 = true → bitsOf c.handler 15 0 < c.overlay.len →
        ∃ t, exec (.budgetExpiry n) s = .next t ∧ (t.croft n).budget = none ∧ (t.croft n).vclock = vc
          ∧ (t.croft n).fcode = BitVec.ofNat 64 (b.slot * 2 ^ 32 + 6 * 2 ^ 20 + 2 ^ 18 + 0x0A) ∧ (t.croft n).fpc = BitVec.ofNat 64 b.pc
          ∧ ((t.croft n).frame.bind fun f => f.after) = some b.resume ∧ (t.croft n).split = { pc := bitsOf c.handler 15 0 } ∧ (t.croft n).rows = rows)
      ∧ (c.handler.getLsbD 16 = false →
        ∃ t, exec (.budgetExpiry n) s = .next t ∧ (t.croft n).budget = none ∧ (t.croft n).vclock = vc ∧ (t.croft n).frame = none
          ∧ (t.croft n).split = { pc := b.resume } ∧ (∀ e, (t.croft n).queue e = []) ∧ (t.croft n).rows = rows ∧ t.sent = s.sent
          ∧ Claims.SameData c (t.croft n)))
    ∧ (∀ k rest w, c.genq = k :: rest → k.op = 4 → k.done = 1 → k.fin = none → k.halt = .no → k.vc + k.x0 < c.vcNow → s.owners.find o = some w →
      let slot := vget c.rows {} k.k
      let r : Record := ⟨BitVec.ofNat 64 (k.k % 2 ^ 32 * 2 ^ 32 + 0x42), 0, n, o, 0, c.vclock⟩
      ∃ t, exec (.maskDeadline n) s = .next t ∧ (t.croft n).genq = rest ∧ Claims.Arrived c (t.croft n) k.arv
        ∧ (t.croft n).rows = vset c.rows k.k
            { (if slot.step = Claims.descField k.block 0x1C 4 then slot else ({ step := Claims.descField k.block 0x1C 4 } : RowSlot)) with st := .withheld }
        ∧ Claims.SendsFirst s t [.service 0x42 (n / 64) o c.vclock, .record o r])
    ∧ (∀ k rest w q qs, c.genq = k :: rest → k.op = 4 → k.mask = none → k.halt = .no → c.vcNow ≤ k.vc + k.x0 → s.owners.find o = some w →
        w.masks = q :: qs → q.croft = n → q.slot = k.k → q.step = Claims.descField k.block 0x1C 4 → q.mbase = Claims.descField k.block 0 4 →
        8 * (q.mask.length + 1) ≤ Claims.descField k.block 4 4 → q.mask.length ≤ 4096 →
      let words : List Word64 := BitVec.ofNat 64 (q.mask.length * 2 ^ 48 + (q.mask.map (·.2)).foldl (· + ·) 0)
        :: q.mask.map fun r => BitVec.ofNat 64 ((if r.1 then 2 ^ 31 else 0) + (r.2 - 1))
      ∃ t k', exec (.maskDelivery n) s = .next t ∧ (t.croft n).genq.head? = some k' ∧ k'.mask = some q.mask
        ∧ (k.done = 1 → k'.fin = some []
            ∧ (c.memWf = true → Claims.Written c.sp (t.croft n).sp q.mbase (words.flatMap fun d => leBytes 8 d.toNat)))
        ∧ (k.done ≠ 1 → k'.fin = none ∧ (t.croft n).sp = c.sp) ∧ (t.owners.find o).map (·.masks) = some qs)

/-- SVC_SERVICE_DONE and BELL_RING (R271, R272, R340, R341): the service's status enters S[a], 0 for service 0 and all ones for a number without a service,
and the croft goes on; service 1 advances a grammar context by a token and queues the mask of its state for delivery; service 2 writes the owner's
snapshots where it is asked; an argument range that breaks R341, and a block or handle that does, is status 1; a bell copies the live monitors, those of pre-empted contexts too, to
the snapshot sets that its ringer reads. That a service's argument is an address in the form of R61 (log 78), and that bytes 0x0C to 0x0F of its block must be 0 (log 79), are
the model's readings. -/
def Obligations.ServicesAndBells : Prop :=
  ∀ (s : State) (n : Nat) (c : Croft), s.power = true → c = s.croft n →
    (∀ k a w sig, c.freeze.svc = some (k, a, w, sig) → (k = 0 ∨ 3 ≤ k) →
      exec (.svcServiceDone n) s = .next (s.setCroft n (Croft.pushSig { c with
        freeze := { c.freeze with svc := none }
        s := if a = 0 then c.s else vset c.s a (if k = 0 then 0 else BitVec.allOnes 64) } .C sig)))
    ∧ (∀ a w sig x, c.freeze.svc = some (2, a, w, sig) → splitAddr w = some (.sp, x) → x % 64 = 0 → x + 768 ≤ 2 ^ 21 → Claims.AllUp c → c.memWf = true →
        (∀ p ∈ c.phases.toList, ∀ r ∈ p.reads ++ p.writes, ∀ y, r.base ≤ y → y < r.base + r.len → y < x ∨ x + 768 ≤ y) →
      ∃ t, exec (.svcServiceDone n) s = .next t ∧ (t.croft n).freeze.svc = none ∧ (a ≠ 0 → a < 32 → vget (t.croft n).s 0 a = 0)
        ∧ (∀ y, y < x ∨ x + 768 ≤ y → (t.croft n).sp.read y = c.sp.read y)
        ∧ (let gran : Monitor := match c.owner.bind s.owners.find with | some v => (v.granSnap.find (n / 64)).getD {} | none => {}
           (t.croft n).sp.readN x 768 = [c.snapO.copy, c.snapO.walk, c.snapO.mill, gran, c.snapO.slow].flatMap Claims.monitorBytes ++ List.replicate 48 0))
    ∧ (∀ a w sig x o v, c.freeze.svc = some (1, a, w, sig) → splitAddr w = some (.sp, x) → x % 64 = 0 → x + 64 ≤ 2 ^ 21 → Claims.AllUp c →
        (∀ p ∈ c.phases.toList, ∀ r ∈ p.writes, ∀ y, r.base ≤ y → y < r.base + r.len → y < x ∨ x + 64 ≤ y) → c.owner = some o →
        s.owners.find o = some v →
      let b := c.sp.readN x 64
      let f (at_ len : Nat) : Nat := Claims.field b at_ len
      let ok : Prop := f 0 1 ≤ 15 ∧ f 1 3 = 0 ∧ f 0x0C 4 = 0 ∧ f 0x1C 36 = 0
      let done (s' : State) (status : Word64) : State := s'.setCroft n (Croft.pushSig { c with
        freeze := { c.freeze with svc := none }, s := if a = 0 then c.s else vset c.s a status } .C sig)
      (∀ y g, v.contexts.find (f 0x10 8) = some y → v.grammars.find y.grammar = some g → ok →
        let q := if f 0x18 4 = 0xFFFFFFFF then y.state else g.advance y.state (f 0x18 4)
        exec (.svcServiceDone n) s = .next (done (s.setOwner o { v with
          contexts := v.contexts.put (f 0x10 8) { y with state := q }
          masks := v.masks ++ [⟨n, f 0 1, f 4 4, f 8 4, g.mask q⟩] }) 0))
      ∧ (v.contexts.find (f 0x10 8) = none ∨ ¬ok → exec (.svcServiceDone n) s = .next (done s 1)))
    ∧ (∀ k a w sig, c.freeze.svc = some (k, a, w, sig) → (k = 1 ∨ k = 2) → (∀ x, splitAddr w = some (.sp, x) → x % 64 ≠ 0 ∨ 2 ^ 21 < x + (if k = 1 then 64 else 768)) →
      exec (.svcServiceDone n) s = .next (s.setCroft n (Croft.pushSig { c with
        freeze := { c.freeze with svc := none }, s := if a = 0 then c.s else vset c.s a 1 } .C sig)))
    ∧ (∀ o w m, s.owners.find o = some w → m ∈ w.crofts → (s.croft m).bells = 1 → (∀ x ∈ w.crofts, x ≠ m → (s.croft x).bells = 0) →
      ∃ t, exec (.bellRing (.owner o)) s = .next t ∧ (t.croft m).bells = 0 ∧ (∀ x ∈ w.crofts, (t.croft x).snapO = (s.croft x).mons)
        ∧ (∀ x, x ∉ w.crofts → t.croft x = s.croft x) ∧ (t.owners.find o).map (·.granSnap) = some w.granLive
        ∧ ∀ id v, s.saved.find id = some v → v.owner = o → (t.saved.find id).map (fun y => y.croft.snapO) = some v.croft.mons)
    ∧ (∃ t, exec (.bellRing .package) s = .next t ∧ (∀ x y, Table.find s.crofts x = some y → t.croft x = { y with snapS := y.mons }) ∧ t.hbm = s.hbm
        ∧ t.dropSnap = s.dropped ∧ t.poolSnap = s.poolLive
        ∧ (∀ o w, s.owners.find o = some w → (t.owners.find o).map (·.granSillu) = some w.granLive)
        ∧ ∀ id v, s.saved.find id = some v → (t.saved.find id).map (fun y => y.croft.snapS) = some v.croft.mons)

/-- BANK_WAKE_END, BANK_POWER_OFF and VPUSH_TRANSFER (R136, R138, R163, R280): a bank that wakes reads as zero with its flags set; one that goes down
loses its contents once every access issued before has performed; a change of its gate that came meanwhile then begins; a VPUSH's next dword enters QS
while it has room. That a change of a gate waits for the one before is the model's reading (log 107). -/
def Obligations.BanksAndTransfers : Prop :=
  ∀ (s : State) (n b : Nat) (c : Croft), s.power = true → c = s.croft n →
    let others (d : Croft) : Prop := (∀ k, k ≠ b → vget d.gates .up k = vget c.gates .up k ∧ vget d.gateAcc [] k = vget c.gateAcc [] k)
      ∧ d.acm = c.acm ∧ d.s = c.s ∧ d.b = c.b ∧ d.v = c.v ∧ d.lands = c.lands
      ∧ ∀ y, y < 65536 * b ∨ 65536 * b + 65536 ≤ y → d.sp.read y = c.sp.read y
    let turns (d : Croft) (g : Gate) : Prop :=
      (c.gateq.find? (fun x => x.bank == b) = none → vget d.gates .up b = g ∧ d.gateq = c.gateq)
      ∧ ∀ x, c.gateq.find? (fun x => x.bank == b) = some x → d.gateq = c.gateq.erase x ∧ vget d.gates .up b = (if x.up then .waking else .falling)
          ∧ (x.up = false → vget d.gateAcc [] b = x.accs)
    (b < 32 → vget c.gates .up b = .waking → c.memWf = true → ∃ d, exec (.bankWakeEnd n b) s = .next (s.setCroft n d) ∧ turns d .up ∧ others d
      ∧ (∀ y, 65536 * b ≤ y → y < 65536 * b + 65536 → d.sp.read y = 0)
      ∧ (∀ k, 64 * b ≤ k → k < 64 * b + 64 → Claims.zeroFlag d k = true)
      ∧ ((c.zclear.Pairwise fun p q => p.1 < q.1) → ∀ k, k / 64 ≠ b → Claims.zeroFlag d k = Claims.zeroFlag c k))
    ∧ (b < 32 → vget c.gates .up b = .falling → c.memWf = true → (∀ q ∈ vget c.gateAcc [] b, Claims.Performed c q) →
      ∃ d, exec (.bankPowerOff n b) s = .next (s.setCroft n d) ∧ turns d .down ∧ others d ∧ d.zclear = c.zclear
        ∧ ∀ y, 65536 * b ≤ y → y < 65536 * b + 65536 → d.sp.read y = 0)
    ∧ (∀ v l, c.vpush = some ⟨v :: l⟩ → c.qs.length + c.pendS < 16 →
      exec (.vpushTransfer n) s = .next (s.setCroft n { c with qs := c.qs ++ [v], vpush := if l = [] then none else some ⟨l⟩ }))

/-! ### Reset, the step, encodings, what every step keeps -/

/-- The module right after reset (R23, R40, R42, R136, R138, R154, R168, R242, R254, R260): power, the boot ROM still to run, no owner, no function behind it,
owner memory empty, and every croft free of an owner, in FIXED mode at vc 0, its queues, tokens and memories empty, its barrier objects and row
slots idle, its banks up with every zero flag set. Register values that the spec does not give at reset, and what owner
memory and the memories of a croft hold then, are the model's choice (logs 3, 4). -/
def Obligations.ResetState : Prop :=
  let s := State.reset
  s.power = true ∧ s.boot = .before ∧ s.owners = [] ∧ s.launches = [] ∧ s.hbm = [] ∧ s.sent = [] ∧ s.agenda = [] ∧ s.hot = false ∧ s.round = 0
  ∧ Claims.Inv s ∧ Claims.AllFormed s ∧ s.memWf = true
  ∧ ∀ n, let c := s.croft n
    c.owner = none ∧ c.mode = .fixed ∧ c.vclock = 0 ∧ c.handler = 0 ∧ c.qstat = 0 ∧ c.contract = 0 ∧ c.sp = [] ∧ c.acm = [] ∧ c.imem = []
    ∧ (∀ k, vget c.s 0 k = 0 ∧ vget c.b 0 k = 0 ∧ vget c.v {} k = {} ∧ vget c.tok 0 k = 0 ∧ vget c.arv 0 k = 0 ∧ vget c.records 0 k = 0
        ∧ vget c.abs {} k = {} ∧ (vget c.rows {} k).st = .idle ∧ (vget c.gates .up k) = .up ∧ Claims.zeroFlag c k = true)
    ∧ (∀ e, c.queue e = []) ∧ c.qc = [] ∧ c.qa = [] ∧ c.qs = [] ∧ c.qr = [] ∧ c.qg = [] ∧ c.lands = [] ∧ c.frame = none ∧ c.nest = none

/-- A step runs the decoded instruction: where one instruction of a table row's bits has been placed (twice) at the word that the acting croft splits
next, the step splits it, moves the clock to the packet's vc, takes the instruction from its engine's queue and runs exec of it; the rest of the step
only counts the cy that the packet took and the round boundaries that have come (R35, R43, R45, R141). And an input or event of the agenda is run as it stands. The order of a step is the model's
choice, and so is how a word is placed (logs 1, 92). -/
def Obligations.StepRunsTheDecodedInstruction : Prop :=
  (∀ (s t : State) (c : Croft) (nbits w : Nat) (i : Instr) (e : Eng), decodeBytes (tableBytes nbits w) = .ok (i, []) → i.eng = some e →
      s.crofts = [(s.me, c)] → s.launches = [] → (∀ p ∈ s.owners, p.2.held = []) → c.nest = none → c.plan = none → c.riseOn = false → c.genq = [] →
      let p := s.withFetchWord nbits w
      let a := p.setCur p.cur.fixedSplit
      let b := a.setCur a.cur.tick
      let m (q : QEntry) := b.setCur { b.cur with
        queues := vset b.cur.queues (e.code - 1) ((b.cur.queue e).erase q), issuePc := q.pc, issueSeq := q.seq, kept := [], waited := false, faulted := false }
      ∃ q, (a.cur.queue e).head? = some q ∧ q.item = .ins i [] ∧ q.seq = c.seq ∧ 4 * (q.pc + 1) = (tableBytes nbits w).length
        ∧ (exec i (m q) = .next t → t.me = s.me → t.cur.waited = false → (e = .C → t.cur.vpush = c.vpush) →
            (t.cur.faulted = true → t.cur.phases = b.cur.phases) →
            step p = .next (State.skipRounds (t.setCur { t.cur with now := max (max s.time c.now) t.cur.now + (t.cur.clock - c.nextVc), turn := true }))))
  ∧ ∀ (s : State) (i : Instr) (r : List Instr), s.power = true → s.agenda = i :: r → i.eng = none → step s = exec i { s with agenda := r }

/-- Words written field by field from the layouts and opcode maps (R53, R58, R60, R62 to R65, R67 to R71) decode to their instructions: the spec's own
worked encodings (LDQ with its extension word, ADD with a short immediate, LI with two extension words), and ADD, BADD, MZERO, VADD.W, XGATH and GSAMP. -/
def Obligations.WordsDecode : Prop :=
  let word (w : Word32) := decodeBytes (bytesOfWord w)
  -- LDQ.C3.ACQ.DIE QV1, [B2+0x40] <C >V; ADD S5, S3, -3; LI S8, 0x4000_0000
  decodeBytes [0x40, 0x00, 0x00, 0xE0, 0x92, 0x6A, 0x0A, 0x46] = .ok (.ldq ⟨1, 4⟩ ⟨3, 1, 5, 2, 2⟩ (.one 0x40), [])
  ∧ word 0x200251F6 = .ok (.add ⟨0, 0⟩ ⟨5, 3, 0b11101, true⟩ .none, [])
  ∧ decodeBytes (bytesOfWord 0xE0000002 ++ bytesOfWord 0xE0000000 ++ bytesOfWord 0x202A8002) = .ok (.li ⟨0, 0⟩ ⟨8, 0, 0, true⟩ (.two 2 0), [])
  -- eng, wait, sig, op, then the operand fields
  ∧ word (0b001#3 ++ 0b101#3 ++ 0b010#3 ++ 0b000001#6 ++ 3#5 ++ 4#5 ++ 5#5 ++ 0#1 ++ 0#1) = .ok (.add ⟨5, 2⟩ ⟨3, 4, 5, false⟩ .none, [])
  ∧ word (0b010#3 ++ 0b000#3 ++ 0b000#3 ++ 0b000010#6 ++ 7#4 ++ 8#4 ++ 0#4 ++ 1#1 ++ 0#4) = .ok (.badd ⟨0, 0⟩ ⟨7, 8, 0, true⟩ .none, [])
  ∧ word (0b011#3 ++ 0b010#3 ++ 0b100#3 ++ 0b000101#6 ++ 5#4 ++ 0#4 ++ 0#3 ++ 1#6) = .ok (.mzero ⟨2, 4⟩ ⟨5, 0, 0, 1⟩ .none, [])
  ∧ word (0b100#3 ++ 0b011#3 ++ 0b001#3 ++ 0b000001#6 ++ 2#5 ++ 4#5 ++ 6#5 ++ 1#1 ++ 0#1) = .ok (.vadd ⟨3, 1⟩ ⟨2, 4, 6, true⟩ .none, [])
  ∧ word (0b101#3 ++ 0b111#3 ++ 0b000#3 ++ 0b000001#6 ++ 1#3 ++ 3#14) = .ok (.xgath ⟨7, 0⟩ ⟨1, 3⟩ .none, [])
  ∧ word (0b110#3 ++ 0b000#3 ++ 0b001#3 ++ 0b000100#6 ++ 6#3 ++ 1#1 ++ 7#13) = .ok (.gsamp ⟨0, 1⟩ ⟨6, true, 7⟩ .none, [])

/-- Every well-formed instruction that has a word is what the decoder reads from its encoding, with no word left over: no bit of an operand is lost, and
no two instructions share an encoding (R53 to R72). -/
def Obligations.DecodeOfEncode : Prop :=
  ∀ i : Instr, i.wf = true → i.eng ≠ none → (∀ e, i ≠ .unassignedOpcode e) → decodeBytes (encodeBytes i) = .ok (i, [])

/-- Every step keeps the canonical form of owner memory, an operator key (R268), and the loss of everything with the power (R21). -/
def Obligations.StepsKeepInv : Prop := ∀ s t : State, Claims.Inv s → step s = .next t → Claims.Inv t

/-- Every step keeps every croft and every saved context in its form: scratchpad, ACM and instruction memory canonical (R3), QC, QS, QR, QG and QV0 to QV3
with what is on its way to QS and QR, the copy command queue and G's work queue inside their depths (R41, R298), and run registers and vectors in the form of
R154. QA and the token FIFOs are not named: what a fault gives back to them (R224) may stand above their depth. -/
def Obligations.StepsKeepForms : Prop := ∀ s t : State, Claims.AllFormed s → step s = .next t → Claims.AllFormed t
end

