-- ==== Sys2Proof/Laws/Memory.lean ====
section
/-! SUPPORT. Memories: reading after writing, and that every operation keeps the canonical form. -/

namespace Sys2Proof.Machine

/-! ### The canonical form -/

theorem Memory.wfFrom_mono {m : Memory} {lo lo' : Nat} (h : lo' ≤ lo) (hw : Memory.wfFrom lo m = true) : Memory.wfFrom lo' m = true := by
  cases m with
  | nil => rfl
  | cons p r =>
    obtain ⟨a, b⟩ := p
    simp only [Memory.wfFrom, Bool.and_eq_true, decide_eq_true_eq] at hw ⊢
    exact ⟨⟨by omega, hw.1.2⟩, hw.2⟩

theorem Memory.wfFrom_cons {m : Memory} {lo a : Nat} (b : Byte) (h : lo ≤ a) (hw : Memory.wfFrom (a + 1) m = true) :
    Memory.wfFrom lo (Memory.cons a b m) = true := by
  unfold Memory.cons
  split
  · exact Memory.wfFrom_mono (by omega) hw
  · rename_i hb
    simp only [Memory.wfFrom, Bool.and_eq_true, decide_eq_true_eq]
    exact ⟨⟨h, by simpa [bne] using hb⟩, hw⟩

theorem Memory.wfFrom_write {m : Memory} {lo a : Nat} (b : Byte) (h : lo ≤ a) (hw : Memory.wfFrom lo m = true) :
    Memory.wfFrom lo (Memory.write m a b) = true := by
  induction m generalizing lo with
  | nil => exact Memory.wfFrom_cons b h rfl
  | cons p r ih =>
    obtain ⟨x, y⟩ := p
    have hw' := hw
    simp only [Memory.wfFrom, Bool.and_eq_true, decide_eq_true_eq] at hw
    simp only [Memory.write]
    split
    · simp only [Memory.wfFrom, Bool.and_eq_true, decide_eq_true_eq]
      exact ⟨hw.1, ih (by omega) hw.2⟩
    · split
      · rename_i h1 h2
        have : x = a := by simpa using h2
        subst this
        exact Memory.wfFrom_cons b hw.1.1 hw.2
      · rename_i h1 h2
        have hne : x ≠ a := by simpa using h2
        refine Memory.wfFrom_cons b h ?_
        simp only [Memory.wfFrom, Bool.and_eq_true, decide_eq_true_eq]
        exact ⟨⟨by omega, hw.1.2⟩, hw.2⟩

/-- A byte write keeps the canonical form. -/
theorem Memory.wf_write {m : Memory} (a : Nat) (b : Byte) (hw : Memory.wf m = true) : Memory.wf (Memory.write m a b) = true :=
  Memory.wfFrom_write b (Nat.zero_le a) hw

/-- A write of several bytes keeps the canonical form. -/
theorem Memory.wf_writeN {m : Memory} (a : Nat) (bs : List Byte) (hw : Memory.wf m = true) : Memory.wf (Memory.writeN m a bs) = true := by
  induction bs generalizing m a with
  | nil => exact hw
  | cons b bs ih => exact ih (a + 1) (Memory.wf_write a b hw)

theorem Memory.wfFrom_filter {m : Memory} {lo : Nat} (p : Host.Cell → Bool) (hw : Memory.wfFrom lo m = true) :
    Memory.wfFrom lo (m.filter p) = true := by
  induction m generalizing lo with
  | nil => rfl
  | cons c r ih =>
    obtain ⟨x, y⟩ := c
    simp only [Memory.wfFrom, Bool.and_eq_true, decide_eq_true_eq] at hw
    simp only [List.filter]
    split
    · simp only [Memory.wfFrom, Bool.and_eq_true, decide_eq_true_eq]
      exact ⟨hw.1, ih hw.2⟩
    · exact Memory.wfFrom_mono (by omega) (ih hw.2)

/-- Leaving cells out keeps the canonical form. -/
theorem Memory.wf_filter {m : Memory} (p : Host.Cell → Bool) (hw : Memory.wf m = true) : Memory.wf (m.filter p) = true :=
  Memory.wfFrom_filter p hw

/-- Forgetting a range keeps the canonical form. -/
theorem Memory.wf_clear {m : Memory} (a n : Nat) (hw : Memory.wf m = true) : Memory.wf (Memory.clear m a n) = true :=
  Memory.wf_filter _ hw

/-- A slice of a memory is in canonical form. -/
theorem Memory.wf_slice {m : Memory} (a n : Nat) (hw : Memory.wf m = true) : Memory.wf (Memory.slice m a n) = true :=
  Memory.wf_filter _ hw

/-! ### Reading after writing -/

theorem Memory.read_below {m : Memory} {lo a : Nat} (h : a < lo) (hw : Memory.wfFrom lo m = true) : Memory.read m a = Memory.unlisted := by
  induction m generalizing lo with
  | nil => rfl
  | cons p r ih =>
    obtain ⟨x, y⟩ := p
    simp only [Memory.wfFrom, Bool.and_eq_true, decide_eq_true_eq] at hw
    have : (x == a) = false := by simp; omega
    simp only [Memory.read, this]
    exact ih (by omega) hw.2

theorem Memory.read_cons_same {m : Memory} (a : Nat) (b : Byte) (hw : Memory.wfFrom (a + 1) m = true) :
    Memory.read (Memory.cons a b m) a = b := by
  unfold Memory.cons
  split
  · rename_i hb
    rw [Memory.read_below (Nat.lt_succ_self a) hw]
    exact (by simpa using hb : b = Memory.unlisted).symm
  · simp [Memory.read]

theorem Memory.read_cons_other {m : Memory} {a x : Nat} (b : Byte) (h : x ≠ a) : Memory.read (Memory.cons a b m) x = Memory.read m x := by
  unfold Memory.cons
  split
  · rfl
  · simp [Memory.read, Ne.symm h]

theorem Memory.read_write_same_from {m : Memory} {lo : Nat} (a : Nat) (b : Byte) (hw : Memory.wfFrom lo m = true) :
    Memory.read (Memory.write m a b) a = b := by
  induction m generalizing lo with
  | nil => exact Memory.read_cons_same a b rfl
  | cons p r ih =>
    obtain ⟨x, y⟩ := p
    simp only [Memory.wfFrom, Bool.and_eq_true, decide_eq_true_eq] at hw
    simp only [Memory.write]
    split
    · rename_i h1
      have : (x == a) = false := by simp; omega
      simp only [Memory.read, this]
      exact ih hw.2
    · split
      · rename_i h1 h2
        have : x = a := by simpa using h2
        subst this
        exact Memory.read_cons_same x b hw.2
      · rename_i h1 h2
        have : x ≠ a := by simpa using h2
        refine Memory.read_cons_same a b ?_
        simp only [Memory.wfFrom, Bool.and_eq_true, decide_eq_true_eq]
        exact ⟨⟨by omega, hw.1.2⟩, hw.2⟩

/-- A byte just written reads back. -/
theorem Memory.read_write_same {m : Memory} (a : Nat) (b : Byte) (hw : Memory.wf m = true) : Memory.read (Memory.write m a b) a = b :=
  Memory.read_write_same_from a b hw

/-- Every other byte reads as before. -/
theorem Memory.read_write_other (m : Memory) {a x : Nat} (b : Byte) (h : x ≠ a) : Memory.read (Memory.write m a b) x = Memory.read m x := by
  induction m with
  | nil => exact Memory.read_cons_other b h
  | cons p r ih =>
    obtain ⟨y, z⟩ := p
    simp only [Memory.write]
    split
    · simp only [Memory.read]
      rw [ih]
    · split
      · rename_i h1 h2
        have : y = a := by simpa using h2
        subst this
        rw [Memory.read_cons_other b h]
        simp [Memory.read, Ne.symm h]
      · exact Memory.read_cons_other b h

/-- Bytes outside a written range read as before. -/
theorem Memory.read_writeN_other (m : Memory) (a x : Nat) (bs : List Byte) (h : x < a ∨ a + bs.length ≤ x) :
    Memory.read (Memory.writeN m a bs) x = Memory.read m x := by
  induction bs generalizing m a with
  | nil => rfl
  | cons b bs ih =>
    simp only [List.length_cons] at h
    simp only [Memory.writeN]
    rw [ih _ _ (by omega), Memory.read_write_other _ _ (by omega)]

end Sys2Proof.Machine
end

