-- ==== Sys2Proof/Laws/Num.lean ====
section
/-! SUPPORT. What VSCALB's clamp of its exponent changes: nothing (R353). -/

namespace Sys2Proof.Machine

/-- A value at least 2 ^ 1000 overflows FP32 in one way, whatever its exponent. -/
theorem rnd_fp32_high {mode : RMode} {sat s : Bool} {m : Nat} {e : Int} (hm : m ≠ 0) (hm24 : m < 2 ^ 24) (he : 1000 ≤ e) :
    rnd fp32 mode sat (.num s m e) = if sat || towardMax mode s then (fp32.signed s fp32.maxCode, fSATB) else (fp32.signed s fp32.infCode, fOVF) := by
  have hl : Nat.log2 m ≤ 23 := by have := (Nat.log2_lt hm).2 hm24; omega
  have hn : 2 ^ 23 ≤ m * 2 ^ (23 - Nat.log2 m) := calc
    2 ^ 23 = 2 ^ Nat.log2 m * 2 ^ (23 - Nat.log2 m) := by rw [← Nat.pow_add]; congr 1; omega
    _ ≤ _ := Nat.mul_le_mul_right _ (Nat.log2_self_le hm)
  have hq : (e - (e + (Nat.log2 m : Int) - 23)).toNat = 23 - Nat.log2 m := by omega
  have hb : fp32.bias = 127 := rfl
  have hf : fp32.fb = 23 := rfl
  have hs : fp32.sp = .ieee := rfl
  have hx : fp32.maxCode = 2139095039 := by decide
  unfold rnd
  simp only [beq_iff_eq, hm, hb, hf, hs, hx, if_false]
  rw [if_neg (show ¬ (e + (Nat.log2 m : Int) < 1 - 127) by omega)]
  unfold roundTo
  rw [if_pos (show e + (Nat.log2 m : Int) - (23 : Nat) ≤ e by omega), show ((23 : Nat) : Int) = 23 from rfl, hq,
    if_neg (show ¬ m * 2 ^ (23 - Nat.log2 m) < 2 ^ 23 by omega)]
  rw [if_pos (by omega)]
  simp

/-- A value below 2 ^ (−1000) rounds to FP32 as its sign and mode say, whatever its exponent. -/
theorem rnd_fp32_low {mode : RMode} {sat s : Bool} {m : Nat} {e : Int} (hm : m ≠ 0) (hm24 : m < 2 ^ 24) (he : e ≤ -1000) :
    rnd fp32 mode sat (.num s m e) = (fp32.signed s (if mode = 2 ∧ s = false ∨ mode = 3 ∧ s = true then 1 else 0), 0) := by
  have hl : Nat.log2 m ≤ 23 := by have := (Nat.log2_lt hm).2 hm24; omega
  have hb : fp32.bias = 127 := rfl
  have hf : fp32.fb = 23 := rfl
  have hx : fp32.maxCode = 2139095039 := by decide
  have hk : ∃ k : Nat, (1 - 127 - 23 - e : Int).toNat = k ∧ 100 ≤ k := ⟨_, rfl, by omega⟩
  obtain ⟨k, hk, hk100⟩ := hk
  have hpow : 2 ^ 25 < 2 ^ k := Nat.pow_lt_pow_right (by omega) (by omega)
  have hr : roundTo mode s m e (1 - 127 - 23) = if mode = 2 ∧ s = false ∨ mode = 3 ∧ s = true then 1 else 0 := by
    unfold roundTo roundShift
    rw [if_neg (by omega), hk, Nat.div_eq_of_lt (by omega), Nat.mod_eq_of_lt (by omega)]
    simp only [beq_iff_eq, hm, if_false]
    have h1 : ¬ 2 ^ k < 2 * m := by omega
    have h2 : ¬ 2 * m = 2 ^ k := by omega
    have h3 : ¬ 2 ^ k ≤ 2 * m := by omega
    match mode with
    | 0 | 1 => simp [h1]
    | 2 | 3 => cases s <;> simp
    | n + 4 => simp [h3]
  unfold rnd
  simp only [beq_iff_eq, hm, hb, hf, hx, if_false]
  rw [if_pos (show (e + (Nat.log2 m : Int) < 1 - 127) by omega), show ((23 : Nat) : Int) = 23 from rfl, hr]
  split <;> simp

/-- VSCALB's exponent past ±2048 gives what ±2048 gives: the clamp that keeps the model evaluable changes no result (R353). -/
theorem rnd_fp32_clamp {mode : RMode} {sat s : Bool} {m : Nat} {e n : Int} (hm : m ≠ 0) (hm24 : m < 2 ^ 24) (hlo : -149 ≤ e) (hhi : e ≤ 127) :
    rnd fp32 mode sat (.num s m (e + (if 2048 < n then 2048 else if n < -2048 then -2048 else n))) = rnd fp32 mode sat (.num s m (e + n)) := by
  split
  · rw [rnd_fp32_high hm hm24 (by omega), rnd_fp32_high hm hm24 (by omega)]
  · split
    · rw [rnd_fp32_low hm hm24 (by omega), rnd_fp32_low hm hm24 (by omega)]
    · rfl

/-- A finite FP32 number has at most 24 bits above an exponent from −149 to 104 (R96). -/
theorem fp32_value_num {v m : Nat} {s : Bool} {e : Int} (h : fp32.value v = .num s m e) : m < 2 ^ 24 ∧ -149 ≤ e ∧ e ≤ 104 := by
  have hb : fp32.bias = 127 := rfl
  have hf : fp32.fb = 23 := rfl
  have he : fp32.eb = 8 := rfl
  have hs : fp32.sp = .ieee := rfl
  unfold Fmt.value at h
  simp only [hb, hf, he, hs] at h
  split at h
  · split at h <;> exact nomatch h
  · split at h
    · exact nomatch h
    · split at h
      all_goals
        obtain ⟨-, rfl, rfl⟩ := FV.num.inj h
        simp_all
        omega

end Sys2Proof.Machine
end

