-- ==== Sys2Proof/Laws/State.lean ====
section
/-! SUPPORT. The small lemmas of State: looking a croft up after it is put in place, and one lemma per field for each named update. -/

namespace Sys2Proof.Machine

/-! ### Tables -/

@[simp] theorem Table.find_put_same {α : Type} (t : Table α) (k : Nat) (v : α) : Table.find (Table.put t k v) k = some v := by
  induction t with
  | nil => simp [Table.put, Table.find]
  | cons p r ih =>
    obtain ⟨x, y⟩ := p
    simp only [Table.put]
    split
    · rename_i h
      have : (x == k) = false := by simp; omega
      simp [Table.find, this, ih]
    · split <;> simp [Table.find]

theorem Table.find_put_other {α : Type} (t : Table α) (k j : Nat) (v : α) (h : j ≠ k) :
    Table.find (Table.put t k v) j = Table.find t j := by
  induction t with
  | nil => simp [Table.put, Table.find, Ne.symm h]
  | cons p r ih =>
    obtain ⟨x, y⟩ := p
    simp only [Table.put]
    split
    · simp [Table.find, ih]
    · split
      · rename_i h1 h2
        have : x = k := by simpa using h2
        subst this
        simp [Table.find, Ne.symm h]
      · simp [Table.find, Ne.symm h]

@[simp] theorem Table.put_put_same {α : Type} (t : Table α) (k : Nat) (v w : α) : Table.put (Table.put t k v) k w = Table.put t k w := by
  induction t with
  | nil => simp [Table.put]
  | cons p r ih =>
    obtain ⟨x, y⟩ := p
    simp only [Table.put]
    split
    · rename_i h
      simp [Table.put, h, ih]
    · split <;> simp [Table.put]

/-! ### Vectors -/

@[simp] theorem vget_vset_same {α : Type} {n : Nat} (v : Vector α n) (d a : α) (i : Nat) (h : i < n) : vget (vset v i a) d i = a := by
  simp [vget, vset, h]

theorem vget_vset_other {α : Type} {n : Nat} (v : Vector α n) (d a : α) (i j : Nat) (h : j ≠ i) : vget (vset v i a) d j = vget v d j := by
  simp [vget, vset, Ne.symm h]

/-! ### The acting croft -/

@[simp] theorem State.croft_setCroft_same (s : State) (n : Nat) (c : Croft) : (s.setCroft n c).croft n = c := by
  simp [State.croft, State.setCroft]

theorem State.croft_setCroft_other (s : State) (n m : Nat) (c : Croft) (h : m ≠ n) : (s.setCroft n c).croft m = s.croft m := by
  simp [State.croft, State.setCroft, Table.find_put_other _ _ _ _ h]

@[simp] theorem State.setCroft_setCroft_same (s : State) (n : Nat) (c d : Croft) : (s.setCroft n c).setCroft n d = s.setCroft n d := by
  simp [State.setCroft]

@[simp] theorem State.cur_setCur (s : State) (c : Croft) : (s.setCur c).cur = c := by
  simp [State.cur, State.setCur, State.setCroft, State.croft]

@[simp] theorem State.setCur_setCur (s : State) (c d : Croft) : (s.setCur c).setCur d = s.setCur d := by
  simp [State.setCur, State.setCroft]

theorem State.cur_eq (s : State) : s.cur = s.croft s.me := rfl

@[simp] theorem State.croft_me_setCur (s : State) (c : Croft) : (s.setCur c).croft s.me = c := by simp [State.setCur]


/-! ### Putting a croft in place changes nothing else of the module -/

@[simp] theorem State.setCroft_me (s : State) (n : Nat) (c : Croft) : (s.setCroft n c).me = s.me := rfl
@[simp] theorem State.setCroft_time (s : State) (n : Nat) (c : Croft) : (s.setCroft n c).time = s.time := rfl
@[simp] theorem State.setCroft_agenda (s : State) (n : Nat) (c : Croft) : (s.setCroft n c).agenda = s.agenda := rfl
@[simp] theorem State.setCroft_fresh (s : State) (n : Nat) (c : Croft) : (s.setCroft n c).fresh = s.fresh := rfl
@[simp] theorem State.setCroft_boot (s : State) (n : Nat) (c : Croft) : (s.setCroft n c).boot = s.boot := rfl
@[simp] theorem State.setCroft_power (s : State) (n : Nat) (c : Croft) : (s.setCroft n c).power = s.power := rfl
@[simp] theorem State.setCroft_hot (s : State) (n : Nat) (c : Croft) : (s.setCroft n c).hot = s.hot := rfl
@[simp] theorem State.setCroft_flash0 (s : State) (n : Nat) (c : Croft) : (s.setCroft n c).flash0 = s.flash0 := rfl
@[simp] theorem State.setCroft_flash1 (s : State) (n : Nat) (c : Croft) : (s.setCroft n c).flash1 = s.flash1 := rfl
@[simp] theorem State.setCroft_minVer (s : State) (n : Nat) (c : Croft) : (s.setCroft n c).minVer = s.minVer := rfl
@[simp] theorem State.setCroft_opKeys (s : State) (n : Nat) (c : Croft) : (s.setCroft n c).opKeys = s.opKeys := rfl
@[simp] theorem State.setCroft_msillu (s : State) (n : Nat) (c : Croft) : (s.setCroft n c).msillu = s.msillu := rfl
@[simp] theorem State.setCroft_seqs (s : State) (n : Nat) (c : Croft) : (s.setCroft n c).seqs = s.seqs := rfl
@[simp] theorem State.setCroft_dropped (s : State) (n : Nat) (c : Croft) : (s.setCroft n c).dropped = s.dropped := rfl
@[simp] theorem State.setCroft_dropSnap (s : State) (n : Nat) (c : Croft) : (s.setCroft n c).dropSnap = s.dropSnap := rfl
@[simp] theorem State.setCroft_poolLive (s : State) (n : Nat) (c : Croft) : (s.setCroft n c).poolLive = s.poolLive := rfl
@[simp] theorem State.setCroft_poolSnap (s : State) (n : Nat) (c : Croft) : (s.setCroft n c).poolSnap = s.poolSnap := rfl
@[simp] theorem State.setCroft_outSeqs (s : State) (n : Nat) (c : Croft) : (s.setCroft n c).outSeqs = s.outSeqs := rfl
@[simp] theorem State.setCroft_round (s : State) (n : Nat) (c : Croft) : (s.setCroft n c).round = s.round := rfl
@[simp] theorem State.setCroft_owners (s : State) (n : Nat) (c : Croft) : (s.setCroft n c).owners = s.owners := rfl
@[simp] theorem State.setCroft_launches (s : State) (n : Nat) (c : Croft) : (s.setCroft n c).launches = s.launches := rfl
@[simp] theorem State.setCroft_nextLaunch (s : State) (n : Nat) (c : Croft) : (s.setCroft n c).nextLaunch = s.nextLaunch := rfl
@[simp] theorem State.setCroft_nextHandle (s : State) (n : Nat) (c : Croft) : (s.setCroft n c).nextHandle = s.nextHandle := rfl
@[simp] theorem State.setCroft_served (s : State) (n : Nat) (c : Croft) : (s.setCroft n c).served = s.served := rfl
@[simp] theorem State.setCroft_granaries (s : State) (n : Nat) (c : Croft) : (s.setCroft n c).granaries = s.granaries := rfl
@[simp] theorem State.setCroft_hbm (s : State) (n : Nat) (c : Croft) : (s.setCroft n c).hbm = s.hbm := rfl
@[simp] theorem State.setCroft_hbmPoison (s : State) (n : Nat) (c : Croft) : (s.setCroft n c).hbmPoison = s.hbmPoison := rfl
@[simp] theorem State.setCroft_hamlet (s : State) (n : Nat) (c : Croft) : (s.setCroft n c).hamlet = s.hamlet := rfl
@[simp] theorem State.setCroft_hub (s : State) (n : Nat) (c : Croft) : (s.setCroft n c).hub = s.hub := rfl
@[simp] theorem State.setCroft_holds (s : State) (n : Nat) (c : Croft) : (s.setCroft n c).holds = s.holds := rfl
@[simp] theorem State.setCroft_coll (s : State) (n : Nat) (c : Croft) : (s.setCroft n c).coll = s.coll := rfl
@[simp] theorem State.setCroft_peers (s : State) (n : Nat) (c : Croft) : (s.setCroft n c).peers = s.peers := rfl
@[simp] theorem State.setCroft_peer (s : State) (n : Nat) (c : Croft) : (s.setCroft n c).peer = s.peer := rfl
@[simp] theorem State.setCroft_saved (s : State) (n : Nat) (c : Croft) : (s.setCroft n c).saved = s.saved := rfl
@[simp] theorem State.setCroft_nextSaved (s : State) (n : Nat) (c : Croft) : (s.setCroft n c).nextSaved = s.nextSaved := rfl
@[simp] theorem State.setCroft_spilled (s : State) (n : Nat) (c : Croft) : (s.setCroft n c).spilled = s.spilled := rfl
@[simp] theorem State.setCroft_sent (s : State) (n : Nat) (c : Croft) : (s.setCroft n c).sent = s.sent := rfl
@[simp] theorem State.setCroft_told (s : State) (n : Nat) (c : Croft) : (s.setCroft n c).told = s.told := rfl

@[simp] theorem State.setCur_me (s : State) (c : Croft) : (s.setCur c).me = s.me := rfl
@[simp] theorem State.setCur_time (s : State) (c : Croft) : (s.setCur c).time = s.time := rfl
@[simp] theorem State.setCur_agenda (s : State) (c : Croft) : (s.setCur c).agenda = s.agenda := rfl
@[simp] theorem State.setCur_fresh (s : State) (c : Croft) : (s.setCur c).fresh = s.fresh := rfl
@[simp] theorem State.setCur_boot (s : State) (c : Croft) : (s.setCur c).boot = s.boot := rfl
@[simp] theorem State.setCur_power (s : State) (c : Croft) : (s.setCur c).power = s.power := rfl
@[simp] theorem State.setCur_hot (s : State) (c : Croft) : (s.setCur c).hot = s.hot := rfl
@[simp] theorem State.setCur_flash0 (s : State) (c : Croft) : (s.setCur c).flash0 = s.flash0 := rfl
@[simp] theorem State.setCur_flash1 (s : State) (c : Croft) : (s.setCur c).flash1 = s.flash1 := rfl
@[simp] theorem State.setCur_minVer (s : State) (c : Croft) : (s.setCur c).minVer = s.minVer := rfl
@[simp] theorem State.setCur_opKeys (s : State) (c : Croft) : (s.setCur c).opKeys = s.opKeys := rfl
@[simp] theorem State.setCur_msillu (s : State) (c : Croft) : (s.setCur c).msillu = s.msillu := rfl
@[simp] theorem State.setCur_seqs (s : State) (c : Croft) : (s.setCur c).seqs = s.seqs := rfl
@[simp] theorem State.setCur_dropped (s : State) (c : Croft) : (s.setCur c).dropped = s.dropped := rfl
@[simp] theorem State.setCur_dropSnap (s : State) (c : Croft) : (s.setCur c).dropSnap = s.dropSnap := rfl
@[simp] theorem State.setCur_poolLive (s : State) (c : Croft) : (s.setCur c).poolLive = s.poolLive := rfl
@[simp] theorem State.setCur_poolSnap (s : State) (c : Croft) : (s.setCur c).poolSnap = s.poolSnap := rfl
@[simp] theorem State.setCur_outSeqs (s : State) (c : Croft) : (s.setCur c).outSeqs = s.outSeqs := rfl
@[simp] theorem State.setCur_round (s : State) (c : Croft) : (s.setCur c).round = s.round := rfl
@[simp] theorem State.setCur_owners (s : State) (c : Croft) : (s.setCur c).owners = s.owners := rfl
@[simp] theorem State.setCur_launches (s : State) (c : Croft) : (s.setCur c).launches = s.launches := rfl
@[simp] theorem State.setCur_nextLaunch (s : State) (c : Croft) : (s.setCur c).nextLaunch = s.nextLaunch := rfl
@[simp] theorem State.setCur_nextHandle (s : State) (c : Croft) : (s.setCur c).nextHandle = s.nextHandle := rfl
@[simp] theorem State.setCur_served (s : State) (c : Croft) : (s.setCur c).served = s.served := rfl
@[simp] theorem State.setCur_granaries (s : State) (c : Croft) : (s.setCur c).granaries = s.granaries := rfl
@[simp] theorem State.setCur_hbm (s : State) (c : Croft) : (s.setCur c).hbm = s.hbm := rfl
@[simp] theorem State.setCur_hbmPoison (s : State) (c : Croft) : (s.setCur c).hbmPoison = s.hbmPoison := rfl
@[simp] theorem State.setCur_hamlet (s : State) (c : Croft) : (s.setCur c).hamlet = s.hamlet := rfl
@[simp] theorem State.setCur_hub (s : State) (c : Croft) : (s.setCur c).hub = s.hub := rfl
@[simp] theorem State.setCur_holds (s : State) (c : Croft) : (s.setCur c).holds = s.holds := rfl
@[simp] theorem State.setCur_coll (s : State) (c : Croft) : (s.setCur c).coll = s.coll := rfl
@[simp] theorem State.setCur_peers (s : State) (c : Croft) : (s.setCur c).peers = s.peers := rfl
@[simp] theorem State.setCur_peer (s : State) (c : Croft) : (s.setCur c).peer = s.peer := rfl
@[simp] theorem State.setCur_saved (s : State) (c : Croft) : (s.setCur c).saved = s.saved := rfl
@[simp] theorem State.setCur_nextSaved (s : State) (c : Croft) : (s.setCur c).nextSaved = s.nextSaved := rfl
@[simp] theorem State.setCur_spilled (s : State) (c : Croft) : (s.setCur c).spilled = s.spilled := rfl
@[simp] theorem State.setCur_sent (s : State) (c : Croft) : (s.setCur c).sent = s.sent := rfl
@[simp] theorem State.setCur_told (s : State) (c : Croft) : (s.setCur c).told = s.told := rfl

/-! ### What Sillu sends -/

@[simp] theorem State.send_me (s : State) (m : Sent) : (s.send m).me = s.me := rfl
@[simp] theorem State.send_time (s : State) (m : Sent) : (s.send m).time = s.time := rfl
@[simp] theorem State.send_crofts (s : State) (m : Sent) : (s.send m).crofts = s.crofts := rfl
@[simp] theorem State.send_agenda (s : State) (m : Sent) : (s.send m).agenda = s.agenda := rfl
@[simp] theorem State.send_fresh (s : State) (m : Sent) : (s.send m).fresh = s.fresh := rfl
@[simp] theorem State.send_boot (s : State) (m : Sent) : (s.send m).boot = s.boot := rfl
@[simp] theorem State.send_power (s : State) (m : Sent) : (s.send m).power = s.power := rfl
@[simp] theorem State.send_hot (s : State) (m : Sent) : (s.send m).hot = s.hot := rfl
@[simp] theorem State.send_flash0 (s : State) (m : Sent) : (s.send m).flash0 = s.flash0 := rfl
@[simp] theorem State.send_flash1 (s : State) (m : Sent) : (s.send m).flash1 = s.flash1 := rfl
@[simp] theorem State.send_minVer (s : State) (m : Sent) : (s.send m).minVer = s.minVer := rfl
@[simp] theorem State.send_opKeys (s : State) (m : Sent) : (s.send m).opKeys = s.opKeys := rfl
@[simp] theorem State.send_msillu (s : State) (m : Sent) : (s.send m).msillu = s.msillu := rfl
@[simp] theorem State.send_seqs (s : State) (m : Sent) : (s.send m).seqs = s.seqs := rfl
@[simp] theorem State.send_dropped (s : State) (m : Sent) : (s.send m).dropped = s.dropped := rfl
@[simp] theorem State.send_dropSnap (s : State) (m : Sent) : (s.send m).dropSnap = s.dropSnap := rfl
@[simp] theorem State.send_poolLive (s : State) (m : Sent) : (s.send m).poolLive = s.poolLive := rfl
@[simp] theorem State.send_poolSnap (s : State) (m : Sent) : (s.send m).poolSnap = s.poolSnap := rfl
@[simp] theorem State.send_round (s : State) (m : Sent) : (s.send m).round = s.round := rfl
@[simp] theorem State.send_owners (s : State) (m : Sent) : (s.send m).owners = s.owners := rfl
@[simp] theorem State.send_launches (s : State) (m : Sent) : (s.send m).launches = s.launches := rfl
@[simp] theorem State.send_nextLaunch (s : State) (m : Sent) : (s.send m).nextLaunch = s.nextLaunch := rfl
@[simp] theorem State.send_nextHandle (s : State) (m : Sent) : (s.send m).nextHandle = s.nextHandle := rfl
@[simp] theorem State.send_served (s : State) (m : Sent) : (s.send m).served = s.served := rfl
@[simp] theorem State.send_granaries (s : State) (m : Sent) : (s.send m).granaries = s.granaries := rfl
@[simp] theorem State.send_hbm (s : State) (m : Sent) : (s.send m).hbm = s.hbm := rfl
@[simp] theorem State.send_hbmPoison (s : State) (m : Sent) : (s.send m).hbmPoison = s.hbmPoison := rfl
@[simp] theorem State.send_hamlet (s : State) (m : Sent) : (s.send m).hamlet = s.hamlet := rfl
@[simp] theorem State.send_hub (s : State) (m : Sent) : (s.send m).hub = s.hub := rfl
@[simp] theorem State.send_holds (s : State) (m : Sent) : (s.send m).holds = s.holds := rfl
@[simp] theorem State.send_coll (s : State) (m : Sent) : (s.send m).coll = s.coll := rfl
@[simp] theorem State.send_peers (s : State) (m : Sent) : (s.send m).peers = s.peers := rfl
@[simp] theorem State.send_peer (s : State) (m : Sent) : (s.send m).peer = s.peer := rfl
@[simp] theorem State.send_saved (s : State) (m : Sent) : (s.send m).saved = s.saved := rfl
@[simp] theorem State.send_nextSaved (s : State) (m : Sent) : (s.send m).nextSaved = s.nextSaved := rfl
@[simp] theorem State.send_spilled (s : State) (m : Sent) : (s.send m).spilled = s.spilled := rfl
@[simp] theorem State.send_told (s : State) (m : Sent) : (s.send m).told = s.told := rfl

@[simp] theorem State.send_croft (s : State) (m : Sent) (n : Nat) : (s.send m).croft n = s.croft n := rfl

@[simp] theorem State.tell_me (s : State) (r : Record) : (s.tell r).me = s.me := rfl
@[simp] theorem State.tell_time (s : State) (r : Record) : (s.tell r).time = s.time := rfl
@[simp] theorem State.tell_crofts (s : State) (r : Record) : (s.tell r).crofts = s.crofts := rfl
@[simp] theorem State.tell_agenda (s : State) (r : Record) : (s.tell r).agenda = s.agenda := rfl
@[simp] theorem State.tell_fresh (s : State) (r : Record) : (s.tell r).fresh = s.fresh := rfl
@[simp] theorem State.tell_boot (s : State) (r : Record) : (s.tell r).boot = s.boot := rfl
@[simp] theorem State.tell_power (s : State) (r : Record) : (s.tell r).power = s.power := rfl
@[simp] theorem State.tell_hot (s : State) (r : Record) : (s.tell r).hot = s.hot := rfl
@[simp] theorem State.tell_flash0 (s : State) (r : Record) : (s.tell r).flash0 = s.flash0 := rfl
@[simp] theorem State.tell_flash1 (s : State) (r : Record) : (s.tell r).flash1 = s.flash1 := rfl
@[simp] theorem State.tell_minVer (s : State) (r : Record) : (s.tell r).minVer = s.minVer := rfl
@[simp] theorem State.tell_opKeys (s : State) (r : Record) : (s.tell r).opKeys = s.opKeys := rfl
@[simp] theorem State.tell_msillu (s : State) (r : Record) : (s.tell r).msillu = s.msillu := rfl
@[simp] theorem State.tell_seqs (s : State) (r : Record) : (s.tell r).seqs = s.seqs := rfl
@[simp] theorem State.tell_dropped (s : State) (r : Record) : (s.tell r).dropped = s.dropped := rfl
@[simp] theorem State.tell_dropSnap (s : State) (r : Record) : (s.tell r).dropSnap = s.dropSnap := rfl
@[simp] theorem State.tell_poolLive (s : State) (r : Record) : (s.tell r).poolLive = s.poolLive := rfl
@[simp] theorem State.tell_poolSnap (s : State) (r : Record) : (s.tell r).poolSnap = s.poolSnap := rfl
@[simp] theorem State.tell_round (s : State) (r : Record) : (s.tell r).round = s.round := rfl
@[simp] theorem State.tell_owners (s : State) (r : Record) : (s.tell r).owners = s.owners := rfl
@[simp] theorem State.tell_launches (s : State) (r : Record) : (s.tell r).launches = s.launches := rfl
@[simp] theorem State.tell_nextLaunch (s : State) (r : Record) : (s.tell r).nextLaunch = s.nextLaunch := rfl
@[simp] theorem State.tell_nextHandle (s : State) (r : Record) : (s.tell r).nextHandle = s.nextHandle := rfl
@[simp] theorem State.tell_served (s : State) (r : Record) : (s.tell r).served = s.served := rfl
@[simp] theorem State.tell_granaries (s : State) (r : Record) : (s.tell r).granaries = s.granaries := rfl
@[simp] theorem State.tell_hbm (s : State) (r : Record) : (s.tell r).hbm = s.hbm := rfl
@[simp] theorem State.tell_hbmPoison (s : State) (r : Record) : (s.tell r).hbmPoison = s.hbmPoison := rfl
@[simp] theorem State.tell_hamlet (s : State) (r : Record) : (s.tell r).hamlet = s.hamlet := rfl
@[simp] theorem State.tell_hub (s : State) (r : Record) : (s.tell r).hub = s.hub := rfl
@[simp] theorem State.tell_holds (s : State) (r : Record) : (s.tell r).holds = s.holds := rfl
@[simp] theorem State.tell_coll (s : State) (r : Record) : (s.tell r).coll = s.coll := rfl
@[simp] theorem State.tell_peers (s : State) (r : Record) : (s.tell r).peers = s.peers := rfl
@[simp] theorem State.tell_peer (s : State) (r : Record) : (s.tell r).peer = s.peer := rfl
@[simp] theorem State.tell_saved (s : State) (r : Record) : (s.tell r).saved = s.saved := rfl
@[simp] theorem State.tell_nextSaved (s : State) (r : Record) : (s.tell r).nextSaved = s.nextSaved := rfl
@[simp] theorem State.tell_spilled (s : State) (r : Record) : (s.tell r).spilled = s.spilled := rfl
@[simp] theorem State.tell_sent (s : State) (r : Record) : (s.tell r).sent = s.sent := rfl
@[simp] theorem State.tell_croft (s : State) (r : Record) (n : Nat) : (s.tell r).croft n = s.croft n := rfl
@[simp] theorem State.tell_outSeqs (s : State) (r : Record) : (s.tell r).outSeqs = s.outSeqs := rfl

/-- Where Sillu runs, it receives the record (R148, R260). -/
theorem State.tell_told (s : State) (r : Record) (h : s.boot = .running) : (s.tell r).told = s.told ++ [r] := by simp [State.tell, h]


/-- Where Sillu runs, a message is sent with its endpoint's next SEQ (R260, R266). -/
theorem State.send_sent (s : State) (m : Sent) (h : s.boot = .running) : (s.send m).sent = s.sent ++ [s.stamp m] := by simp [State.send, h]

/-- Where Sillu does not run, nothing is sent (R260). -/
theorem State.send_off (s : State) (m : Sent) (h : s.boot ≠ .running) : s.send m = s := by
  have h : (s.boot == Boot.running) = false := by simpa using h
  simp [State.send, h]

/-! ### A result enters the landing list -/

@[simp] theorem Croft.land_s (c : Croft) (e : Eng) (i : Instr) (sig lat : Nat) (op : LandOp) : (c.land e i sig lat op).s = c.s := rfl
@[simp] theorem Croft.land_shadow (c : Croft) (e : Eng) (i : Instr) (sig lat : Nat) (op : LandOp) : (c.land e i sig lat op).shadow = c.shadow := rfl
@[simp] theorem Croft.land_b (c : Croft) (e : Eng) (i : Instr) (sig lat : Nat) (op : LandOp) : (c.land e i sig lat op).b = c.b := rfl
@[simp] theorem Croft.land_v (c : Croft) (e : Eng) (i : Instr) (sig lat : Nat) (op : LandOp) : (c.land e i sig lat op).v = c.v := rfl
@[simp] theorem Croft.land_mode (c : Croft) (e : Eng) (i : Instr) (sig lat : Nat) (op : LandOp) : (c.land e i sig lat op).mode = c.mode := rfl
@[simp] theorem Croft.land_vclock (c : Croft) (e : Eng) (i : Instr) (sig lat : Nat) (op : LandOp) : (c.land e i sig lat op).vclock = c.vclock := rfl
@[simp] theorem Croft.land_nextVc (c : Croft) (e : Eng) (i : Instr) (sig lat : Nat) (op : LandOp) : (c.land e i sig lat op).nextVc = c.nextVc := rfl
@[simp] theorem Croft.land_atVc (c : Croft) (e : Eng) (i : Instr) (sig lat : Nat) (op : LandOp) : (c.land e i sig lat op).atVc = c.atVc := rfl
@[simp] theorem Croft.land_contract (c : Croft) (e : Eng) (i : Instr) (sig lat : Nat) (op : LandOp) : (c.land e i sig lat op).contract = c.contract := rfl
@[simp] theorem Croft.land_qstat (c : Croft) (e : Eng) (i : Instr) (sig lat : Nat) (op : LandOp) : (c.land e i sig lat op).qstat = c.qstat := rfl
@[simp] theorem Croft.land_fcode (c : Croft) (e : Eng) (i : Instr) (sig lat : Nat) (op : LandOp) : (c.land e i sig lat op).fcode = c.fcode := rfl
@[simp] theorem Croft.land_faddr (c : Croft) (e : Eng) (i : Instr) (sig lat : Nat) (op : LandOp) : (c.land e i sig lat op).faddr = c.faddr := rfl
@[simp] theorem Croft.land_fpc (c : Croft) (e : Eng) (i : Instr) (sig lat : Nat) (op : LandOp) : (c.land e i sig lat op).fpc = c.fpc := rfl
@[simp] theorem Croft.land_handler (c : Croft) (e : Eng) (i : Instr) (sig lat : Nat) (op : LandOp) : (c.land e i sig lat op).handler = c.handler := rfl
@[simp] theorem Croft.land_landing (c : Croft) (e : Eng) (i : Instr) (sig lat : Nat) (op : LandOp) : (c.land e i sig lat op).landing = c.landing := rfl
@[simp] theorem Croft.land_rngseed (c : Croft) (e : Eng) (i : Instr) (sig lat : Nat) (op : LandOp) : (c.land e i sig lat op).rngseed = c.rngseed := rfl
@[simp] theorem Croft.land_owner (c : Croft) (e : Eng) (i : Instr) (sig lat : Nat) (op : LandOp) : (c.land e i sig lat op).owner = c.owner := rfl
@[simp] theorem Croft.land_qc (c : Croft) (e : Eng) (i : Instr) (sig lat : Nat) (op : LandOp) : (c.land e i sig lat op).qc = c.qc := rfl
@[simp] theorem Croft.land_qa (c : Croft) (e : Eng) (i : Instr) (sig lat : Nat) (op : LandOp) : (c.land e i sig lat op).qa = c.qa := rfl
@[simp] theorem Croft.land_qs (c : Croft) (e : Eng) (i : Instr) (sig lat : Nat) (op : LandOp) : (c.land e i sig lat op).qs = c.qs := rfl
@[simp] theorem Croft.land_qr (c : Croft) (e : Eng) (i : Instr) (sig lat : Nat) (op : LandOp) : (c.land e i sig lat op).qr = c.qr := rfl
@[simp] theorem Croft.land_qv (c : Croft) (e : Eng) (i : Instr) (sig lat : Nat) (op : LandOp) : (c.land e i sig lat op).qv = c.qv := rfl
@[simp] theorem Croft.land_qg (c : Croft) (e : Eng) (i : Instr) (sig lat : Nat) (op : LandOp) : (c.land e i sig lat op).qg = c.qg := rfl
@[simp] theorem Croft.land_tok (c : Croft) (e : Eng) (i : Instr) (sig lat : Nat) (op : LandOp) : (c.land e i sig lat op).tok = c.tok := rfl
@[simp] theorem Croft.land_arv (c : Croft) (e : Eng) (i : Instr) (sig lat : Nat) (op : LandOp) : (c.land e i sig lat op).arv = c.arv := rfl
@[simp] theorem Croft.land_arvRes (c : Croft) (e : Eng) (i : Instr) (sig lat : Nat) (op : LandOp) : (c.land e i sig lat op).arvRes = c.arvRes := rfl
@[simp] theorem Croft.land_sigWait (c : Croft) (e : Eng) (i : Instr) (sig lat : Nat) (op : LandOp) : (c.land e i sig lat op).sigWait = c.sigWait := rfl
@[simp] theorem Croft.land_queues (c : Croft) (e : Eng) (i : Instr) (sig lat : Nat) (op : LandOp) : (c.land e i sig lat op).queues = c.queues := rfl
@[simp] theorem Croft.land_split (c : Croft) (e : Eng) (i : Instr) (sig lat : Nat) (op : LandOp) : (c.land e i sig lat op).split = c.split := rfl
@[simp] theorem Croft.land_seq (c : Croft) (e : Eng) (i : Instr) (sig lat : Nat) (op : LandOp) : (c.land e i sig lat op).seq = c.seq := rfl
@[simp] theorem Croft.land_imem (c : Croft) (e : Eng) (i : Instr) (sig lat : Nat) (op : LandOp) : (c.land e i sig lat op).imem = c.imem := rfl
@[simp] theorem Croft.land_overlay (c : Croft) (e : Eng) (i : Instr) (sig lat : Nat) (op : LandOp) : (c.land e i sig lat op).overlay = c.overlay := rfl
@[simp] theorem Croft.land_phases (c : Croft) (e : Eng) (i : Instr) (sig lat : Nat) (op : LandOp) : (c.land e i sig lat op).phases = c.phases := rfl
@[simp] theorem Croft.land_sp (c : Croft) (e : Eng) (i : Instr) (sig lat : Nat) (op : LandOp) : (c.land e i sig lat op).sp = c.sp := rfl
@[simp] theorem Croft.land_acm (c : Croft) (e : Eng) (i : Instr) (sig lat : Nat) (op : LandOp) : (c.land e i sig lat op).acm = c.acm := rfl
@[simp] theorem Croft.land_zclear (c : Croft) (e : Eng) (i : Instr) (sig lat : Nat) (op : LandOp) : (c.land e i sig lat op).zclear = c.zclear := rfl
@[simp] theorem Croft.land_gates (c : Croft) (e : Eng) (i : Instr) (sig lat : Nat) (op : LandOp) : (c.land e i sig lat op).gates = c.gates := rfl
@[simp] theorem Croft.land_gateAcc (c : Croft) (e : Eng) (i : Instr) (sig lat : Nat) (op : LandOp) : (c.land e i sig lat op).gateAcc = c.gateAcc := rfl
@[simp] theorem Croft.land_gateq (c : Croft) (e : Eng) (i : Instr) (sig lat : Nat) (op : LandOp) : (c.land e i sig lat op).gateq = c.gateq := rfl
@[simp] theorem Croft.land_records (c : Croft) (e : Eng) (i : Instr) (sig lat : Nat) (op : LandOp) : (c.land e i sig lat op).records = c.records := rfl
@[simp] theorem Croft.land_mtab (c : Croft) (e : Eng) (i : Instr) (sig lat : Nat) (op : LandOp) : (c.land e i sig lat op).mtab = c.mtab := rfl
@[simp] theorem Croft.land_active (c : Croft) (e : Eng) (i : Instr) (sig lat : Nat) (op : LandOp) : (c.land e i sig lat op).active = c.active := rfl
@[simp] theorem Croft.land_live (c : Croft) (e : Eng) (i : Instr) (sig lat : Nat) (op : LandOp) : (c.land e i sig lat op).live = c.live := rfl
@[simp] theorem Croft.land_nest (c : Croft) (e : Eng) (i : Instr) (sig lat : Nat) (op : LandOp) : (c.land e i sig lat op).nest = c.nest := rfl
@[simp] theorem Croft.land_armed (c : Croft) (e : Eng) (i : Instr) (sig lat : Nat) (op : LandOp) : (c.land e i sig lat op).armed = c.armed := rfl
@[simp] theorem Croft.land_governs (c : Croft) (e : Eng) (i : Instr) (sig lat : Nat) (op : LandOp) : (c.land e i sig lat op).governs = c.governs := rfl
@[simp] theorem Croft.land_grade (c : Croft) (e : Eng) (i : Instr) (sig lat : Nat) (op : LandOp) : (c.land e i sig lat op).grade = c.grade := rfl
@[simp] theorem Croft.land_want (c : Croft) (e : Eng) (i : Instr) (sig lat : Nat) (op : LandOp) : (c.land e i sig lat op).want = c.want := rfl
@[simp] theorem Croft.land_share (c : Croft) (e : Eng) (i : Instr) (sig lat : Nat) (op : LandOp) : (c.land e i sig lat op).share = c.share := rfl
@[simp] theorem Croft.land_plan (c : Croft) (e : Eng) (i : Instr) (sig lat : Nat) (op : LandOp) : (c.land e i sig lat op).plan = c.plan := rfl
@[simp] theorem Croft.land_planSt (c : Croft) (e : Eng) (i : Instr) (sig lat : Nat) (op : LandOp) : (c.land e i sig lat op).planSt = c.planSt := rfl
@[simp] theorem Croft.land_rise (c : Croft) (e : Eng) (i : Instr) (sig lat : Nat) (op : LandOp) : (c.land e i sig lat op).rise = c.rise := rfl
@[simp] theorem Croft.land_riseOn (c : Croft) (e : Eng) (i : Instr) (sig lat : Nat) (op : LandOp) : (c.land e i sig lat op).riseOn = c.riseOn := rfl
@[simp] theorem Croft.land_slots (c : Croft) (e : Eng) (i : Instr) (sig lat : Nat) (op : LandOp) : (c.land e i sig lat op).slots = c.slots := rfl
@[simp] theorem Croft.land_slot (c : Croft) (e : Eng) (i : Instr) (sig lat : Nat) (op : LandOp) : (c.land e i sig lat op).slot = c.slot := rfl
@[simp] theorem Croft.land_stand (c : Croft) (e : Eng) (i : Instr) (sig lat : Nat) (op : LandOp) : (c.land e i sig lat op).stand = c.stand := rfl
@[simp] theorem Croft.land_used (c : Croft) (e : Eng) (i : Instr) (sig lat : Nat) (op : LandOp) : (c.land e i sig lat op).used = c.used := rfl
@[simp] theorem Croft.land_abs (c : Croft) (e : Eng) (i : Instr) (sig lat : Nat) (op : LandOp) : (c.land e i sig lat op).abs = c.abs := rfl
@[simp] theorem Croft.land_copyq (c : Croft) (e : Eng) (i : Instr) (sig lat : Nat) (op : LandOp) : (c.land e i sig lat op).copyq = c.copyq := rfl
@[simp] theorem Croft.land_indexq (c : Croft) (e : Eng) (i : Instr) (sig lat : Nat) (op : LandOp) : (c.land e i sig lat op).indexq = c.indexq := rfl
@[simp] theorem Croft.land_genq (c : Croft) (e : Eng) (i : Instr) (sig lat : Nat) (op : LandOp) : (c.land e i sig lat op).genq = c.genq := rfl
@[simp] theorem Croft.land_rows (c : Croft) (e : Eng) (i : Instr) (sig lat : Nat) (op : LandOp) : (c.land e i sig lat op).rows = c.rows := rfl
@[simp] theorem Croft.land_stages (c : Croft) (e : Eng) (i : Instr) (sig lat : Nat) (op : LandOp) : (c.land e i sig lat op).stages = c.stages := rfl
@[simp] theorem Croft.land_staging (c : Croft) (e : Eng) (i : Instr) (sig lat : Nat) (op : LandOp) : (c.land e i sig lat op).staging = c.staging := rfl
@[simp] theorem Croft.land_budget (c : Croft) (e : Eng) (i : Instr) (sig lat : Nat) (op : LandOp) : (c.land e i sig lat op).budget = c.budget := rfl
@[simp] theorem Croft.land_collValid (c : Croft) (e : Eng) (i : Instr) (sig lat : Nat) (op : LandOp) : (c.land e i sig lat op).collValid = c.collValid := rfl
@[simp] theorem Croft.land_frame (c : Croft) (e : Eng) (i : Instr) (sig lat : Nat) (op : LandOp) : (c.land e i sig lat op).frame = c.frame := rfl
@[simp] theorem Croft.land_draining (c : Croft) (e : Eng) (i : Instr) (sig lat : Nat) (op : LandOp) : (c.land e i sig lat op).draining = c.draining := rfl
@[simp] theorem Croft.land_freeze (c : Croft) (e : Eng) (i : Instr) (sig lat : Nat) (op : LandOp) : (c.land e i sig lat op).freeze = c.freeze := rfl
@[simp] theorem Croft.land_furrow (c : Croft) (e : Eng) (i : Instr) (sig lat : Nat) (op : LandOp) : (c.land e i sig lat op).furrow = c.furrow := rfl
@[simp] theorem Croft.land_nextFur (c : Croft) (e : Eng) (i : Instr) (sig lat : Nat) (op : LandOp) : (c.land e i sig lat op).nextFur = c.nextFur := rfl
@[simp] theorem Croft.land_lastLaunch (c : Croft) (e : Eng) (i : Instr) (sig lat : Nat) (op : LandOp) : (c.land e i sig lat op).lastLaunch = c.lastLaunch := rfl
@[simp] theorem Croft.land_reissue (c : Croft) (e : Eng) (i : Instr) (sig lat : Nat) (op : LandOp) : (c.land e i sig lat op).reissue = c.reissue := rfl
@[simp] theorem Croft.land_preload (c : Croft) (e : Eng) (i : Instr) (sig lat : Nat) (op : LandOp) : (c.land e i sig lat op).preload = c.preload := rfl
@[simp] theorem Croft.land_ended (c : Croft) (e : Eng) (i : Instr) (sig lat : Nat) (op : LandOp) : (c.land e i sig lat op).ended = c.ended := rfl
@[simp] theorem Croft.land_released (c : Croft) (e : Eng) (i : Instr) (sig lat : Nat) (op : LandOp) : (c.land e i sig lat op).released = c.released := rfl
@[simp] theorem Croft.land_zeroing (c : Croft) (e : Eng) (i : Instr) (sig lat : Nat) (op : LandOp) : (c.land e i sig lat op).zeroing = c.zeroing := rfl
@[simp] theorem Croft.land_vpush (c : Croft) (e : Eng) (i : Instr) (sig lat : Nat) (op : LandOp) : (c.land e i sig lat op).vpush = c.vpush := rfl
@[simp] theorem Croft.land_stq (c : Croft) (e : Eng) (i : Instr) (sig lat : Nat) (op : LandOp) : (c.land e i sig lat op).stq = c.stq := rfl
@[simp] theorem Croft.land_accs (c : Croft) (e : Eng) (i : Instr) (sig lat : Nat) (op : LandOp) : (c.land e i sig lat op).accs = c.accs := rfl
@[simp] theorem Croft.land_fences (c : Croft) (e : Eng) (i : Instr) (sig lat : Nat) (op : LandOp) : (c.land e i sig lat op).fences = c.fences := rfl
@[simp] theorem Croft.land_tlb (c : Croft) (e : Eng) (i : Instr) (sig lat : Nat) (op : LandOp) : (c.land e i sig lat op).tlb = c.tlb := rfl
@[simp] theorem Croft.land_walks (c : Croft) (e : Eng) (i : Instr) (sig lat : Nat) (op : LandOp) : (c.land e i sig lat op).walks = c.walks := rfl
@[simp] theorem Croft.land_mons (c : Croft) (e : Eng) (i : Instr) (sig lat : Nat) (op : LandOp) : (c.land e i sig lat op).mons = c.mons := rfl
@[simp] theorem Croft.land_snapO (c : Croft) (e : Eng) (i : Instr) (sig lat : Nat) (op : LandOp) : (c.land e i sig lat op).snapO = c.snapO := rfl
@[simp] theorem Croft.land_snapS (c : Croft) (e : Eng) (i : Instr) (sig lat : Nat) (op : LandOp) : (c.land e i sig lat op).snapS = c.snapS := rfl
@[simp] theorem Croft.land_shorts (c : Croft) (e : Eng) (i : Instr) (sig lat : Nat) (op : LandOp) : (c.land e i sig lat op).shorts = c.shorts := rfl
@[simp] theorem Croft.land_slows (c : Croft) (e : Eng) (i : Instr) (sig lat : Nat) (op : LandOp) : (c.land e i sig lat op).slows = c.slows := rfl
@[simp] theorem Croft.land_bells (c : Croft) (e : Eng) (i : Instr) (sig lat : Nat) (op : LandOp) : (c.land e i sig lat op).bells = c.bells := rfl
@[simp] theorem Croft.land_eccs (c : Croft) (e : Eng) (i : Instr) (sig lat : Nat) (op : LandOp) : (c.land e i sig lat op).eccs = c.eccs := rfl
@[simp] theorem Croft.land_eccTold (c : Croft) (e : Eng) (i : Instr) (sig lat : Nat) (op : LandOp) : (c.land e i sig lat op).eccTold = c.eccTold := rfl
@[simp] theorem Croft.land_now (c : Croft) (e : Eng) (i : Instr) (sig lat : Nat) (op : LandOp) : (c.land e i sig lat op).now = c.now := rfl
@[simp] theorem Croft.land_issuePc (c : Croft) (e : Eng) (i : Instr) (sig lat : Nat) (op : LandOp) : (c.land e i sig lat op).issuePc = c.issuePc := rfl
@[simp] theorem Croft.land_issueSeq (c : Croft) (e : Eng) (i : Instr) (sig lat : Nat) (op : LandOp) : (c.land e i sig lat op).issueSeq = c.issueSeq := rfl
@[simp] theorem Croft.land_kept (c : Croft) (e : Eng) (i : Instr) (sig lat : Nat) (op : LandOp) : (c.land e i sig lat op).kept = c.kept := rfl
@[simp] theorem Croft.land_waited (c : Croft) (e : Eng) (i : Instr) (sig lat : Nat) (op : LandOp) : (c.land e i sig lat op).waited = c.waited := rfl
@[simp] theorem Croft.land_turn (c : Croft) (e : Eng) (i : Instr) (sig lat : Nat) (op : LandOp) : (c.land e i sig lat op).turn = c.turn := rfl
@[simp] theorem Croft.land_spin (c : Croft) (e : Eng) (i : Instr) (sig lat : Nat) (op : LandOp) : (c.land e i sig lat op).spin = c.spin := rfl
@[simp] theorem Croft.land_faulted (c : Croft) (e : Eng) (i : Instr) (sig lat : Nat) (op : LandOp) : (c.land e i sig lat op).faulted = c.faulted := rfl
@[simp] theorem Croft.land_qrLate (c : Croft) (e : Eng) (i : Instr) (sig lat : Nat) (op : LandOp) : (c.land e i sig lat op).qrLate = c.qrLate := rfl
@[simp] theorem Croft.land_pressed (c : Croft) (e : Eng) (i : Instr) (sig lat : Nat) (op : LandOp) : (c.land e i sig lat op).pressed = c.pressed := rfl

/-! ### A queue is replaced -/

@[simp] theorem Croft.setQueue_s (c : Croft) (e : Eng) (q : List QEntry) : (c.setQueue e q).s = c.s := rfl
@[simp] theorem Croft.setQueue_shadow (c : Croft) (e : Eng) (q : List QEntry) : (c.setQueue e q).shadow = c.shadow := rfl
@[simp] theorem Croft.setQueue_b (c : Croft) (e : Eng) (q : List QEntry) : (c.setQueue e q).b = c.b := rfl
@[simp] theorem Croft.setQueue_v (c : Croft) (e : Eng) (q : List QEntry) : (c.setQueue e q).v = c.v := rfl
@[simp] theorem Croft.setQueue_mode (c : Croft) (e : Eng) (q : List QEntry) : (c.setQueue e q).mode = c.mode := rfl
@[simp] theorem Croft.setQueue_vclock (c : Croft) (e : Eng) (q : List QEntry) : (c.setQueue e q).vclock = c.vclock := rfl
@[simp] theorem Croft.setQueue_nextVc (c : Croft) (e : Eng) (q : List QEntry) : (c.setQueue e q).nextVc = c.nextVc := rfl
@[simp] theorem Croft.setQueue_atVc (c : Croft) (e : Eng) (q : List QEntry) : (c.setQueue e q).atVc = c.atVc := rfl
@[simp] theorem Croft.setQueue_contract (c : Croft) (e : Eng) (q : List QEntry) : (c.setQueue e q).contract = c.contract := rfl
@[simp] theorem Croft.setQueue_qstat (c : Croft) (e : Eng) (q : List QEntry) : (c.setQueue e q).qstat = c.qstat := rfl
@[simp] theorem Croft.setQueue_fcode (c : Croft) (e : Eng) (q : List QEntry) : (c.setQueue e q).fcode = c.fcode := rfl
@[simp] theorem Croft.setQueue_faddr (c : Croft) (e : Eng) (q : List QEntry) : (c.setQueue e q).faddr = c.faddr := rfl
@[simp] theorem Croft.setQueue_fpc (c : Croft) (e : Eng) (q : List QEntry) : (c.setQueue e q).fpc = c.fpc := rfl
@[simp] theorem Croft.setQueue_handler (c : Croft) (e : Eng) (q : List QEntry) : (c.setQueue e q).handler = c.handler := rfl
@[simp] theorem Croft.setQueue_landing (c : Croft) (e : Eng) (q : List QEntry) : (c.setQueue e q).landing = c.landing := rfl
@[simp] theorem Croft.setQueue_rngseed (c : Croft) (e : Eng) (q : List QEntry) : (c.setQueue e q).rngseed = c.rngseed := rfl
@[simp] theorem Croft.setQueue_owner (c : Croft) (e : Eng) (q : List QEntry) : (c.setQueue e q).owner = c.owner := rfl
@[simp] theorem Croft.setQueue_qc (c : Croft) (e : Eng) (q : List QEntry) : (c.setQueue e q).qc = c.qc := rfl
@[simp] theorem Croft.setQueue_qa (c : Croft) (e : Eng) (q : List QEntry) : (c.setQueue e q).qa = c.qa := rfl
@[simp] theorem Croft.setQueue_qs (c : Croft) (e : Eng) (q : List QEntry) : (c.setQueue e q).qs = c.qs := rfl
@[simp] theorem Croft.setQueue_qr (c : Croft) (e : Eng) (q : List QEntry) : (c.setQueue e q).qr = c.qr := rfl
@[simp] theorem Croft.setQueue_qv (c : Croft) (e : Eng) (q : List QEntry) : (c.setQueue e q).qv = c.qv := rfl
@[simp] theorem Croft.setQueue_qg (c : Croft) (e : Eng) (q : List QEntry) : (c.setQueue e q).qg = c.qg := rfl
@[simp] theorem Croft.setQueue_tok (c : Croft) (e : Eng) (q : List QEntry) : (c.setQueue e q).tok = c.tok := rfl
@[simp] theorem Croft.setQueue_arv (c : Croft) (e : Eng) (q : List QEntry) : (c.setQueue e q).arv = c.arv := rfl
@[simp] theorem Croft.setQueue_arvRes (c : Croft) (e : Eng) (q : List QEntry) : (c.setQueue e q).arvRes = c.arvRes := rfl
@[simp] theorem Croft.setQueue_sigWait (c : Croft) (e : Eng) (q : List QEntry) : (c.setQueue e q).sigWait = c.sigWait := rfl
@[simp] theorem Croft.setQueue_split (c : Croft) (e : Eng) (q : List QEntry) : (c.setQueue e q).split = c.split := rfl
@[simp] theorem Croft.setQueue_seq (c : Croft) (e : Eng) (q : List QEntry) : (c.setQueue e q).seq = c.seq := rfl
@[simp] theorem Croft.setQueue_imem (c : Croft) (e : Eng) (q : List QEntry) : (c.setQueue e q).imem = c.imem := rfl
@[simp] theorem Croft.setQueue_overlay (c : Croft) (e : Eng) (q : List QEntry) : (c.setQueue e q).overlay = c.overlay := rfl
@[simp] theorem Croft.setQueue_lands (c : Croft) (e : Eng) (q : List QEntry) : (c.setQueue e q).lands = c.lands := rfl
@[simp] theorem Croft.setQueue_phases (c : Croft) (e : Eng) (q : List QEntry) : (c.setQueue e q).phases = c.phases := rfl
@[simp] theorem Croft.setQueue_sp (c : Croft) (e : Eng) (q : List QEntry) : (c.setQueue e q).sp = c.sp := rfl
@[simp] theorem Croft.setQueue_acm (c : Croft) (e : Eng) (q : List QEntry) : (c.setQueue e q).acm = c.acm := rfl
@[simp] theorem Croft.setQueue_zclear (c : Croft) (e : Eng) (q : List QEntry) : (c.setQueue e q).zclear = c.zclear := rfl
@[simp] theorem Croft.setQueue_gates (c : Croft) (e : Eng) (q : List QEntry) : (c.setQueue e q).gates = c.gates := rfl
@[simp] theorem Croft.setQueue_gateAcc (c : Croft) (e : Eng) (q : List QEntry) : (c.setQueue e q).gateAcc = c.gateAcc := rfl
@[simp] theorem Croft.setQueue_gateq (c : Croft) (e : Eng) (q : List QEntry) : (c.setQueue e q).gateq = c.gateq := rfl
@[simp] theorem Croft.setQueue_records (c : Croft) (e : Eng) (q : List QEntry) : (c.setQueue e q).records = c.records := rfl
@[simp] theorem Croft.setQueue_mtab (c : Croft) (e : Eng) (q : List QEntry) : (c.setQueue e q).mtab = c.mtab := rfl
@[simp] theorem Croft.setQueue_active (c : Croft) (e : Eng) (q : List QEntry) : (c.setQueue e q).active = c.active := rfl
@[simp] theorem Croft.setQueue_live (c : Croft) (e : Eng) (q : List QEntry) : (c.setQueue e q).live = c.live := rfl
@[simp] theorem Croft.setQueue_nest (c : Croft) (e : Eng) (q : List QEntry) : (c.setQueue e q).nest = c.nest := rfl
@[simp] theorem Croft.setQueue_armed (c : Croft) (e : Eng) (q : List QEntry) : (c.setQueue e q).armed = c.armed := rfl
@[simp] theorem Croft.setQueue_governs (c : Croft) (e : Eng) (q : List QEntry) : (c.setQueue e q).governs = c.governs := rfl
@[simp] theorem Croft.setQueue_grade (c : Croft) (e : Eng) (q : List QEntry) : (c.setQueue e q).grade = c.grade := rfl
@[simp] theorem Croft.setQueue_want (c : Croft) (e : Eng) (q : List QEntry) : (c.setQueue e q).want = c.want := rfl
@[simp] theorem Croft.setQueue_share (c : Croft) (e : Eng) (q : List QEntry) : (c.setQueue e q).share = c.share := rfl
@[simp] theorem Croft.setQueue_plan (c : Croft) (e : Eng) (q : List QEntry) : (c.setQueue e q).plan = c.plan := rfl
@[simp] theorem Croft.setQueue_planSt (c : Croft) (e : Eng) (q : List QEntry) : (c.setQueue e q).planSt = c.planSt := rfl
@[simp] theorem Croft.setQueue_rise (c : Croft) (e : Eng) (q : List QEntry) : (c.setQueue e q).rise = c.rise := rfl
@[simp] theorem Croft.setQueue_riseOn (c : Croft) (e : Eng) (q : List QEntry) : (c.setQueue e q).riseOn = c.riseOn := rfl
@[simp] theorem Croft.setQueue_slots (c : Croft) (e : Eng) (q : List QEntry) : (c.setQueue e q).slots = c.slots := rfl
@[simp] theorem Croft.setQueue_slot (c : Croft) (e : Eng) (q : List QEntry) : (c.setQueue e q).slot = c.slot := rfl
@[simp] theorem Croft.setQueue_stand (c : Croft) (e : Eng) (q : List QEntry) : (c.setQueue e q).stand = c.stand := rfl
@[simp] theorem Croft.setQueue_used (c : Croft) (e : Eng) (q : List QEntry) : (c.setQueue e q).used = c.used := rfl
@[simp] theorem Croft.setQueue_abs (c : Croft) (e : Eng) (q : List QEntry) : (c.setQueue e q).abs = c.abs := rfl
@[simp] theorem Croft.setQueue_copyq (c : Croft) (e : Eng) (q : List QEntry) : (c.setQueue e q).copyq = c.copyq := rfl
@[simp] theorem Croft.setQueue_indexq (c : Croft) (e : Eng) (q : List QEntry) : (c.setQueue e q).indexq = c.indexq := rfl
@[simp] theorem Croft.setQueue_genq (c : Croft) (e : Eng) (q : List QEntry) : (c.setQueue e q).genq = c.genq := rfl
@[simp] theorem Croft.setQueue_rows (c : Croft) (e : Eng) (q : List QEntry) : (c.setQueue e q).rows = c.rows := rfl
@[simp] theorem Croft.setQueue_stages (c : Croft) (e : Eng) (q : List QEntry) : (c.setQueue e q).stages = c.stages := rfl
@[simp] theorem Croft.setQueue_staging (c : Croft) (e : Eng) (q : List QEntry) : (c.setQueue e q).staging = c.staging := rfl
@[simp] theorem Croft.setQueue_budget (c : Croft) (e : Eng) (q : List QEntry) : (c.setQueue e q).budget = c.budget := rfl
@[simp] theorem Croft.setQueue_collValid (c : Croft) (e : Eng) (q : List QEntry) : (c.setQueue e q).collValid = c.collValid := rfl
@[simp] theorem Croft.setQueue_frame (c : Croft) (e : Eng) (q : List QEntry) : (c.setQueue e q).frame = c.frame := rfl
@[simp] theorem Croft.setQueue_draining (c : Croft) (e : Eng) (q : List QEntry) : (c.setQueue e q).draining = c.draining := rfl
@[simp] theorem Croft.setQueue_freeze (c : Croft) (e : Eng) (q : List QEntry) : (c.setQueue e q).freeze = c.freeze := rfl
@[simp] theorem Croft.setQueue_furrow (c : Croft) (e : Eng) (q : List QEntry) : (c.setQueue e q).furrow = c.furrow := rfl
@[simp] theorem Croft.setQueue_nextFur (c : Croft) (e : Eng) (q : List QEntry) : (c.setQueue e q).nextFur = c.nextFur := rfl
@[simp] theorem Croft.setQueue_lastLaunch (c : Croft) (e : Eng) (q : List QEntry) : (c.setQueue e q).lastLaunch = c.lastLaunch := rfl
@[simp] theorem Croft.setQueue_reissue (c : Croft) (e : Eng) (q : List QEntry) : (c.setQueue e q).reissue = c.reissue := rfl
@[simp] theorem Croft.setQueue_preload (c : Croft) (e : Eng) (q : List QEntry) : (c.setQueue e q).preload = c.preload := rfl
@[simp] theorem Croft.setQueue_ended (c : Croft) (e : Eng) (q : List QEntry) : (c.setQueue e q).ended = c.ended := rfl
@[simp] theorem Croft.setQueue_released (c : Croft) (e : Eng) (q : List QEntry) : (c.setQueue e q).released = c.released := rfl
@[simp] theorem Croft.setQueue_zeroing (c : Croft) (e : Eng) (q : List QEntry) : (c.setQueue e q).zeroing = c.zeroing := rfl
@[simp] theorem Croft.setQueue_vpush (c : Croft) (e : Eng) (q : List QEntry) : (c.setQueue e q).vpush = c.vpush := rfl
@[simp] theorem Croft.setQueue_stq (c : Croft) (e : Eng) (q : List QEntry) : (c.setQueue e q).stq = c.stq := rfl
@[simp] theorem Croft.setQueue_accs (c : Croft) (e : Eng) (q : List QEntry) : (c.setQueue e q).accs = c.accs := rfl
@[simp] theorem Croft.setQueue_fences (c : Croft) (e : Eng) (q : List QEntry) : (c.setQueue e q).fences = c.fences := rfl
@[simp] theorem Croft.setQueue_tlb (c : Croft) (e : Eng) (q : List QEntry) : (c.setQueue e q).tlb = c.tlb := rfl
@[simp] theorem Croft.setQueue_walks (c : Croft) (e : Eng) (q : List QEntry) : (c.setQueue e q).walks = c.walks := rfl
@[simp] theorem Croft.setQueue_mons (c : Croft) (e : Eng) (q : List QEntry) : (c.setQueue e q).mons = c.mons := rfl
@[simp] theorem Croft.setQueue_snapO (c : Croft) (e : Eng) (q : List QEntry) : (c.setQueue e q).snapO = c.snapO := rfl
@[simp] theorem Croft.setQueue_snapS (c : Croft) (e : Eng) (q : List QEntry) : (c.setQueue e q).snapS = c.snapS := rfl
@[simp] theorem Croft.setQueue_shorts (c : Croft) (e : Eng) (q : List QEntry) : (c.setQueue e q).shorts = c.shorts := rfl
@[simp] theorem Croft.setQueue_slows (c : Croft) (e : Eng) (q : List QEntry) : (c.setQueue e q).slows = c.slows := rfl
@[simp] theorem Croft.setQueue_bells (c : Croft) (e : Eng) (q : List QEntry) : (c.setQueue e q).bells = c.bells := rfl
@[simp] theorem Croft.setQueue_eccs (c : Croft) (e : Eng) (q : List QEntry) : (c.setQueue e q).eccs = c.eccs := rfl
@[simp] theorem Croft.setQueue_eccTold (c : Croft) (e : Eng) (q : List QEntry) : (c.setQueue e q).eccTold = c.eccTold := rfl
@[simp] theorem Croft.setQueue_now (c : Croft) (e : Eng) (q : List QEntry) : (c.setQueue e q).now = c.now := rfl
@[simp] theorem Croft.setQueue_issuePc (c : Croft) (e : Eng) (q : List QEntry) : (c.setQueue e q).issuePc = c.issuePc := rfl
@[simp] theorem Croft.setQueue_issueSeq (c : Croft) (e : Eng) (q : List QEntry) : (c.setQueue e q).issueSeq = c.issueSeq := rfl
@[simp] theorem Croft.setQueue_kept (c : Croft) (e : Eng) (q : List QEntry) : (c.setQueue e q).kept = c.kept := rfl
@[simp] theorem Croft.setQueue_waited (c : Croft) (e : Eng) (q : List QEntry) : (c.setQueue e q).waited = c.waited := rfl
@[simp] theorem Croft.setQueue_turn (c : Croft) (e : Eng) (q : List QEntry) : (c.setQueue e q).turn = c.turn := rfl
@[simp] theorem Croft.setQueue_spin (c : Croft) (e : Eng) (q : List QEntry) : (c.setQueue e q).spin = c.spin := rfl
@[simp] theorem Croft.setQueue_faulted (c : Croft) (e : Eng) (q : List QEntry) : (c.setQueue e q).faulted = c.faulted := rfl
@[simp] theorem Croft.setQueue_qrLate (c : Croft) (e : Eng) (q : List QEntry) : (c.setQueue e q).qrLate = c.qrLate := rfl
@[simp] theorem Croft.setQueue_pressed (c : Croft) (e : Eng) (q : List QEntry) : (c.setQueue e q).pressed = c.pressed := rfl

/-! ### Flags are raised -/

@[simp] theorem Croft.raise_s (c : Croft) (f : Flags) : (c.raise f).s = c.s := rfl
@[simp] theorem Croft.raise_shadow (c : Croft) (f : Flags) : (c.raise f).shadow = c.shadow := rfl
@[simp] theorem Croft.raise_b (c : Croft) (f : Flags) : (c.raise f).b = c.b := rfl
@[simp] theorem Croft.raise_v (c : Croft) (f : Flags) : (c.raise f).v = c.v := rfl
@[simp] theorem Croft.raise_mode (c : Croft) (f : Flags) : (c.raise f).mode = c.mode := rfl
@[simp] theorem Croft.raise_vclock (c : Croft) (f : Flags) : (c.raise f).vclock = c.vclock := rfl
@[simp] theorem Croft.raise_nextVc (c : Croft) (f : Flags) : (c.raise f).nextVc = c.nextVc := rfl
@[simp] theorem Croft.raise_atVc (c : Croft) (f : Flags) : (c.raise f).atVc = c.atVc := rfl
@[simp] theorem Croft.raise_contract (c : Croft) (f : Flags) : (c.raise f).contract = c.contract := rfl
@[simp] theorem Croft.raise_fcode (c : Croft) (f : Flags) : (c.raise f).fcode = c.fcode := rfl
@[simp] theorem Croft.raise_faddr (c : Croft) (f : Flags) : (c.raise f).faddr = c.faddr := rfl
@[simp] theorem Croft.raise_fpc (c : Croft) (f : Flags) : (c.raise f).fpc = c.fpc := rfl
@[simp] theorem Croft.raise_handler (c : Croft) (f : Flags) : (c.raise f).handler = c.handler := rfl
@[simp] theorem Croft.raise_landing (c : Croft) (f : Flags) : (c.raise f).landing = c.landing := rfl
@[simp] theorem Croft.raise_rngseed (c : Croft) (f : Flags) : (c.raise f).rngseed = c.rngseed := rfl
@[simp] theorem Croft.raise_owner (c : Croft) (f : Flags) : (c.raise f).owner = c.owner := rfl
@[simp] theorem Croft.raise_qc (c : Croft) (f : Flags) : (c.raise f).qc = c.qc := rfl
@[simp] theorem Croft.raise_qa (c : Croft) (f : Flags) : (c.raise f).qa = c.qa := rfl
@[simp] theorem Croft.raise_qs (c : Croft) (f : Flags) : (c.raise f).qs = c.qs := rfl
@[simp] theorem Croft.raise_qr (c : Croft) (f : Flags) : (c.raise f).qr = c.qr := rfl
@[simp] theorem Croft.raise_qv (c : Croft) (f : Flags) : (c.raise f).qv = c.qv := rfl
@[simp] theorem Croft.raise_qg (c : Croft) (f : Flags) : (c.raise f).qg = c.qg := rfl
@[simp] theorem Croft.raise_tok (c : Croft) (f : Flags) : (c.raise f).tok = c.tok := rfl
@[simp] theorem Croft.raise_arv (c : Croft) (f : Flags) : (c.raise f).arv = c.arv := rfl
@[simp] theorem Croft.raise_arvRes (c : Croft) (f : Flags) : (c.raise f).arvRes = c.arvRes := rfl
@[simp] theorem Croft.raise_sigWait (c : Croft) (f : Flags) : (c.raise f).sigWait = c.sigWait := rfl
@[simp] theorem Croft.raise_queues (c : Croft) (f : Flags) : (c.raise f).queues = c.queues := rfl
@[simp] theorem Croft.raise_split (c : Croft) (f : Flags) : (c.raise f).split = c.split := rfl
@[simp] theorem Croft.raise_seq (c : Croft) (f : Flags) : (c.raise f).seq = c.seq := rfl
@[simp] theorem Croft.raise_imem (c : Croft) (f : Flags) : (c.raise f).imem = c.imem := rfl
@[simp] theorem Croft.raise_overlay (c : Croft) (f : Flags) : (c.raise f).overlay = c.overlay := rfl
@[simp] theorem Croft.raise_lands (c : Croft) (f : Flags) : (c.raise f).lands = c.lands := rfl
@[simp] theorem Croft.raise_phases (c : Croft) (f : Flags) : (c.raise f).phases = c.phases := rfl
@[simp] theorem Croft.raise_sp (c : Croft) (f : Flags) : (c.raise f).sp = c.sp := rfl
@[simp] theorem Croft.raise_acm (c : Croft) (f : Flags) : (c.raise f).acm = c.acm := rfl
@[simp] theorem Croft.raise_zclear (c : Croft) (f : Flags) : (c.raise f).zclear = c.zclear := rfl
@[simp] theorem Croft.raise_gates (c : Croft) (f : Flags) : (c.raise f).gates = c.gates := rfl
@[simp] theorem Croft.raise_gateAcc (c : Croft) (f : Flags) : (c.raise f).gateAcc = c.gateAcc := rfl
@[simp] theorem Croft.raise_gateq (c : Croft) (f : Flags) : (c.raise f).gateq = c.gateq := rfl
@[simp] theorem Croft.raise_records (c : Croft) (f : Flags) : (c.raise f).records = c.records := rfl
@[simp] theorem Croft.raise_mtab (c : Croft) (f : Flags) : (c.raise f).mtab = c.mtab := rfl
@[simp] theorem Croft.raise_active (c : Croft) (f : Flags) : (c.raise f).active = c.active := rfl
@[simp] theorem Croft.raise_live (c : Croft) (f : Flags) : (c.raise f).live = c.live := rfl
@[simp] theorem Croft.raise_nest (c : Croft) (f : Flags) : (c.raise f).nest = c.nest := rfl
@[simp] theorem Croft.raise_armed (c : Croft) (f : Flags) : (c.raise f).armed = c.armed := rfl
@[simp] theorem Croft.raise_governs (c : Croft) (f : Flags) : (c.raise f).governs = c.governs := rfl
@[simp] theorem Croft.raise_grade (c : Croft) (f : Flags) : (c.raise f).grade = c.grade := rfl
@[simp] theorem Croft.raise_want (c : Croft) (f : Flags) : (c.raise f).want = c.want := rfl
@[simp] theorem Croft.raise_share (c : Croft) (f : Flags) : (c.raise f).share = c.share := rfl
@[simp] theorem Croft.raise_plan (c : Croft) (f : Flags) : (c.raise f).plan = c.plan := rfl
@[simp] theorem Croft.raise_planSt (c : Croft) (f : Flags) : (c.raise f).planSt = c.planSt := rfl
@[simp] theorem Croft.raise_rise (c : Croft) (f : Flags) : (c.raise f).rise = c.rise := rfl
@[simp] theorem Croft.raise_riseOn (c : Croft) (f : Flags) : (c.raise f).riseOn = c.riseOn := rfl
@[simp] theorem Croft.raise_slots (c : Croft) (f : Flags) : (c.raise f).slots = c.slots := rfl
@[simp] theorem Croft.raise_slot (c : Croft) (f : Flags) : (c.raise f).slot = c.slot := rfl
@[simp] theorem Croft.raise_stand (c : Croft) (f : Flags) : (c.raise f).stand = c.stand := rfl
@[simp] theorem Croft.raise_used (c : Croft) (f : Flags) : (c.raise f).used = c.used := rfl
@[simp] theorem Croft.raise_abs (c : Croft) (f : Flags) : (c.raise f).abs = c.abs := rfl
@[simp] theorem Croft.raise_copyq (c : Croft) (f : Flags) : (c.raise f).copyq = c.copyq := rfl
@[simp] theorem Croft.raise_indexq (c : Croft) (f : Flags) : (c.raise f).indexq = c.indexq := rfl
@[simp] theorem Croft.raise_genq (c : Croft) (f : Flags) : (c.raise f).genq = c.genq := rfl
@[simp] theorem Croft.raise_rows (c : Croft) (f : Flags) : (c.raise f).rows = c.rows := rfl
@[simp] theorem Croft.raise_stages (c : Croft) (f : Flags) : (c.raise f).stages = c.stages := rfl
@[simp] theorem Croft.raise_staging (c : Croft) (f : Flags) : (c.raise f).staging = c.staging := rfl
@[simp] theorem Croft.raise_budget (c : Croft) (f : Flags) : (c.raise f).budget = c.budget := rfl
@[simp] theorem Croft.raise_collValid (c : Croft) (f : Flags) : (c.raise f).collValid = c.collValid := rfl
@[simp] theorem Croft.raise_frame (c : Croft) (f : Flags) : (c.raise f).frame = c.frame := rfl
@[simp] theorem Croft.raise_draining (c : Croft) (f : Flags) : (c.raise f).draining = c.draining := rfl
@[simp] theorem Croft.raise_freeze (c : Croft) (f : Flags) : (c.raise f).freeze = c.freeze := rfl
@[simp] theorem Croft.raise_furrow (c : Croft) (f : Flags) : (c.raise f).furrow = c.furrow := rfl
@[simp] theorem Croft.raise_nextFur (c : Croft) (f : Flags) : (c.raise f).nextFur = c.nextFur := rfl
@[simp] theorem Croft.raise_lastLaunch (c : Croft) (f : Flags) : (c.raise f).lastLaunch = c.lastLaunch := rfl
@[simp] theorem Croft.raise_reissue (c : Croft) (f : Flags) : (c.raise f).reissue = c.reissue := rfl
@[simp] theorem Croft.raise_preload (c : Croft) (f : Flags) : (c.raise f).preload = c.preload := rfl
@[simp] theorem Croft.raise_ended (c : Croft) (f : Flags) : (c.raise f).ended = c.ended := rfl
@[simp] theorem Croft.raise_released (c : Croft) (f : Flags) : (c.raise f).released = c.released := rfl
@[simp] theorem Croft.raise_zeroing (c : Croft) (f : Flags) : (c.raise f).zeroing = c.zeroing := rfl
@[simp] theorem Croft.raise_vpush (c : Croft) (f : Flags) : (c.raise f).vpush = c.vpush := rfl
@[simp] theorem Croft.raise_stq (c : Croft) (f : Flags) : (c.raise f).stq = c.stq := rfl
@[simp] theorem Croft.raise_accs (c : Croft) (f : Flags) : (c.raise f).accs = c.accs := rfl
@[simp] theorem Croft.raise_fences (c : Croft) (f : Flags) : (c.raise f).fences = c.fences := rfl
@[simp] theorem Croft.raise_tlb (c : Croft) (f : Flags) : (c.raise f).tlb = c.tlb := rfl
@[simp] theorem Croft.raise_walks (c : Croft) (f : Flags) : (c.raise f).walks = c.walks := rfl
@[simp] theorem Croft.raise_mons (c : Croft) (f : Flags) : (c.raise f).mons = c.mons := rfl
@[simp] theorem Croft.raise_snapO (c : Croft) (f : Flags) : (c.raise f).snapO = c.snapO := rfl
@[simp] theorem Croft.raise_snapS (c : Croft) (f : Flags) : (c.raise f).snapS = c.snapS := rfl
@[simp] theorem Croft.raise_shorts (c : Croft) (f : Flags) : (c.raise f).shorts = c.shorts := rfl
@[simp] theorem Croft.raise_slows (c : Croft) (f : Flags) : (c.raise f).slows = c.slows := rfl
@[simp] theorem Croft.raise_bells (c : Croft) (f : Flags) : (c.raise f).bells = c.bells := rfl
@[simp] theorem Croft.raise_eccs (c : Croft) (f : Flags) : (c.raise f).eccs = c.eccs := rfl
@[simp] theorem Croft.raise_eccTold (c : Croft) (f : Flags) : (c.raise f).eccTold = c.eccTold := rfl
@[simp] theorem Croft.raise_now (c : Croft) (f : Flags) : (c.raise f).now = c.now := rfl
@[simp] theorem Croft.raise_issuePc (c : Croft) (f : Flags) : (c.raise f).issuePc = c.issuePc := rfl
@[simp] theorem Croft.raise_issueSeq (c : Croft) (f : Flags) : (c.raise f).issueSeq = c.issueSeq := rfl
@[simp] theorem Croft.raise_kept (c : Croft) (f : Flags) : (c.raise f).kept = c.kept := rfl
@[simp] theorem Croft.raise_waited (c : Croft) (f : Flags) : (c.raise f).waited = c.waited := rfl
@[simp] theorem Croft.raise_turn (c : Croft) (f : Flags) : (c.raise f).turn = c.turn := rfl
@[simp] theorem Croft.raise_spin (c : Croft) (f : Flags) : (c.raise f).spin = c.spin := rfl
@[simp] theorem Croft.raise_faulted (c : Croft) (f : Flags) : (c.raise f).faulted = c.faulted := rfl
@[simp] theorem Croft.raise_qrLate (c : Croft) (f : Flags) : (c.raise f).qrLate = c.qrLate := rfl
@[simp] theorem Croft.raise_pressed (c : Croft) (f : Flags) : (c.raise f).pressed = c.pressed := rfl

/-! ### A signal token is pushed -/

theorem Croft.pushSig_eq (c : Croft) (e : Eng) (sig : Nat) :
    c.pushSig e sig = { c with tok := (c.pushSig e sig).tok, sigWait := (c.pushSig e sig).sigWait } := by
  unfold Croft.pushSig
  dsimp only
  repeat' split
  all_goals rfl

@[simp] theorem Croft.pushSig_s (c : Croft) (e : Eng) (sig : Nat) : (c.pushSig e sig).s = c.s := by rw [Croft.pushSig_eq]
@[simp] theorem Croft.pushSig_shadow (c : Croft) (e : Eng) (sig : Nat) : (c.pushSig e sig).shadow = c.shadow := by rw [Croft.pushSig_eq]
@[simp] theorem Croft.pushSig_b (c : Croft) (e : Eng) (sig : Nat) : (c.pushSig e sig).b = c.b := by rw [Croft.pushSig_eq]
@[simp] theorem Croft.pushSig_v (c : Croft) (e : Eng) (sig : Nat) : (c.pushSig e sig).v = c.v := by rw [Croft.pushSig_eq]
@[simp] theorem Croft.pushSig_mode (c : Croft) (e : Eng) (sig : Nat) : (c.pushSig e sig).mode = c.mode := by rw [Croft.pushSig_eq]
@[simp] theorem Croft.pushSig_vclock (c : Croft) (e : Eng) (sig : Nat) : (c.pushSig e sig).vclock = c.vclock := by rw [Croft.pushSig_eq]
@[simp] theorem Croft.pushSig_nextVc (c : Croft) (e : Eng) (sig : Nat) : (c.pushSig e sig).nextVc = c.nextVc := by rw [Croft.pushSig_eq]
@[simp] theorem Croft.pushSig_atVc (c : Croft) (e : Eng) (sig : Nat) : (c.pushSig e sig).atVc = c.atVc := by rw [Croft.pushSig_eq]
@[simp] theorem Croft.pushSig_contract (c : Croft) (e : Eng) (sig : Nat) : (c.pushSig e sig).contract = c.contract := by rw [Croft.pushSig_eq]
@[simp] theorem Croft.pushSig_qstat (c : Croft) (e : Eng) (sig : Nat) : (c.pushSig e sig).qstat = c.qstat := by rw [Croft.pushSig_eq]
@[simp] theorem Croft.pushSig_fcode (c : Croft) (e : Eng) (sig : Nat) : (c.pushSig e sig).fcode = c.fcode := by rw [Croft.pushSig_eq]
@[simp] theorem Croft.pushSig_faddr (c : Croft) (e : Eng) (sig : Nat) : (c.pushSig e sig).faddr = c.faddr := by rw [Croft.pushSig_eq]
@[simp] theorem Croft.pushSig_fpc (c : Croft) (e : Eng) (sig : Nat) : (c.pushSig e sig).fpc = c.fpc := by rw [Croft.pushSig_eq]
@[simp] theorem Croft.pushSig_handler (c : Croft) (e : Eng) (sig : Nat) : (c.pushSig e sig).handler = c.handler := by rw [Croft.pushSig_eq]
@[simp] theorem Croft.pushSig_landing (c : Croft) (e : Eng) (sig : Nat) : (c.pushSig e sig).landing = c.landing := by rw [Croft.pushSig_eq]
@[simp] theorem Croft.pushSig_rngseed (c : Croft) (e : Eng) (sig : Nat) : (c.pushSig e sig).rngseed = c.rngseed := by rw [Croft.pushSig_eq]
@[simp] theorem Croft.pushSig_owner (c : Croft) (e : Eng) (sig : Nat) : (c.pushSig e sig).owner = c.owner := by rw [Croft.pushSig_eq]
@[simp] theorem Croft.pushSig_qc (c : Croft) (e : Eng) (sig : Nat) : (c.pushSig e sig).qc = c.qc := by rw [Croft.pushSig_eq]
@[simp] theorem Croft.pushSig_qa (c : Croft) (e : Eng) (sig : Nat) : (c.pushSig e sig).qa = c.qa := by rw [Croft.pushSig_eq]
@[simp] theorem Croft.pushSig_qs (c : Croft) (e : Eng) (sig : Nat) : (c.pushSig e sig).qs = c.qs := by rw [Croft.pushSig_eq]
@[simp] theorem Croft.pushSig_qr (c : Croft) (e : Eng) (sig : Nat) : (c.pushSig e sig).qr = c.qr := by rw [Croft.pushSig_eq]
@[simp] theorem Croft.pushSig_qv (c : Croft) (e : Eng) (sig : Nat) : (c.pushSig e sig).qv = c.qv := by rw [Croft.pushSig_eq]
@[simp] theorem Croft.pushSig_qg (c : Croft) (e : Eng) (sig : Nat) : (c.pushSig e sig).qg = c.qg := by rw [Croft.pushSig_eq]
@[simp] theorem Croft.pushSig_arv (c : Croft) (e : Eng) (sig : Nat) : (c.pushSig e sig).arv = c.arv := by rw [Croft.pushSig_eq]
@[simp] theorem Croft.pushSig_arvRes (c : Croft) (e : Eng) (sig : Nat) : (c.pushSig e sig).arvRes = c.arvRes := by rw [Croft.pushSig_eq]
@[simp] theorem Croft.pushSig_queues (c : Croft) (e : Eng) (sig : Nat) : (c.pushSig e sig).queues = c.queues := by rw [Croft.pushSig_eq]
@[simp] theorem Croft.pushSig_split (c : Croft) (e : Eng) (sig : Nat) : (c.pushSig e sig).split = c.split := by rw [Croft.pushSig_eq]
@[simp] theorem Croft.pushSig_seq (c : Croft) (e : Eng) (sig : Nat) : (c.pushSig e sig).seq = c.seq := by rw [Croft.pushSig_eq]
@[simp] theorem Croft.pushSig_imem (c : Croft) (e : Eng) (sig : Nat) : (c.pushSig e sig).imem = c.imem := by rw [Croft.pushSig_eq]
@[simp] theorem Croft.pushSig_overlay (c : Croft) (e : Eng) (sig : Nat) : (c.pushSig e sig).overlay = c.overlay := by rw [Croft.pushSig_eq]
@[simp] theorem Croft.pushSig_lands (c : Croft) (e : Eng) (sig : Nat) : (c.pushSig e sig).lands = c.lands := by rw [Croft.pushSig_eq]
@[simp] theorem Croft.pushSig_phases (c : Croft) (e : Eng) (sig : Nat) : (c.pushSig e sig).phases = c.phases := by rw [Croft.pushSig_eq]
@[simp] theorem Croft.pushSig_sp (c : Croft) (e : Eng) (sig : Nat) : (c.pushSig e sig).sp = c.sp := by rw [Croft.pushSig_eq]
@[simp] theorem Croft.pushSig_acm (c : Croft) (e : Eng) (sig : Nat) : (c.pushSig e sig).acm = c.acm := by rw [Croft.pushSig_eq]
@[simp] theorem Croft.pushSig_zclear (c : Croft) (e : Eng) (sig : Nat) : (c.pushSig e sig).zclear = c.zclear := by rw [Croft.pushSig_eq]
@[simp] theorem Croft.pushSig_gates (c : Croft) (e : Eng) (sig : Nat) : (c.pushSig e sig).gates = c.gates := by rw [Croft.pushSig_eq]
@[simp] theorem Croft.pushSig_gateAcc (c : Croft) (e : Eng) (sig : Nat) : (c.pushSig e sig).gateAcc = c.gateAcc := by rw [Croft.pushSig_eq]
@[simp] theorem Croft.pushSig_gateq (c : Croft) (e : Eng) (sig : Nat) : (c.pushSig e sig).gateq = c.gateq := by rw [Croft.pushSig_eq]
@[simp] theorem Croft.pushSig_records (c : Croft) (e : Eng) (sig : Nat) : (c.pushSig e sig).records = c.records := by rw [Croft.pushSig_eq]
@[simp] theorem Croft.pushSig_mtab (c : Croft) (e : Eng) (sig : Nat) : (c.pushSig e sig).mtab = c.mtab := by rw [Croft.pushSig_eq]
@[simp] theorem Croft.pushSig_active (c : Croft) (e : Eng) (sig : Nat) : (c.pushSig e sig).active = c.active := by rw [Croft.pushSig_eq]
@[simp] theorem Croft.pushSig_live (c : Croft) (e : Eng) (sig : Nat) : (c.pushSig e sig).live = c.live := by rw [Croft.pushSig_eq]
@[simp] theorem Croft.pushSig_nest (c : Croft) (e : Eng) (sig : Nat) : (c.pushSig e sig).nest = c.nest := by rw [Croft.pushSig_eq]
@[simp] theorem Croft.pushSig_armed (c : Croft) (e : Eng) (sig : Nat) : (c.pushSig e sig).armed = c.armed := by rw [Croft.pushSig_eq]
@[simp] theorem Croft.pushSig_governs (c : Croft) (e : Eng) (sig : Nat) : (c.pushSig e sig).governs = c.governs := by rw [Croft.pushSig_eq]
@[simp] theorem Croft.pushSig_grade (c : Croft) (e : Eng) (sig : Nat) : (c.pushSig e sig).grade = c.grade := by rw [Croft.pushSig_eq]
@[simp] theorem Croft.pushSig_want (c : Croft) (e : Eng) (sig : Nat) : (c.pushSig e sig).want = c.want := by rw [Croft.pushSig_eq]
@[simp] theorem Croft.pushSig_share (c : Croft) (e : Eng) (sig : Nat) : (c.pushSig e sig).share = c.share := by rw [Croft.pushSig_eq]
@[simp] theorem Croft.pushSig_plan (c : Croft) (e : Eng) (sig : Nat) : (c.pushSig e sig).plan = c.plan := by rw [Croft.pushSig_eq]
@[simp] theorem Croft.pushSig_planSt (c : Croft) (e : Eng) (sig : Nat) : (c.pushSig e sig).planSt = c.planSt := by rw [Croft.pushSig_eq]
@[simp] theorem Croft.pushSig_rise (c : Croft) (e : Eng) (sig : Nat) : (c.pushSig e sig).rise = c.rise := by rw [Croft.pushSig_eq]
@[simp] theorem Croft.pushSig_riseOn (c : Croft) (e : Eng) (sig : Nat) : (c.pushSig e sig).riseOn = c.riseOn := by rw [Croft.pushSig_eq]
@[simp] theorem Croft.pushSig_slots (c : Croft) (e : Eng) (sig : Nat) : (c.pushSig e sig).slots = c.slots := by rw [Croft.pushSig_eq]
@[simp] theorem Croft.pushSig_slot (c : Croft) (e : Eng) (sig : Nat) : (c.pushSig e sig).slot = c.slot := by rw [Croft.pushSig_eq]
@[simp] theorem Croft.pushSig_stand (c : Croft) (e : Eng) (sig : Nat) : (c.pushSig e sig).stand = c.stand := by rw [Croft.pushSig_eq]
@[simp] theorem Croft.pushSig_used (c : Croft) (e : Eng) (sig : Nat) : (c.pushSig e sig).used = c.used := by rw [Croft.pushSig_eq]
@[simp] theorem Croft.pushSig_abs (c : Croft) (e : Eng) (sig : Nat) : (c.pushSig e sig).abs = c.abs := by rw [Croft.pushSig_eq]
@[simp] theorem Croft.pushSig_copyq (c : Croft) (e : Eng) (sig : Nat) : (c.pushSig e sig).copyq = c.copyq := by rw [Croft.pushSig_eq]
@[simp] theorem Croft.pushSig_indexq (c : Croft) (e : Eng) (sig : Nat) : (c.pushSig e sig).indexq = c.indexq := by rw [Croft.pushSig_eq]
@[simp] theorem Croft.pushSig_genq (c : Croft) (e : Eng) (sig : Nat) : (c.pushSig e sig).genq = c.genq := by rw [Croft.pushSig_eq]
@[simp] theorem Croft.pushSig_rows (c : Croft) (e : Eng) (sig : Nat) : (c.pushSig e sig).rows = c.rows := by rw [Croft.pushSig_eq]
@[simp] theorem Croft.pushSig_stages (c : Croft) (e : Eng) (sig : Nat) : (c.pushSig e sig).stages = c.stages := by rw [Croft.pushSig_eq]
@[simp] theorem Croft.pushSig_staging (c : Croft) (e : Eng) (sig : Nat) : (c.pushSig e sig).staging = c.staging := by rw [Croft.pushSig_eq]
@[simp] theorem Croft.pushSig_budget (c : Croft) (e : Eng) (sig : Nat) : (c.pushSig e sig).budget = c.budget := by rw [Croft.pushSig_eq]
@[simp] theorem Croft.pushSig_collValid (c : Croft) (e : Eng) (sig : Nat) : (c.pushSig e sig).collValid = c.collValid := by rw [Croft.pushSig_eq]
@[simp] theorem Croft.pushSig_frame (c : Croft) (e : Eng) (sig : Nat) : (c.pushSig e sig).frame = c.frame := by rw [Croft.pushSig_eq]
@[simp] theorem Croft.pushSig_draining (c : Croft) (e : Eng) (sig : Nat) : (c.pushSig e sig).draining = c.draining := by rw [Croft.pushSig_eq]
@[simp] theorem Croft.pushSig_freeze (c : Croft) (e : Eng) (sig : Nat) : (c.pushSig e sig).freeze = c.freeze := by rw [Croft.pushSig_eq]
@[simp] theorem Croft.pushSig_furrow (c : Croft) (e : Eng) (sig : Nat) : (c.pushSig e sig).furrow = c.furrow := by rw [Croft.pushSig_eq]
@[simp] theorem Croft.pushSig_nextFur (c : Croft) (e : Eng) (sig : Nat) : (c.pushSig e sig).nextFur = c.nextFur := by rw [Croft.pushSig_eq]
@[simp] theorem Croft.pushSig_lastLaunch (c : Croft) (e : Eng) (sig : Nat) : (c.pushSig e sig).lastLaunch = c.lastLaunch := by rw [Croft.pushSig_eq]
@[simp] theorem Croft.pushSig_reissue (c : Croft) (e : Eng) (sig : Nat) : (c.pushSig e sig).reissue = c.reissue := by rw [Croft.pushSig_eq]
@[simp] theorem Croft.pushSig_preload (c : Croft) (e : Eng) (sig : Nat) : (c.pushSig e sig).preload = c.preload := by rw [Croft.pushSig_eq]
@[simp] theorem Croft.pushSig_ended (c : Croft) (e : Eng) (sig : Nat) : (c.pushSig e sig).ended = c.ended := by rw [Croft.pushSig_eq]
@[simp] theorem Croft.pushSig_released (c : Croft) (e : Eng) (sig : Nat) : (c.pushSig e sig).released = c.released := by rw [Croft.pushSig_eq]
@[simp] theorem Croft.pushSig_zeroing (c : Croft) (e : Eng) (sig : Nat) : (c.pushSig e sig).zeroing = c.zeroing := by rw [Croft.pushSig_eq]
@[simp] theorem Croft.pushSig_vpush (c : Croft) (e : Eng) (sig : Nat) : (c.pushSig e sig).vpush = c.vpush := by rw [Croft.pushSig_eq]
@[simp] theorem Croft.pushSig_stq (c : Croft) (e : Eng) (sig : Nat) : (c.pushSig e sig).stq = c.stq := by rw [Croft.pushSig_eq]
@[simp] theorem Croft.pushSig_accs (c : Croft) (e : Eng) (sig : Nat) : (c.pushSig e sig).accs = c.accs := by rw [Croft.pushSig_eq]
@[simp] theorem Croft.pushSig_fences (c : Croft) (e : Eng) (sig : Nat) : (c.pushSig e sig).fences = c.fences := by rw [Croft.pushSig_eq]
@[simp] theorem Croft.pushSig_tlb (c : Croft) (e : Eng) (sig : Nat) : (c.pushSig e sig).tlb = c.tlb := by rw [Croft.pushSig_eq]
@[simp] theorem Croft.pushSig_walks (c : Croft) (e : Eng) (sig : Nat) : (c.pushSig e sig).walks = c.walks := by rw [Croft.pushSig_eq]
@[simp] theorem Croft.pushSig_mons (c : Croft) (e : Eng) (sig : Nat) : (c.pushSig e sig).mons = c.mons := by rw [Croft.pushSig_eq]
@[simp] theorem Croft.pushSig_snapO (c : Croft) (e : Eng) (sig : Nat) : (c.pushSig e sig).snapO = c.snapO := by rw [Croft.pushSig_eq]
@[simp] theorem Croft.pushSig_snapS (c : Croft) (e : Eng) (sig : Nat) : (c.pushSig e sig).snapS = c.snapS := by rw [Croft.pushSig_eq]
@[simp] theorem Croft.pushSig_shorts (c : Croft) (e : Eng) (sig : Nat) : (c.pushSig e sig).shorts = c.shorts := by rw [Croft.pushSig_eq]
@[simp] theorem Croft.pushSig_slows (c : Croft) (e : Eng) (sig : Nat) : (c.pushSig e sig).slows = c.slows := by rw [Croft.pushSig_eq]
@[simp] theorem Croft.pushSig_bells (c : Croft) (e : Eng) (sig : Nat) : (c.pushSig e sig).bells = c.bells := by rw [Croft.pushSig_eq]
@[simp] theorem Croft.pushSig_eccs (c : Croft) (e : Eng) (sig : Nat) : (c.pushSig e sig).eccs = c.eccs := by rw [Croft.pushSig_eq]
@[simp] theorem Croft.pushSig_eccTold (c : Croft) (e : Eng) (sig : Nat) : (c.pushSig e sig).eccTold = c.eccTold := by rw [Croft.pushSig_eq]
@[simp] theorem Croft.pushSig_now (c : Croft) (e : Eng) (sig : Nat) : (c.pushSig e sig).now = c.now := by rw [Croft.pushSig_eq]
@[simp] theorem Croft.pushSig_issuePc (c : Croft) (e : Eng) (sig : Nat) : (c.pushSig e sig).issuePc = c.issuePc := by rw [Croft.pushSig_eq]
@[simp] theorem Croft.pushSig_issueSeq (c : Croft) (e : Eng) (sig : Nat) : (c.pushSig e sig).issueSeq = c.issueSeq := by rw [Croft.pushSig_eq]
@[simp] theorem Croft.pushSig_kept (c : Croft) (e : Eng) (sig : Nat) : (c.pushSig e sig).kept = c.kept := by rw [Croft.pushSig_eq]
@[simp] theorem Croft.pushSig_waited (c : Croft) (e : Eng) (sig : Nat) : (c.pushSig e sig).waited = c.waited := by rw [Croft.pushSig_eq]
@[simp] theorem Croft.pushSig_turn (c : Croft) (e : Eng) (sig : Nat) : (c.pushSig e sig).turn = c.turn := by rw [Croft.pushSig_eq]
@[simp] theorem Croft.pushSig_spin (c : Croft) (e : Eng) (sig : Nat) : (c.pushSig e sig).spin = c.spin := by rw [Croft.pushSig_eq]
@[simp] theorem Croft.pushSig_faulted (c : Croft) (e : Eng) (sig : Nat) : (c.pushSig e sig).faulted = c.faulted := by rw [Croft.pushSig_eq]
@[simp] theorem Croft.pushSig_qrLate (c : Croft) (e : Eng) (sig : Nat) : (c.pushSig e sig).qrLate = c.qrLate := by rw [Croft.pushSig_eq]
@[simp] theorem Croft.pushSig_pressed (c : Croft) (e : Eng) (sig : Nat) : (c.pushSig e sig).pressed = c.pressed := by rw [Croft.pushSig_eq]

end Sys2Proof.Machine
end

