-- ==== Sys2Proof/Laws/Ops.lean ====
section
/-! SUPPORT. What the shared operations of issuing can do, once each: an instruction that is ready issues as its body says, one whose encoding
is at fault, that waits or whose body faults does not; an event happens where the module has power. -/

namespace Sys2Proof.Machine

variable {i : Instr} {t : Tok} {s s' : State} {c c' : Croft}

/-- A ready instruction whose body lets it finish later leaves what its body leaves. -/
theorem issue_later {body : State → Except Stop (State × Fin)} (h : Ready i t s c) (hb : body (s.setCur c) = .ok (s', .later)) :
    issue i t body s = .next s' := by
  simp [issue, h.power, h.encoded, h.free, h.outside, h.token, hb]

/-- A ready instruction that finishes at once pushes its signal. -/
theorem issue_now {body : State → Except Stop (State × Fin)} (h : Ready i t s c) (hb : body (s.setCur c) = .ok (s', .now)) :
    issue i t body s = .next (s'.setCur (s'.cur.pushSig i.engC t.sig.toNat)) := by
  simp [issue, h.power, h.encoded, h.free, h.outside, h.token, hb]

/-- A ready instruction whose body acts on the croft alone and finishes at its landing. -/
theorem issueC_ok {body : Croft → Except Stop Croft} (h : Ready i t s c) (hb : body c = .ok c') :
    issueC i t body s = .next (s.setCur c') := by
  unfold issueC
  rw [issue_later h (s' := s.setCur c') (by simp [hb])]

/-- A ready instruction whose body acts on the croft alone and finishes at once. -/
theorem issueNow_ok {body : Croft → Except Stop Croft} (h : Ready i t s c) (hb : body c = .ok c') :
    issueNow i t body s = .next (s.setCur (c'.pushSig i.engC t.sig.toNat)) := by
  unfold issueNow
  rw [issue_now h (s' := s.setCur c') (by simp [hb])]
  simp

/-- An instruction of A issues as any other where no STQ still pops its entries (R339). -/
theorem issueA_later {body : State → Except Stop (State × Fin)} (h : Ready i t s c) (hq : c.stq = none)
    (hb : body (s.setCur c) = .ok (s', .later)) : issueA i t body s = .next s' := by
  unfold issueA
  rw [issue_later h (s' := s') (by simp [hq, hb])]

theorem issueA_now {body : State → Except Stop (State × Fin)} (h : Ready i t s c) (hq : c.stq = none)
    (hb : body (s.setCur c) = .ok (s', .now)) : issueA i t body s = .next (s'.setCur (s'.cur.pushSig i.engC t.sig.toNat)) := by
  unfold issueA
  rw [issue_now h (s' := s') (by simp [hq, hb])]

theorem issueAC_ok {body : Croft → Except Stop Croft} (h : Ready i t s c) (hq : c.stq = none) (hb : body c = .ok c') :
    issueAC i t body s = .next (s.setCur c') := by
  unfold issueAC
  rw [issueA_later h hq (s' := s.setCur c') (by simp [hb])]

theorem issueANow_ok {body : Croft → Except Stop Croft} (h : Ready i t s c) (hq : c.stq = none) (hb : body c = .ok c') :
    issueANow i t body s = .next (s.setCur (c'.pushSig i.engC t.sig.toNat)) := by
  unfold issueANow
  rw [issueA_now h hq (s' := s.setCur c') (by simp [hb])]
  simp

@[simp] theorem State.poisonRecords_nil (s : State) (n : Nat) : s.poisonRecords n [] = s := rfl

/-- A body's program fault is taken, the instruction set aside unissued unless it is a TRAP (R223, R229); what it read of poisoned units stays
recorded (R234). -/
theorem issue_fault {body : State → Except Stop (State × Fin)} {f : Flt} (h : Ready i t s c) (hb : body (s.setCur c) = .error (.fault f)) :
    issue i t body s = .next ((s.poisonRecords s.me f.seen).takeFault s.me
      { flt := f, eng := i.engC, pc := s.cur.issuePc, seq := s.cur.issueSeq
        retry := if f.code == .trap then none else some ⟨s.cur.issueSeq, s.cur.issuePc, .ins i s.cur.kept⟩ }) := by
  simp [issue, h.power, h.encoded, h.free, h.outside, h.token, hb]

/-- A word whose encoding is at fault takes its fault before anything of it is done (R57, R66). -/
theorem issue_encoding {body : State → Except Stop (State × Fin)} {e : EncErr} (hp : s.power = true) (he : i.encErr = some e) :
    issue i t body s = .next (s.takeFault s.me { flt := { code := match e with | .illop => .illop | .illext => .illext }
                                                 eng := i.engC, pc := s.cur.issuePc, seq := s.cur.issueSeq
                                                 retry := some ⟨s.cur.issueSeq, s.cur.issuePc, .ins i s.cur.kept⟩ }) := by
  cases e <;> simp [issue, hp, he]

/-- An instruction that waits stands again at the head of its queue. -/
theorem issue_wait {body : State → Except Stop (State × Fin)} (h : Ready i t s c) (hb : body (s.setCur c) = .error .wait) :
    issue i t body s = .next (s.holdBack i.engC i) := by
  simp [issue, h.power, h.encoded, h.free, h.outside, h.token, hb]

/-- Whatever an instruction's body does, its issue answers a next state where the module has power. -/
theorem issue_next (body : State → Except Stop (State × Fin)) (hp : s.power = true) : ∃ s', issue i t body s = .next s' := by
  unfold issue
  simp only [hp]
  split
  · contradiction
  · split
    · exact ⟨_, rfl⟩
    · exact ⟨_, rfl⟩
    · split
      · exact ⟨_, rfl⟩
      · split
        · exact ⟨_, rfl⟩
        · split
          · exact ⟨_, rfl⟩
          · split <;> exact ⟨_, rfl⟩

/-- An event happens where the module has power. -/
theorem event_next {f : State → State} (hp : s.power = true) : event f s = .next (f s) := by simp [event, hp]

theorem croftEvent_next {n : Nat} {f : Croft → Croft} (hp : s.power = true) : croftEvent n f s = .next (s.setCroft n (f (s.croft n))) := by
  simp [croftEvent, event, hp]

/-! ### Register reads and writes -/

/-- An ordinary S register reads as it stands (R273). -/
theorem Croft.readS_plain {x : Nat} (h0 : x ≠ 0) (h29 : x ≠ 29) (h30 : x ≠ 30) (h31 : x ≠ 31) : c.readS x = .ok (vget c.s 0 x, c) := by
  simp [Croft.readS, h0, h29, h30, h31]

/-- A result for an ordinary S register enters the landing list (R273). -/
theorem Croft.writeS_plain {sig lat d : Nat} {v : Word64} (h0 : d ≠ 0) (h29 : d ≠ 29) (h30 : d ≠ 30) (h31 : d ≠ 31) :
    c.writeS i sig lat d v = .ok (c.land .C i sig lat (.setS d v)) := by
  simp [Croft.writeS, h0, h29, h30, h31]

end Sys2Proof.Machine
end

