-- ==== Sys2Proof/Laws/PerInstr.lean ====
section
/-! SUPPORT. One fact about every instruction as syntax (LAWS.json): an instruction that an engine issues has a word, and the word's top three bits
are that engine's code (R53); a device event has no word. -/

namespace Sys2Proof.Laws.Words

open Sys2Proof

/-- An instruction of an engine has a word with the engine's code in bits [31:29] (R53); what no engine issues has none. -/
def Statement (i : Instr) : Prop :=
  (∀ e, i.eng = some e → ∃ w, i.word = some w ∧ w.toNat / 2 ^ 29 = e.code) ∧ (i.eng = none → i.word = none)

/-- The upper part of two strings of bits set side by side. -/
theorem append_div {n m : Nat} (x : BitVec n) (y : BitVec m) : (x ++ y).toNat / 2 ^ m = x.toNat := by
  have h := y.isLt
  rw [BitVec.toNat_append, ← Nat.shiftLeft_add_eq_or_of_lt h, Nat.shiftLeft_eq, Nat.mul_comm, Nat.mul_add_div (Nat.two_pow_pos m),
    Nat.div_eq_of_lt h, Nat.add_zero]

/-- The engine field of a word that is put together from its fields. -/
theorem mkWord_eng (e : Eng) (op : BitVec 6) (t : Tok) (b : BitVec 17) : (mkWord e op t b).toNat / 2 ^ 29 = e.code := by
  have h : (mkWord e op t b).toNat / 2 ^ 29 = (mkWord e op t b).toNat / 2 ^ 17 / 2 ^ 6 / 2 ^ 3 / 2 ^ 3 := by omega
  rw [h, mkWord, append_div, append_div, append_div, append_div]
  cases e <;> rfl

/-- The statement for an instruction that an engine issues. -/
theorem of_word {i : Instr} {e : Eng} {w : Word32} (h1 : i.eng = some e) (h2 : i.word = some w) (h3 : w.toNat / 2 ^ 29 = e.code) : Statement i :=
  ⟨fun f hf => ⟨w, h2, by rw [h1] at hf; cases hf; exact h3⟩, fun h => by rw [h1] at h; cases h⟩

/-- The statement for a device event. -/
theorem of_event {i : Instr} (h1 : i.eng = none) (h2 : i.word = none) : Statement i := ⟨(fun e h => by rw [h1] at h; cases h), fun _ => h2⟩

theorem boot : Statement (.boot) := of_event rfl rfl
theorem thermalWarning : ∀ a, Statement (.thermalWarning a) := fun _ => of_event rfl rfl
theorem thermalShutdown : Statement (.thermalShutdown) := of_event rfl rfl
theorem admission : ∀ a, Statement (.admission a) := fun _ => of_event rfl rfl
theorem revoke : ∀ a, Statement (.revoke a) := fun _ => of_event rfl rfl
theorem opkey : ∀ a, Statement (.opkey a) := fun _ => of_event rfl rfl
theorem image : ∀ a, Statement (.image a) := fun _ => of_event rfl rfl
theorem floor : ∀ a, Statement (.floor a) := fun _ => of_event rfl rfl
theorem load : ∀ a, Statement (.load a) := fun _ => of_event rfl rfl
theorem launch : ∀ a, Statement (.launch a) := fun _ => of_event rfl rfl
theorem launchQueueEntry : ∀ a, Statement (.launchQueueEntry a) := fun _ => of_event rfl rfl
theorem unload : ∀ a, Statement (.unload a) := fun _ => of_event rfl rfl
theorem quote : ∀ a, Statement (.quote a) := fun _ => of_event rfl rfl
theorem cert : ∀ a, Statement (.cert a) := fun _ => of_event rfl rfl
theorem grammar : ∀ a, Statement (.grammar a) := fun _ => of_event rfl rfl
theorem context : ∀ a, Statement (.context a) := fun _ => of_event rfl rfl
theorem drop : ∀ a, Statement (.drop a) := fun _ => of_event rfl rfl
theorem unsupportedPacket : Statement (.unsupportedPacket) := of_event rfl rfl
theorem furrowDispatch : ∀ a, Statement (.furrowDispatch a) := fun _ => of_event rfl rfl
theorem overlaySwap : ∀ a, Statement (.overlaySwap a) := fun _ => of_event rfl rfl
theorem splitWord : ∀ a, Statement (.splitWord a) := fun _ => of_event rfl rfl
theorem resultLanding : ∀ a, Statement (.resultLanding a) := fun _ => of_event rfl rfl
theorem phaseMarkerEffect : ∀ a b, Statement (.phaseMarkerEffect a b) := fun _ _ => of_event rfl rfl
theorem roundBoundary : Statement (.roundBoundary) := of_event rfl rfl
theorem risingPlanInstall : ∀ a, Statement (.risingPlanInstall a) := fun _ => of_event rfl rfl
theorem millKstep : ∀ a, Statement (.millKstep a) := fun _ => of_event rfl rfl
theorem nestLanding : ∀ a, Statement (.nestLanding a) := fun _ => of_event rfl rfl
theorem nestBreach : ∀ a, Statement (.nestBreach a) := fun _ => of_event rfl rfl
theorem copyQueueStart : ∀ a, Statement (.copyQueueStart a) := fun _ => of_event rfl rfl
theorem collGenerationForm : ∀ a b, Statement (.collGenerationForm a b) := fun _ _ => of_event rfl rfl
theorem blockDecode : ∀ a, Statement (.blockDecode a) := fun _ => of_event rfl rfl
theorem genQueueStart : ∀ a, Statement (.genQueueStart a) := fun _ => of_event rfl rfl
theorem indexQueueStart : ∀ a, Statement (.indexQueueStart a) := fun _ => of_event rfl rfl
theorem commandCompletion : ∀ a b, Statement (.commandCompletion a b) := fun _ _ => of_event rfl rfl
theorem walkComplete : ∀ a b, Statement (.walkComplete a b) := fun _ _ => of_event rfl rfl
theorem ownerAccessComplete : ∀ a b, Statement (.ownerAccessComplete a b) := fun _ _ => of_event rfl rfl
theorem heldWriteGrant : ∀ a, Statement (.heldWriteGrant a) := fun _ => of_event rfl rfl
theorem holdTimeout : ∀ a, Statement (.holdTimeout a) := fun _ => of_event rfl rfl
theorem silluFaultService : ∀ a, Statement (.silluFaultService a) := fun _ => of_event rfl rfl
theorem eccCorrectable : ∀ a, Statement (.eccCorrectable a) := fun _ => of_event rfl rfl
theorem eccFreezeEnd : ∀ a, Statement (.eccFreezeEnd a) := fun _ => of_event rfl rfl
theorem sramUncorrectable : ∀ a b, Statement (.sramUncorrectable a b) := fun _ _ => of_event rfl rfl
theorem preempt : ∀ a, Statement (.preempt a) := fun _ => of_event rfl rfl
theorem restore : ∀ a b, Statement (.restore a b) := fun _ _ => of_event rfl rfl
theorem budgetExpiry : ∀ a, Statement (.budgetExpiry a) := fun _ => of_event rfl rfl
theorem maskDeadline : ∀ a, Statement (.maskDeadline a) := fun _ => of_event rfl rfl
theorem maskDelivery : ∀ a, Statement (.maskDelivery a) := fun _ => of_event rfl rfl
theorem svcServiceDone : ∀ a, Statement (.svcServiceDone a) := fun _ => of_event rfl rfl
theorem bellRing : ∀ a, Statement (.bellRing a) := fun _ => of_event rfl rfl
theorem bankWakeEnd : ∀ a b, Statement (.bankWakeEnd a b) := fun _ _ => of_event rfl rfl
theorem bankPowerOff : ∀ a b, Statement (.bankPowerOff a b) := fun _ _ => of_event rfl rfl
theorem vpushTransfer : ∀ a, Statement (.vpushTransfer a) := fun _ => of_event rfl rfl
theorem stqEntryPop : ∀ a, Statement (.stqEntryPop a) := fun _ => of_event rfl rfl
theorem add : ∀ a b c, Statement (.add a b c) := fun _ _ _ => of_word rfl rfl (mkWord_eng ..)
theorem sub : ∀ a b c, Statement (.sub a b c) := fun _ _ _ => of_word rfl rfl (mkWord_eng ..)
theorem mul : ∀ a b c, Statement (.mul a b c) := fun _ _ _ => of_word rfl rfl (mkWord_eng ..)
theorem mulh : ∀ a b c, Statement (.mulh a b c) := fun _ _ _ => of_word rfl rfl (mkWord_eng ..)
theorem divn : ∀ a b c, Statement (.divn a b c) := fun _ _ _ => of_word rfl rfl (mkWord_eng ..)
theorem remn : ∀ a b c, Statement (.remn a b c) := fun _ _ _ => of_word rfl rfl (mkWord_eng ..)
theorem and : ∀ a b c, Statement (.and a b c) := fun _ _ _ => of_word rfl rfl (mkWord_eng ..)
theorem or : ∀ a b c, Statement (.or a b c) := fun _ _ _ => of_word rfl rfl (mkWord_eng ..)
theorem xor : ∀ a b c, Statement (.xor a b c) := fun _ _ _ => of_word rfl rfl (mkWord_eng ..)
theorem shl : ∀ a b c, Statement (.shl a b c) := fun _ _ _ => of_word rfl rfl (mkWord_eng ..)
theorem shr : ∀ a b c, Statement (.shr a b c) := fun _ _ _ => of_word rfl rfl (mkWord_eng ..)
theorem sha : ∀ a b c, Statement (.sha a b c) := fun _ _ _ => of_word rfl rfl (mkWord_eng ..)
theorem min : ∀ a b c, Statement (.min a b c) := fun _ _ _ => of_word rfl rfl (mkWord_eng ..)
theorem max : ∀ a b c, Statement (.max a b c) := fun _ _ _ => of_word rfl rfl (mkWord_eng ..)
theorem minn : ∀ a b c, Statement (.minn a b c) := fun _ _ _ => of_word rfl rfl (mkWord_eng ..)
theorem maxn : ∀ a b c, Statement (.maxn a b c) := fun _ _ _ => of_word rfl rfl (mkWord_eng ..)
theorem clz : ∀ a b c, Statement (.clz a b c) := fun _ _ _ => of_word rfl rfl (mkWord_eng ..)
theorem popc : ∀ a b c, Statement (.popc a b c) := fun _ _ _ => of_word rfl rfl (mkWord_eng ..)
theorem slt : ∀ a b c, Statement (.slt a b c) := fun _ _ _ => of_word rfl rfl (mkWord_eng ..)
theorem sltn : ∀ a b c, Statement (.sltn a b c) := fun _ _ _ => of_word rfl rfl (mkWord_eng ..)
theorem li : ∀ a b c, Statement (.li a b c) := fun _ _ _ => of_word rfl rfl (mkWord_eng ..)
theorem beq : ∀ a b c, Statement (.beq a b c) := fun _ _ _ => of_word rfl rfl (mkWord_eng ..)
theorem bne : ∀ a b c, Statement (.bne a b c) := fun _ _ _ => of_word rfl rfl (mkWord_eng ..)
theorem blt : ∀ a b c, Statement (.blt a b c) := fun _ _ _ => of_word rfl rfl (mkWord_eng ..)
theorem bge : ∀ a b c, Statement (.bge a b c) := fun _ _ _ => of_word rfl rfl (mkWord_eng ..)
theorem bltn : ∀ a b c, Statement (.bltn a b c) := fun _ _ _ => of_word rfl rfl (mkWord_eng ..)
theorem bgen : ∀ a b c, Statement (.bgen a b c) := fun _ _ _ => of_word rfl rfl (mkWord_eng ..)
theorem jmp : ∀ a b c, Statement (.jmp a b c) := fun _ _ _ => of_word rfl rfl (mkWord_eng ..)
theorem call : ∀ a b c, Statement (.call a b c) := fun _ _ _ => of_word rfl rfl (mkWord_eng ..)
theorem ret : ∀ a b c, Statement (.ret a b c) := fun _ _ _ => of_word rfl rfl (mkWord_eng ..)
theorem jtab : ∀ a b c, Statement (.jtab a b c) := fun _ _ _ => of_word rfl rfl (mkWord_eng ..)
theorem trap : ∀ a b c, Statement (.trap a b c) := fun _ _ _ => of_word rfl rfl (mkWord_eng ..)
theorem eret : ∀ a b c, Statement (.eret a b c) := fun _ _ _ => of_word rfl rfl (mkWord_eng ..)
theorem svcNone : ∀ a b c, Statement (.svcNone a b c) := fun _ _ _ => of_word rfl rfl (mkWord_eng ..)
theorem grammarMaskRequest : ∀ a b c, Statement (.grammarMaskRequest a b c) := fun _ _ _ => of_word rfl rfl (mkWord_eng ..)
theorem monitorSnapshotRead : ∀ a b c, Statement (.monitorSnapshotRead a b c) := fun _ _ _ => of_word rfl rfl (mkWord_eng ..)
theorem svcUnassigned : ∀ a b c, Statement (.svcUnassigned a b c) := fun _ _ _ => of_word rfl rfl (mkWord_eng ..)
theorem waite : ∀ a b c, Statement (.waite a b c) := fun _ _ _ => of_word rfl rfl (mkWord_eng ..)
theorem bar : ∀ a b c, Statement (.bar a b c) := fun _ _ _ => of_word rfl rfl (mkWord_eng ..)
theorem mode : ∀ a b c, Statement (.mode a b c) := fun _ _ _ => of_word rfl rfl (mkWord_eng ..)
theorem gap : ∀ a b c, Statement (.gap a b c) := fun _ _ _ => of_word rfl rfl (mkWord_eng ..)
theorem phase : ∀ a b c, Statement (.phase a b c) := fun _ _ _ => of_word rfl rfl (mkWord_eng ..)
theorem rdcr : ∀ a b c, Statement (.rdcr a b c) := fun _ _ _ => of_word rfl rfl (mkWord_eng ..)
theorem wrcrQstat : ∀ a b c, Statement (.wrcrQstat a b c) := fun _ _ _ => of_word rfl rfl (mkWord_eng ..)
theorem wrcrHandler : ∀ a b c, Statement (.wrcrHandler a b c) := fun _ _ _ => of_word rfl rfl (mkWord_eng ..)
theorem wrcrRngseed : ∀ a b c, Statement (.wrcrRngseed a b c) := fun _ _ _ => of_word rfl rfl (mkWord_eng ..)
theorem done : ∀ a b c, Statement (.done a b c) := fun _ _ _ => of_word rfl rfl (mkWord_eng ..)
theorem abwait : ∀ a b c, Statement (.abwait a b c) := fun _ _ _ => of_word rfl rfl (mkWord_eng ..)
theorem snap : ∀ a b c, Statement (.snap a b c) := fun _ _ _ => of_word rfl rfl (mkWord_eng ..)
theorem bli : ∀ a b c, Statement (.bli a b c) := fun _ _ _ => of_word rfl rfl (mkWord_eng ..)
theorem badd : ∀ a b c, Statement (.badd a b c) := fun _ _ _ => of_word rfl rfl (mkWord_eng ..)
theorem bmad : ∀ a b c, Statement (.bmad a b c) := fun _ _ _ => of_word rfl rfl (mkWord_eng ..)
theorem bmov : ∀ a b c, Statement (.bmov a b c) := fun _ _ _ => of_word rfl rfl (mkWord_eng ..)
theorem ldq : ∀ a b c, Statement (.ldq a b c) := fun _ _ _ => of_word rfl rfl (mkWord_eng ..)
theorem stq : ∀ a b c, Statement (.stq a b c) := fun _ _ _ => of_word rfl rfl (mkWord_eng ..)
theorem atom : ∀ a b c, Statement (.atom a b c) := fun _ _ _ => of_word rfl rfl (mkWord_eng ..)
theorem copy : ∀ a b c, Statement (.copy a b c) := fun _ _ _ => of_word rfl rfl (mkWord_eng ..)
theorem copyd : ∀ a b c, Statement (.copyd a b c) := fun _ _ _ => of_word rfl rfl (mkWord_eng ..)
theorem coll : ∀ a b c, Statement (.coll a b c) := fun _ _ _ => of_word rfl rfl (mkWord_eng ..)
theorem glsend : ∀ a b c, Statement (.glsend a b c) := fun _ _ _ => of_word rfl rfl (mkWord_eng ..)
theorem fence : ∀ a b c, Statement (.fence a b c) := fun _ _ _ => of_word rfl rfl (mkWord_eng ..)
theorem fencesc : ∀ a b c, Statement (.fencesc a b c) := fun _ _ _ => of_word rfl rfl (mkWord_eng ..)
theorem zflag : ∀ a b c, Statement (.zflag a b c) := fun _ _ _ => of_word rfl rfl (mkWord_eng ..)
theorem bankgate : ∀ a b c, Statement (.bankgate a b c) := fun _ _ _ => of_word rfl rfl (mkWord_eng ..)
theorem pginv : ∀ a b c, Statement (.pginv a b c) := fun _ _ _ => of_word rfl rfl (mkWord_eng ..)
theorem pgprobe : ∀ a b c, Statement (.pgprobe a b c) := fun _ _ _ => of_word rfl rfl (mkWord_eng ..)
theorem abinit : ∀ a b c, Statement (.abinit a b c) := fun _ _ _ => of_word rfl rfl (mkWord_eng ..)
theorem abexp : ∀ a b c, Statement (.abexp a b c) := fun _ _ _ => of_word rfl rfl (mkWord_eng ..)
theorem abarv : ∀ a b c, Statement (.abarv a b c) := fun _ _ _ => of_word rfl rfl (mkWord_eng ..)
theorem mtab : ∀ a b c, Statement (.mtab a b c) := fun _ _ _ => of_word rfl rfl (mkWord_eng ..)
theorem mrun : ∀ a b c, Statement (.mrun a b c) := fun _ _ _ => of_word rfl rfl (mkWord_eng ..)
theorem mrunb : ∀ a b c, Statement (.mrunb a b c) := fun _ _ _ => of_word rfl rfl (mkWord_eng ..)
theorem mlowr : ∀ a b c, Statement (.mlowr a b c) := fun _ _ _ => of_word rfl rfl (mkWord_eng ..)
theorem mzero : ∀ a b c, Statement (.mzero a b c) := fun _ _ _ => of_word rfl rfl (mkWord_eng ..)
theorem mdrain : ∀ a b c, Statement (.mdrain a b c) := fun _ _ _ => of_word rfl rfl (mkWord_eng ..)
theorem mjoin : ∀ a b c, Statement (.mjoin a b c) := fun _ _ _ => of_word rfl rfl (mkWord_eng ..)
theorem mrec : ∀ a b c, Statement (.mrec a b c) := fun _ _ _ => of_word rfl rfl (mkWord_eng ..)
theorem mreplay : ∀ a b c, Statement (.mreplay a b c) := fun _ _ _ => of_word rfl rfl (mkWord_eng ..)
theorem mfire : ∀ a b c, Statement (.mfire a b c) := fun _ _ _ => of_word rfl rfl (mkWord_eng ..)
theorem mage : ∀ a b c, Statement (.mage a b c) := fun _ _ _ => of_word rfl rfl (mkWord_eng ..)
theorem mplace : ∀ a b c, Statement (.mplace a b c) := fun _ _ _ => of_word rfl rfl (mkWord_eng ..)
theorem vadd : ∀ a b c, Statement (.vadd a b c) := fun _ _ _ => of_word rfl rfl (mkWord_eng ..)
theorem vsub : ∀ a b c, Statement (.vsub a b c) := fun _ _ _ => of_word rfl rfl (mkWord_eng ..)
theorem vmul : ∀ a b c, Statement (.vmul a b c) := fun _ _ _ => of_word rfl rfl (mkWord_eng ..)
theorem vfma : ∀ a b c, Statement (.vfma a b c) := fun _ _ _ => of_word rfl rfl (mkWord_eng ..)
theorem vmin : ∀ a b c, Statement (.vmin a b c) := fun _ _ _ => of_word rfl rfl (mkWord_eng ..)
theorem vmax : ∀ a b c, Statement (.vmax a b c) := fun _ _ _ => of_word rfl rfl (mkWord_eng ..)
theorem vabs : ∀ a b c, Statement (.vabs a b c) := fun _ _ _ => of_word rfl rfl (mkWord_eng ..)
theorem vneg : ∀ a b c, Statement (.vneg a b c) := fun _ _ _ => of_word rfl rfl (mkWord_eng ..)
theorem vcmp : ∀ a b c, Statement (.vcmp a b c) := fun _ _ _ => of_word rfl rfl (mkWord_eng ..)
theorem vsel : ∀ a b c, Statement (.vsel a b c) := fun _ _ _ => of_word rfl rfl (mkWord_eng ..)
theorem vand : ∀ a b c, Statement (.vand a b c) := fun _ _ _ => of_word rfl rfl (mkWord_eng ..)
theorem vor : ∀ a b c, Statement (.vor a b c) := fun _ _ _ => of_word rfl rfl (mkWord_eng ..)
theorem vxor : ∀ a b c, Statement (.vxor a b c) := fun _ _ _ => of_word rfl rfl (mkWord_eng ..)
theorem vnot : ∀ a b c, Statement (.vnot a b c) := fun _ _ _ => of_word rfl rfl (mkWord_eng ..)
theorem vshl : ∀ a b c, Statement (.vshl a b c) := fun _ _ _ => of_word rfl rfl (mkWord_eng ..)
theorem vshr : ∀ a b c, Statement (.vshr a b c) := fun _ _ _ => of_word rfl rfl (mkWord_eng ..)
theorem vrnd : ∀ a b c, Statement (.vrnd a b c) := fun _ _ _ => of_word rfl rfl (mkWord_eng ..)
theorem vscalb : ∀ a b c, Statement (.vscalb a b c) := fun _ _ _ => of_word rfl rfl (mkWord_eng ..)
theorem vgexp : ∀ a b c, Statement (.vgexp a b c) := fun _ _ _ => of_word rfl rfl (mkWord_eng ..)
theorem vgman : ∀ a b c, Statement (.vgman a b c) := fun _ _ _ => of_word rfl rfl (mkWord_eng ..)
theorem vcvt : ∀ a b c, Statement (.vcvt a b c) := fun _ _ _ => of_word rfl rfl (mkWord_eng ..)
theorem vcvp : ∀ a b c, Statement (.vcvp a b c) := fun _ _ _ => of_word rfl rfl (mkWord_eng ..)
theorem vqnt : ∀ a b c, Statement (.vqnt a b c) := fun _ _ _ => of_word rfl rfl (mkWord_eng ..)
theorem vdqnt : ∀ a b c, Statement (.vdqnt a b c) := fun _ _ _ => of_word rfl rfl (mkWord_eng ..)
theorem vred : ∀ a b c, Statement (.vred a b c) := fun _ _ _ => of_word rfl rfl (mkWord_eng ..)
theorem vscan : ∀ a b c, Statement (.vscan a b c) := fun _ _ _ => of_word rfl rfl (mkWord_eng ..)
theorem vcoal : ∀ a b c, Statement (.vcoal a b c) := fun _ _ _ => of_word rfl rfl (mkWord_eng ..)
theorem vlen : ∀ a b c, Statement (.vlen a b c) := fun _ _ _ => of_word rfl rfl (mkWord_eng ..)
theorem vsplat : ∀ a b c, Statement (.vsplat a b c) := fun _ _ _ => of_word rfl rfl (mkWord_eng ..)
theorem vcat : ∀ a b c, Statement (.vcat a b c) := fun _ _ _ => of_word rfl rfl (mkWord_eng ..)
theorem vslice : ∀ a b c, Statement (.vslice a b c) := fun _ _ _ => of_word rfl rfl (mkWord_eng ..)
theorem vext : ∀ a b c, Statement (.vext a b c) := fun _ _ _ => of_word rfl rfl (mkWord_eng ..)
theorem vins : ∀ a b c, Statement (.vins a b c) := fun _ _ _ => of_word rfl rfl (mkWord_eng ..)
theorem vpop : ∀ a b c, Statement (.vpop a b c) := fun _ _ _ => of_word rfl rfl (mkWord_eng ..)
theorem vpush : ∀ a b c, Statement (.vpush a b c) := fun _ _ _ => of_word rfl rfl (mkWord_eng ..)
theorem vrda : ∀ a b c, Statement (.vrda a b c) := fun _ _ _ => of_word rfl rfl (mkWord_eng ..)
theorem vwra : ∀ a b c, Statement (.vwra a b c) := fun _ _ _ => of_word rfl rfl (mkWord_eng ..)
theorem vmov : ∀ a b c, Statement (.vmov a b c) := fun _ _ _ => of_word rfl rfl (mkWord_eng ..)
theorem vcnt : ∀ a b c, Statement (.vcnt a b c) := fun _ _ _ => of_word rfl rfl (mkWord_eng ..)
theorem viota : ∀ a b c, Statement (.viota a b c) := fun _ _ _ => of_word rfl rfl (mkWord_eng ..)
theorem xgath : ∀ a b c, Statement (.xgath a b c) := fun _ _ _ => of_word rfl rfl (mkWord_eng ..)
theorem xscat : ∀ a b c, Statement (.xscat a b c) := fun _ _ _ => of_word rfl rfl (mkWord_eng ..)
theorem xscadd : ∀ a b c, Statement (.xscadd a b c) := fun _ _ _ => of_word rfl rfl (mkWord_eng ..)
theorem xbag : ∀ a b c, Statement (.xbag a b c) := fun _ _ _ => of_word rfl rfl (mkWord_eng ..)
theorem gseed : ∀ a b c, Statement (.gseed a b c) := fun _ _ _ => of_word rfl rfl (mkWord_eng ..)
theorem gshort : ∀ a b c, Statement (.gshort a b c) := fun _ _ _ => of_word rfl rfl (mkWord_eng ..)
theorem gslow : ∀ a b c, Statement (.gslow a b c) := fun _ _ _ => of_word rfl rfl (mkWord_eng ..)
theorem gsamp : ∀ a b c, Statement (.gsamp a b c) := fun _ _ _ => of_word rfl rfl (mkWord_eng ..)
theorem gmask : ∀ a b c, Statement (.gmask a b c) := fun _ _ _ => of_word rfl rfl (mkWord_eng ..)
theorem gbudg : ∀ a b c, Statement (.gbudg a b c) := fun _ _ _ => of_word rfl rfl (mkWord_eng ..)
theorem gacpt : ∀ a b c, Statement (.gacpt a b c) := fun _ _ _ => of_word rfl rfl (mkWord_eng ..)
theorem gdraft : ∀ a b c, Statement (.gdraft a b c) := fun _ _ _ => of_word rfl rfl (mkWord_eng ..)
theorem gstage : ∀ a b c, Statement (.gstage a b c) := fun _ _ _ => of_word rfl rfl (mkWord_eng ..)
theorem gcomp : ∀ a b c, Statement (.gcomp a b c) := fun _ _ _ => of_word rfl rfl (mkWord_eng ..)
theorem unassignedOpcode : ∀ a, Statement (.unassignedOpcode a) := fun _ => of_word rfl rfl (mkWord_eng ..)
theorem zeroingComplete : ∀ a, Statement (.zeroingComplete a) := fun _ => of_event rfl rfl
theorem junctionTemperatureFall : Statement (.junctionTemperatureFall) := of_event rfl rfl

end Sys2Proof.Laws.Words
end

