-- ==== Sys2Proof/Tests/Slice0.lean ====
section
/-! SUPPORT. Tests: words written out field by field and what they decode to, an ill-formed term for each check of WellFormed, results worked out
in the spec or by hand, and for every statement with hypotheses a state and operands that meet them, clause by clause. -/

set_option maxRecDepth 20000

namespace Sys2Proof.Tests

open Sys2Proof Sys2Proof.Machine

/-! ### Words and their instructions -/

/-- The words decode to the instruction, with nothing left over, and are its encoding (an unassigned opcode has none). -/
def reads (p : List Word32 × Instr) : Bool :=
  (match decodeBytes (p.1.flatMap bytesOfWord) with
    | .ok (i, []) => i == p.2
    | _ => false)
  && (encodeBytes p.2 == p.1.flatMap bytesOfWord || (p.2 matches .unassignedOpcode _))

/-- Words of the control engine, field by field (R58, R67). -/
theorem test_decode_control1 : [
    ([0b001_010_101_000001_00001_11111_00000_0_0], .add ⟨2, 5⟩ ⟨1, 31, 0, false⟩ .none),
    ([0b001_011_010_000010_11110_00001_11000_1_0], .sub ⟨3, 2⟩ ⟨30, 1, 24, true⟩ .none),
    ([0b111_00000000000000000000000000111, 0b111_10000000000000000000000000011, 0b001_100_101_000011_00101_01010_00000_1_0], .mul ⟨4, 5⟩ ⟨5, 10, 0,
      true⟩ (.two 0x7 0x10000003)),
    ([0b001_101_010_000100_00100_11100_00110_0_0], .mulh ⟨5, 2⟩ ⟨4, 28, 6, false⟩ .none),
    ([0b001_110_101_000101_11011_00100_01101_1_0], .divn ⟨6, 5⟩ ⟨27, 4, 13, true⟩ .none),
    ([0b111_11010101111001101111011110101, 0b001_111_010_000110_01000_01101_00000_1_0], .remn ⟨7, 2⟩ ⟨8, 13, 0, true⟩ (.one 0x1abcdef5)),
    ([0b001_000_101_000111_00111_11001_01100_0_0], .and ⟨0, 5⟩ ⟨7, 25, 12, false⟩ .none),
    ([0b001_010_010_001000_11000_00111_00010_1_0], .or ⟨2, 2⟩ ⟨24, 7, 2, true⟩ .none),
    ([0b111_00000000000000000000000001101, 0b111_10000000000000000000000001001, 0b001_011_101_001001_01011_10000_00000_1_0], .xor ⟨3, 5⟩ ⟨11, 16, 0,
      true⟩ (.two 0xd 0x10000009)),
    ([0b001_100_010_001010_01010_10110_10010_0_0], .shl ⟨4, 2⟩ ⟨10, 22, 18, false⟩ .none),
    ([0b001_101_101_001011_10101_01010_10111_1_0], .shr ⟨5, 5⟩ ⟨21, 10, 23, true⟩ .none),
    ([0b111_11010101111001101111011111011, 0b001_110_010_001100_01110_10011_00000_1_0], .sha ⟨6, 2⟩ ⟨14, 19, 0,
      true⟩ (.one 0x1abcdefb))].all reads = true := by decide

/-- Words of the control engine, field by field (R58, R67). -/
theorem test_decode_control2 : [
    ([0b001_111_101_001101_01101_10011_11000_0_0], .min ⟨7, 5⟩ ⟨13, 19, 24, false⟩ .none),
    ([0b001_000_010_001110_10010_01101_01100_1_0], .max ⟨0, 2⟩ ⟨18, 13, 12, true⟩ .none),
    ([0b111_00000000000000000000000010011, 0b111_10000000000000000000000001111, 0b001_010_101_001111_10001_10110_00000_1_0], .minn ⟨2, 5⟩ ⟨17, 22, 0,
      true⟩ (.two 0x13 0x1000000f)),
    ([0b001_011_010_010000_10000_10000_11110_0_0], .maxn ⟨3, 2⟩ ⟨16, 16, 30, false⟩ .none),
    ([0b001_100_101_010011_01111_10000_00001_1_0], .slt ⟨4, 5⟩ ⟨15, 16, 1, true⟩ .none),
    ([0b111_11010101111001101111100000001, 0b001_101_010_010100_10100_11001_00000_1_0], .sltn ⟨5, 2⟩ ⟨20, 25, 0, true⟩ (.one 0x1abcdf01)),
    ([0b001_110_101_010001_01001_11110_00000_0_0], .clz ⟨6, 5⟩ ⟨9, 30, 0, false⟩ .none),
    ([0b001_111_010_010010_11111_11101_00000_0_0], .popc ⟨7, 2⟩ ⟨31, 29, 0, false⟩ .none),
    ([0b111_00000000000000000000000000010, 0b111_00000000000000000000000000000, 0b001_000_101_010101_01000_00000_00000_1_0], .li ⟨0, 5⟩ ⟨8, 0, 0,
      true⟩ (.two 0x2 0x0)),
    ([0b111_11111111111111111111111110000, 0b001_010_010_011000_10100_00011_0000000], .beq ⟨2, 2⟩ ⟨20, 3, 0⟩ (.one 0x1ffffff0)),
    ([0b001_011_101_011001_10101_00100_1000001], .bne ⟨3, 5⟩ ⟨21, 4, 65⟩ .none),
    ([0b111_11111111111111111111111110010, 0b001_100_010_011010_10110_00101_0000000], .blt ⟨4, 2⟩ ⟨22, 5, 0⟩ (.one 0x1ffffff2))].all reads = true := by decide

/-- Words of the control engine, field by field (R58, R67). -/
theorem test_decode_control3 : [
    ([0b001_101_101_011011_10111_00110_1000011], .bge ⟨5, 5⟩ ⟨23, 6, 67⟩ .none),
    ([0b111_11111111111111111111111110100, 0b001_110_010_011100_11000_00111_0000000], .bltn ⟨6, 2⟩ ⟨24, 7, 0⟩ (.one 0x1ffffff4)),
    ([0b001_111_101_011101_11001_01000_1000101], .bgen ⟨7, 5⟩ ⟨25, 8, 69⟩ .none),
    ([0b001_000_010_011110_00000_00000_0111111], .jmp ⟨0, 2⟩ ⟨0, 0, 63⟩ .none),
    ([0b001_010_101_011111_01100_00000_1111111], .call ⟨2, 5⟩ ⟨12, 0, 127⟩ .none),
    ([0b001_011_010_100000_00000_10001_0000000], .ret ⟨3, 2⟩ ⟨0, 17, 0⟩ .none),
    ([0b001_100_101_100001_00000_00110_1111111], .jtab ⟨4, 5⟩ ⟨0, 6, 127⟩ .none),
    ([0b001_000_000_101000_00000_00000_1100011], .trap ⟨0, 0⟩ ⟨0, 0, 99⟩ .none),
    ([0b001_000_000_101001_00000_00000_0000000], .eret ⟨0, 0⟩ ⟨0, 0, 0⟩ .none),
    ([0b001_101_010_101010_00000_11100_0000000], .svcNone ⟨5, 2⟩ ⟨0, 28, 0⟩ .none),
    ([0b001_110_101_101010_00000_00101_0000001], .grammarMaskRequest ⟨6, 5⟩ ⟨0, 5, 1⟩ .none),
    ([0b001_111_010_101010_00000_00110_0000010], .monitorSnapshotRead ⟨7, 2⟩ ⟨0, 6, 2⟩ .none)].all reads = true := by decide

/-- Words of the control engine, field by field (R58, R67). -/
theorem test_decode_control4 : [
    ([0b001_000_101_101010_00000_00111_0000011], .svcUnassigned ⟨0, 5⟩ ⟨0, 7, 3⟩ .none),
    ([0b001_010_010_101011_00000_00000_0001000], .waite ⟨2, 2⟩ ⟨0, 0, 8⟩ .none),
    ([0b001_011_101_110000_00000_00000_0001111], .bar ⟨3, 5⟩ ⟨0, 0, 15⟩ .none),
    ([0b001_100_010_110001_00000_00000_0000001], .mode ⟨4, 2⟩ ⟨0, 0, 1⟩ .none),
    ([0b111_00000000000010010001101000101, 0b001_101_101_110010_00000_00000_0000000], .gap ⟨5, 5⟩ ⟨0, 0, 0⟩ (.one 0x12345)),
    ([0b001_110_010_110011_00101_10101_0001000], .phase ⟨6, 2⟩ ⟨5, 21, 8⟩ .none),
    ([0b001_111_101_110100_10010_00000_0001011], .rdcr ⟨7, 5⟩ ⟨18, 0, 11⟩ .none),
    ([0b001_000_010_110101_00000_01001_0000011], .wrcrQstat ⟨0, 2⟩ ⟨0, 9, 3⟩ .none),
    ([0b001_010_101_110101_00000_01010_0000111], .wrcrHandler ⟨2, 5⟩ ⟨0, 10, 7⟩ .none),
    ([0b001_011_010_110101_00000_01011_0001011], .wrcrRngseed ⟨3, 2⟩ ⟨0, 11, 11⟩ .none),
    ([0b001_100_101_110110_00000_00000_0000000], .done ⟨4, 5⟩ ⟨0, 0, 0⟩ .none),
    ([0b001_101_010_110111_00000_01101_0001110], .abwait ⟨5, 2⟩ ⟨0, 13, 14⟩ .none)].all reads = true := by decide

/-- Words of the control engine, field by field (R58, R67). -/
theorem test_decode_control5 : [
    ([0b001_110_101_111000_00000_00000_0000000], .snap ⟨6, 5⟩ ⟨0, 0, 0⟩ .none)].all reads = true := by decide

/-- Words of the access engine, field by field (R60, R68). -/
theorem test_decode_access1 : [
    ([0b111_00000000000000001000000000000, 0b111_00000101010111100110111101111, 0b010_111_001_000001_1111_0000_0000_0_0000], .bli ⟨7, 1⟩ ⟨15, 0, 0,
      false⟩ (.two 0x1000 0xabcdef)),
    ([0b010_000_101_000010_0011_1001_1100_0_0000], .badd ⟨0, 5⟩ ⟨3, 9, 12, false⟩ .none),
    ([0b010_001_001_000011_0100_1010_0000_1_0000], .bmad ⟨1, 1⟩ ⟨4, 10, 0, true⟩ .none),
    ([0b010_011_101_000100_0101_1011_0000_0_0000], .bmov ⟨3, 5⟩ ⟨5, 11, 0, false⟩ .none),
    ([0b111_00000000000000000000001000000, 0b010_100_001_000101_0011_01_0101_0010_010], .ldq ⟨4, 1⟩ ⟨3, 1, 5, 2, 2⟩ (.one 0x40)),
    ([0b111_00000000000000000000000011000, 0b111_00000000000000001000000000000, 0b010_101_101_000110_1001_10_1010_1101_000], .stq ⟨5, 5⟩ ⟨9, 2, 10, 13,
      0⟩ (.two 0x18 0x1000)),
    ([0b111_00000000000000000000000001000, 0b111_00000000000000000000000101010, 0b010_110_001_000111_0001_11_0111_0110_001], .atom ⟨6, 1⟩ ⟨1, 3, 7, 6,
      1⟩ (.two 0x8 0x2a)),
    ([0b111_01000000000010010001101000000, 0b111_10101000000000000000001001101, 0b010_111_101_001000_0010_00_0000_0111_011], .copy ⟨7, 5⟩ ⟨2, 0, 0, 7,
      3⟩ (.two 0x8012340 0x1500004d)),
    ([0b111_10000000000000010000000000000, 0b111_00000000000000000000000001111, 0b010_000_001_001001_0100_00_0000_1000_100], .copyd ⟨0, 1⟩ ⟨4, 0, 0, 8,
      4⟩ (.two 0x10002000 0xf)),
    ([0b111_01011001000000000000001010101, 0b111_00100100011010000000000001001, 0b010_001_101_001010_0101_00_0000_1001_101], .coll ⟨1, 5⟩ ⟨5, 0, 0, 9,
      5⟩ (.two 0xb200055 0x48d0009)),
    ([0b111_00000000000100100011010000000, 0b111_00000000111011100000000000000, 0b010_011_001_001011_0110_00_0000_0000_110], .glsend ⟨3, 1⟩ ⟨6, 0, 0, 0,
      6⟩ (.two 0x24680 0x1dc000)),
    ([0b111_00000000000001000000000000001, 0b010_100_101_010000_0111_00_1000_0000_000], .fence ⟨4, 5⟩ ⟨7, 0, 8, 0,
      0⟩ (.one 0x8001))].all reads = true := by decide

/-- Words of the access engine, field by field (R60, R68). -/
theorem test_decode_access2 : [
    ([0b010_101_001_010001_0000_00_0011_0000_000], .fencesc ⟨5, 1⟩ ⟨0, 0, 3, 0, 0⟩ .none),
    ([0b111_00000000000000000010000000000, 0b111_00000000000000000100000000000, 0b010_110_101_010100_1000_00_0000_1010_000], .zflag ⟨6, 5⟩ ⟨8, 0, 0, 10,
      0⟩ (.two 0x400 0x800)),
    ([0b111_00000000000000000011111100100, 0b010_111_001_010101_0000_00_0000_0000_000], .bankgate ⟨7, 1⟩ ⟨0, 0, 0, 0, 0⟩ (.one 0x7e4)),
    ([0b111_00000000000000010000000000000, 0b111_00000000000000000000000000011, 0b010_000_101_011000_0000_00_0000_1011_000], .pginv ⟨0, 5⟩ ⟨0, 0, 0, 11,
      0⟩ (.two 0x2000 0x3)),
    ([0b111_11111111111111111111111111111, 0b010_001_001_011001_0000_00_0000_1100_000], .pgprobe ⟨1, 1⟩ ⟨0, 0, 0, 12, 0⟩ (.one 0x1fffffff)),
    ([0b111_00000000011111111111111111111, 0b010_011_101_011100_1111_0000_0000_0_0000], .abinit ⟨3, 5⟩ ⟨15, 0, 0, false⟩ (.one 0xfffff)),
    ([0b010_100_001_011101_1110_0000_0000_1_0000], .abexp ⟨4, 1⟩ ⟨14, 0, 0, true⟩ .none),
    ([0b111_00000000000000000000000000011, 0b010_101_101_011110_1101_0000_0000_0_0000], .abarv ⟨5, 5⟩ ⟨13, 0, 0,
      false⟩ (.one 0x3))].all reads = true := by decide

/-- Words of the matrix engine, field by field (R62, R69). -/
theorem test_decode_matrix1 : [
    ([0b111_00001000000000000000000000001, 0b111_00010000000000000000000000010, 0b011_110_001_000001_0000_0000_101_000000], .mtab ⟨6, 1⟩ ⟨0, 0, 5,
      0⟩ (.two 0x1000001 0x2000002)),
    ([0b111_00000000000001110100010000000, 0b111_00000000000010011111111100000, 0b011_111_101_000010_0000_0000_000_111000], .mrun ⟨7, 5⟩ ⟨0, 0, 0,
      56⟩ (.two 0xe880 0x13fe0)),
    ([0b111_00000000000010100000000000000, 0b111_00000000000011000000000000000, 0b011_000_001_000011_0000_0000_000_111000], .mrunb ⟨0, 1⟩ ⟨0, 0, 0,
      56⟩ (.two 0x14000 0x18000)),
    ([0b111_00000000000011100000000000000, 0b111_00000000000100000000000000000, 0b011_001_101_000100_0000_0000_010_001000], .mlowr ⟨1, 5⟩ ⟨0, 0, 2,
      8⟩ (.two 0x1c000 0x20000)),
    ([0b011_010_001_000101_1111_0000_000_000001], .mzero ⟨2, 1⟩ ⟨15, 0, 0, 1⟩ .none),
    ([0b011_100_101_000110_1110_0000_000_000001], .mdrain ⟨4, 5⟩ ⟨14, 0, 0, 1⟩ .none),
    ([0b111_00000000000100100000000000000, 0b011_101_001_000111_1101_0000_000_000000], .mjoin ⟨5, 1⟩ ⟨13, 0, 0, 0⟩ (.one 0x24000)),
    ([0b011_110_101_001000_1100_0000_000_000000], .mrec ⟨6, 5⟩ ⟨12, 0, 0, 0⟩ .none),
    ([0b011_111_001_001001_1011_0000_000_000000], .mreplay ⟨7, 1⟩ ⟨11, 0, 0, 0⟩ .none),
    ([0b111_00000000000101000000000000000, 0b111_00000000000101100000000000000, 0b011_000_101_010000_0000_0000_000_000000], .mfire ⟨0, 5⟩ ⟨0, 0, 0,
      0⟩ (.two 0x28000 0x2c000)),
    ([0b111_00000000000110000000000000000, 0b011_001_001_010001_0000_0000_000_000000], .mage ⟨1, 1⟩ ⟨0, 0, 0, 0⟩ (.one 0x30000)),
    ([0b111_00000000000110100000000000000, 0b111_00000001100100000000000001110, 0b011_010_101_010010_0000_0000_000_000000], .mplace ⟨2, 5⟩ ⟨0, 0, 0,
      0⟩ (.two 0x34000 0x32000e))].all reads = true := by decide

/-- Words of the vector engine, field by field (R63, R70). -/
theorem test_decode_vector1 : [
    ([0b111_00000000000000010000000000000, 0b100_011_001_000001_00010_00100_00110_1_0], .vadd ⟨3, 1⟩ ⟨2, 4, 6, true⟩ (.one 0x2000)),
    ([0b100_101_101_000010_00011_00101_00111_0_0], .vsub ⟨5, 5⟩ ⟨3, 5, 7, false⟩ .none),
    ([0b111_00000000000000010000000000000, 0b100_110_001_000011_11111_11110_11101_0_0], .vmul ⟨6, 1⟩ ⟨31, 30, 29, false⟩ (.one 0x2000)),
    ([0b111_01110000000000010000000000000, 0b100_111_101_000100_01000_01010_01100_1_0], .vfma ⟨7, 5⟩ ⟨8, 10, 12, true⟩ (.one 0xe002000)),
    ([0b100_000_001_000101_00001_00010_00011_0_0], .vmin ⟨0, 1⟩ ⟨1, 2, 3, false⟩ .none),
    ([0b111_00000000000000010000000000000, 0b100_001_101_000110_00100_00101_00110_0_0], .vmax ⟨1, 5⟩ ⟨4, 5, 6, false⟩ (.one 0x2000)),
    ([0b100_010_001_000111_00111_01000_00000_0_0], .vabs ⟨2, 1⟩ ⟨7, 8, 0, false⟩ .none),
    ([0b100_011_101_001000_01010_01100_00000_1_0], .vneg ⟨3, 5⟩ ⟨10, 12, 0, true⟩ .none),
    ([0b111_00000000000011100000000000000, 0b100_101_001_001001_01001_01011_01101_0_0], .vcmp ⟨5, 1⟩ ⟨9, 11, 13, false⟩ (.one 0x1c000)),
    ([0b111_10010000000000000000000000000, 0b100_110_101_001010_01111_10000_10001_0_0], .vsel ⟨6, 5⟩ ⟨15, 16, 17, false⟩ (.one 0x12000000)),
    ([0b100_111_001_001011_10100_10110_11000_1_0], .vand ⟨7, 1⟩ ⟨20, 22, 24, true⟩ .none),
    ([0b100_000_101_001100_10101_10111_11001_0_0], .vor ⟨0, 5⟩ ⟨21, 23, 25, false⟩ .none)].all reads = true := by decide

/-- Words of the vector engine, field by field (R63, R70). -/
theorem test_decode_vector2 : [
    ([0b100_001_001_001101_11010_11011_11100_0_0], .vxor ⟨1, 1⟩ ⟨26, 27, 28, false⟩ .none),
    ([0b100_010_101_001110_00001_11111_00000_0_0], .vnot ⟨2, 5⟩ ⟨1, 31, 0, false⟩ .none),
    ([0b111_00000000000000000000000000000, 0b111_00000000000000000000000000101, 0b100_011_001_001111_00010_00011_00000_0_0], .vshl ⟨3, 1⟩ ⟨2, 3, 0,
      false⟩ (.two 0x0 0x5)),
    ([0b100_101_101_010000_00100_00110_01000_1_0], .vshr ⟨5, 5⟩ ⟨4, 6, 8, true⟩ .none),
    ([0b111_00000000010000000000000000000, 0b100_110_001_010001_00101_00110_00000_0_0], .vrnd ⟨6, 1⟩ ⟨5, 6, 0, false⟩ (.one 0x80000)),
    ([0b111_00000000001100010000000000000, 0b100_111_101_010010_00111_01000_01001_0_0], .vscalb ⟨7, 5⟩ ⟨7, 8, 9, false⟩ (.one 0x62000)),
    ([0b100_000_001_010011_01010_01011_00000_0_0], .vgexp ⟨0, 1⟩ ⟨10, 11, 0, false⟩ .none),
    ([0b100_001_101_010100_01100_01101_00000_0_0], .vgman ⟨1, 5⟩ ⟨12, 13, 0, false⟩ .none),
    ([0b111_00000110001000010000000000000, 0b100_010_001_011000_01110_10000_00000_1_0], .vcvt ⟨2, 1⟩ ⟨14, 16, 0, true⟩ (.one 0xc42000)),
    ([0b111_00000011000100010000000000000, 0b100_011_101_011001_01111_10100_00000_0_0], .vcvp ⟨3, 5⟩ ⟨15, 20, 0, false⟩ (.one 0x622000)),
    ([0b111_00000100000100000000000000001, 0b111_10000000000000000000000000000, 0b100_101_001_011010_00001_00010_00011_0_0], .vqnt ⟨5, 1⟩ ⟨1, 2, 3,
      false⟩ (.two 0x820001 0x10000000)),
    ([0b111_00000001100000000000000000000, 0b100_110_101_011011_00100_00110_00000_1_0], .vdqnt ⟨6, 5⟩ ⟨4, 6, 0,
      true⟩ (.one 0x300000))].all reads = true := by decide

/-- Words of the vector engine, field by field (R63, R70). -/
theorem test_decode_vector3 : [
    ([0b111_00000000000000000000000000000, 0b111_00000000000000000000000000101, 0b100_111_001_100000_00101_00111_00000_0_0], .vred ⟨7, 1⟩ ⟨5, 7, 0,
      false⟩ (.two 0x0 0x5)),
    ([0b111_00000000000000000000000000000, 0b111_00000000000000000000000000100, 0b100_000_101_100001_01000_01010_00000_1_0], .vscan ⟨0, 5⟩ ⟨8, 10, 0,
      true⟩ (.two 0x0 0x4)),
    ([0b100_001_001_100010_01001_01011_00000_0_0], .vcoal ⟨1, 1⟩ ⟨9, 11, 0, false⟩ .none),
    ([0b111_00000000000000000000000000000, 0b111_00000000000000001000000000000, 0b100_010_101_100011_01100_01101_00000_0_0], .vlen ⟨2, 5⟩ ⟨12, 13, 0,
      false⟩ (.two 0x0 0x1000)),
    ([0b111_00000011000000000000000000000, 0b111_00000000000000000000011111111, 0b100_011_001_100100_01110_01111_00000_0_0], .vsplat ⟨3, 1⟩ ⟨14, 15, 0,
      false⟩ (.two 0x600000 0xff)),
    ([0b100_101_101_100101_10000_10010_10100_1_0], .vcat ⟨5, 5⟩ ⟨16, 18, 20, true⟩ .none),
    ([0b111_00000000000000000000000000000, 0b111_10000000000000000000001100100, 0b100_110_001_100110_10001_10011_00000_0_0], .vslice ⟨6, 1⟩ ⟨17, 19, 0,
      false⟩ (.two 0x0 0x10000064)),
    ([0b111_00000000000000000000000000000, 0b111_00000000000000000111111111111, 0b100_111_101_100111_10101_10110_00000_0_0], .vext ⟨7, 5⟩ ⟨21, 22, 0,
      false⟩ (.two 0x0 0xfff)),
    ([0b111_00000000000000000000000000000, 0b111_00000000000000000000000000111, 0b100_000_001_101000_10111_11000_11001_0_0], .vins ⟨0, 1⟩ ⟨23, 24, 25,
      false⟩ (.two 0x0 0x7)),
    ([0b100_001_101_110000_11010_00011_00000_0_0], .vpop ⟨1, 5⟩ ⟨26, 3, 0, false⟩ .none),
    ([0b111_00000000000000000000000000000, 0b111_00000000000000000000000000001, 0b100_010_001_110001_00000_11011_00000_0_0], .vpush ⟨2, 1⟩ ⟨0, 27, 0,
      false⟩ (.two 0x0 0x1)),
    ([0b111_00000000000000000000000000000, 0b111_00000000000000000001111111111, 0b100_011_101_110010_11100_00000_00000_0_0], .vrda ⟨3, 5⟩ ⟨28, 0, 0,
      false⟩ (.two 0x0 0x3ff))].all reads = true := by decide

/-- Words of the vector engine, field by field (R63, R70). -/
theorem test_decode_vector4 : [
    ([0b111_00000000000000000000000000000, 0b111_00000000000000000011111111111, 0b100_101_001_110011_00000_11101_00000_0_0], .vwra ⟨5, 1⟩ ⟨0, 29, 0,
      false⟩ (.two 0x0 0x7ff)),
    ([0b100_110_101_110100_11110_00000_00000_1_0], .vmov ⟨6, 5⟩ ⟨30, 0, 0, true⟩ .none),
    ([0b100_111_001_110101_11111_00001_00000_0_0], .vcnt ⟨7, 1⟩ ⟨31, 1, 0, false⟩ .none),
    ([0b111_00000101100000000000000000000, 0b111_00000000000000000000000001001, 0b100_000_101_110110_00010_00011_00000_0_0], .viota ⟨0, 5⟩ ⟨2, 3, 0,
      false⟩ (.two 0xb00000 0x9))].all reads = true := by decide

/-- Words of the index engine, field by field (R64, R71). -/
theorem test_decode_index1 : [
    ([0b101_001_001_000001_000_11111111111111], .xgath ⟨1, 1⟩ ⟨0, 16383⟩ .none),
    ([0b101_010_100_000010_010_11111111111010], .xscat ⟨2, 4⟩ ⟨2, 16378⟩ .none),
    ([0b101_011_001_000011_100_11111111110101], .xscadd ⟨3, 1⟩ ⟨4, 16373⟩ .none),
    ([0b101_100_100_000100_110_11111111110000], .xbag ⟨4, 4⟩ ⟨6, 16368⟩ .none)].all reads = true := by decide

/-- Words of the generation engine, field by field (R65, R71). -/
theorem test_decode_generation1 : [
    ([0b110_101_001_000001_001_1_0000000000000], .gseed ⟨5, 1⟩ ⟨1, true, 0⟩ .none),
    ([0b110_111_100_000010_010_1_0000000001111], .gshort ⟨7, 4⟩ ⟨2, true, 15⟩ .none),
    ([0b110_000_001_000011_011_1_0000000001110], .gslow ⟨0, 1⟩ ⟨3, true, 14⟩ .none),
    ([0b110_001_100_000100_100_1_0000000001101], .gsamp ⟨1, 4⟩ ⟨4, true, 13⟩ .none),
    ([0b111_00000000000000000001111101000, 0b110_010_001_000101_101_1_0000000001100], .gmask ⟨2, 1⟩ ⟨5, true, 12⟩ (.one 0x3e8)),
    ([0b111_11111111111111111111111111111, 0b110_011_100_000110_110_1_0000000001011], .gbudg ⟨3, 4⟩ ⟨6, true, 11⟩ (.one 0x1fffffff)),
    ([0b110_100_001_001000_000_1_0000000001111], .gacpt ⟨4, 1⟩ ⟨0, true, 15⟩ .none),
    ([0b111_10000000000000000000000000101, 0b110_101_100_001001_001_0_0000000000010], .gdraft ⟨5, 4⟩ ⟨1, false, 2⟩ (.one 0x10000005)),
    ([0b110_111_001_001010_010_1_0000000000000], .gstage ⟨7, 1⟩ ⟨2, true, 0⟩ .none),
    ([0b110_000_100_001011_011_1_0000000000000], .gcomp ⟨0, 4⟩ ⟨3, true, 0⟩ .none)].all reads = true := by decide

/-- The decoder's answer to an unassigned opcode (R72), on each engine at the ends of its unassigned values. -/
theorem test_decode_unassigned : [
    (0b001_000_000_000000_00000000000000000, Eng.C), (0b001_000_000_010110_00000000000000000, .C), (0b001_000_000_100111_00000000000000001, .C),
    (0b001_000_000_101100_00000000000000000, .C), (0b001_000_000_111001_00000000000000000, .C), (0b010_000_000_001100_00000000000000000, .A),
    (0b010_000_000_010010_00000000000000000, .A), (0b010_000_000_010111_00000000000000000, .A), (0b010_000_000_011011_00000000000000000, .A),
    (0b010_000_000_011111_00000000000000000, .A), (0b011_000_000_001010_00000000000000000, .M), (0b011_000_000_010011_00000000000000000, .M),
    (0b100_000_000_010101_00000000000000000, .V), (0b100_000_000_011111_00000000000000000, .V), (0b100_000_000_101001_00000000000000000, .V),
    (0b100_000_000_110111_00000000000000000, .V), (0b101_000_000_000101_00000000000000000, .X), (0b110_000_000_000111_00000000000000000, .G),
    (0b110_000_000_001100_00000000000000000, .G), (0b110_000_000_111111_00000000000000000, .G)].all
    (fun p => reads ([p.1], .unassignedOpcode p.2)) = true := by decide

/-- The decoder's refusals by name: eng 0 (R55), a third extension word (R56), a reserved bit of forms CR, AB and V (R66), more extension words than the
opcode takes (R57), words that end. -/
theorem test_decode_refuses :
    (decodeBytes [0, 0, 0, 0] matches .error .zeroEng) ∧ (decodeBytes [] matches .error .short) ∧ (decodeBytes [0, 0, 0, 0xE0] matches .error .short)
    ∧ (decodeBytes [0, 0, 0, 0xE0, 0, 0, 0, 0xE0, 0, 0, 0, 0xE0, 0, 0, 0, 0x20] matches .error .thirdExt)
    ∧ (decodeBytes (bytesOfWord 0b001_000_000_000001_00011_00100_00101_0_1) matches .error (.enc .illop .C))
    ∧ (decodeBytes (bytesOfWord 0b010_000_000_000010_0011_0100_0101_0_1000) matches .error (.enc .illop .A))
    ∧ (decodeBytes (bytesOfWord 0b100_000_000_000001_00010_00100_00110_0_1) matches .error (.enc .illop .V))
    ∧ (decodeBytes ([0, 0, 0, 0xE0] ++ bytesOfWord 0b001_000_000_000001_00011_00100_00101_0_0) matches .error (.enc .illext .C))
    ∧ (decodeBytes (bytesOfWord 0b001_001_000_000001_00011_00100_00101_0_0) matches .error (.enc .illop .C)) := by
  decide

/-! ### Ill-formed terms, one for each check -/

/-- No token. -/
def t0 : Tok := ⟨0, 0⟩

/-- Each of the instructions is refused with an ILLOP of its encoding. -/
def illops (is : List Instr) : Bool := is.all fun i => i.encErr == some .illop

/-- Each of the instructions is refused with an ILLEXT. -/
def illexts (is : List Instr) : Bool := is.all fun i => i.encErr == some .illext

/-- Token fields (R38, R54): wait and sig must not name the word's own engine, sig must not be 7. -/
theorem test_wf_tokens : illops [.add ⟨1, 0⟩ ⟨0, 0, 0, false⟩ .none, .add ⟨0, 1⟩ ⟨0, 0, 0, false⟩ .none, .add ⟨0, 7⟩ ⟨0, 0, 0, false⟩ .none,
    .bli ⟨2, 0⟩ ⟨0, 0, 0, false⟩ .none, .mrec ⟨0, 3⟩ ⟨0, 0, 0, 0⟩ .none, .vmov ⟨4, 0⟩ ⟨0, 0, 0, false⟩ .none, .xgath ⟨5, 0⟩ ⟨0, 0⟩ .none,
    .gseed ⟨0, 6⟩ ⟨0, true, 0⟩ .none] = true := by decide

/-- The control engine's forms (R59, R67, R277, R315, R342): b with an extension word, CLZ's b and i, LI's a, i and b, off with an extension word, JMP's
a and b, CALL's b, every field that must be 0, every selector out of range. -/
theorem test_wf_control : illops [.add t0 ⟨1, 2, 1, true⟩ (.one 5), .clz t0 ⟨1, 2, 1, false⟩ .none, .popc t0 ⟨1, 2, 0, true⟩ .none,
    .li t0 ⟨1, 1, 0, true⟩ .none, .li t0 ⟨1, 0, 0, false⟩ .none, .li t0 ⟨1, 0, 3, true⟩ (.one 0), .beq t0 ⟨1, 2, 3⟩ (.one 0), .jmp t0 ⟨1, 0, 3⟩ .none,
    .jmp t0 ⟨0, 1, 3⟩ .none, .call t0 ⟨1, 1, 3⟩ .none, .ret t0 ⟨1, 2, 0⟩ .none, .ret t0 ⟨0, 2, 1⟩ .none, .jtab t0 ⟨1, 2, 3⟩ .none,
    .trap t0 ⟨1, 0, 5⟩ .none, .trap t0 ⟨0, 1, 5⟩ .none, .trap ⟨2, 0⟩ ⟨0, 0, 5⟩ .none, .trap ⟨0, 2⟩ ⟨0, 0, 5⟩ .none, .eret t0 ⟨1, 0, 0⟩ .none,
    .eret t0 ⟨0, 1, 0⟩ .none, .eret t0 ⟨0, 0, 1⟩ .none, .eret ⟨2, 0⟩ ⟨0, 0, 0⟩ .none, .eret ⟨0, 2⟩ ⟨0, 0, 0⟩ .none, .svcNone t0 ⟨1, 0, 0⟩ .none,
    .svcNone t0 ⟨0, 29, 0⟩ .none, .svcNone t0 ⟨0, 0, 1⟩ .none, .grammarMaskRequest t0 ⟨0, 30, 1⟩ .none, .monitorSnapshotRead t0 ⟨0, 31, 2⟩ .none,
    .svcUnassigned t0 ⟨0, 0, 2⟩ .none, .svcUnassigned t0 ⟨0, 29, 3⟩ .none] = true := by decide

theorem test_wf_system : illops [.waite t0 ⟨0, 0, 0⟩ .none, .waite t0 ⟨0, 0, 9⟩ .none, .waite t0 ⟨1, 0, 1⟩ .none, .waite t0 ⟨0, 1, 1⟩ .none,
    .bar t0 ⟨0, 0, 16⟩ .none, .bar t0 ⟨1, 0, 0⟩ .none, .bar t0 ⟨0, 1, 0⟩ .none, .mode t0 ⟨0, 0, 2⟩ .none, .mode t0 ⟨1, 0, 1⟩ .none, .mode t0 ⟨0, 1, 1⟩ .none,
    .gap t0 ⟨1, 0, 0⟩ .none, .gap t0 ⟨0, 1, 0⟩ .none, .gap t0 ⟨0, 0, 1⟩ (.one 1), .phase t0 ⟨1, 0, 0⟩ .none, .phase t0 ⟨4, 0, 0⟩ .none,
    .phase t0 ⟨10, 0, 0⟩ .none, .phase t0 ⟨2, 0, 9⟩ .none, .phase t0 ⟨2, 28, 2⟩ .none, .rdcr t0 ⟨1, 1, 0⟩ .none, .rdcr t0 ⟨1, 0, 12⟩ .none,
    .wrcrQstat t0 ⟨1, 1, 3⟩ .none, .wrcrQstat t0 ⟨0, 1, 0⟩ .none, .wrcrHandler t0 ⟨1, 1, 7⟩ .none, .wrcrHandler t0 ⟨0, 1, 8⟩ .none,
    .wrcrRngseed t0 ⟨1, 1, 11⟩ .none, .wrcrRngseed t0 ⟨0, 1, 3⟩ .none, .done t0 ⟨1, 0, 0⟩ .none, .done t0 ⟨0, 1, 0⟩ .none, .done t0 ⟨0, 0, 1⟩ .none,
    .snap t0 ⟨0, 0, 1⟩ .none, .abwait t0 ⟨1, 0, 0⟩ .none, .abwait t0 ⟨0, 0, 16⟩ .none] = true := by decide

/-- The access engine's forms (R60, R68, R161, R183, R221, R239, R286, R310, R313, R338, R369). -/
theorem test_wf_base : illops [.bli t0 ⟨1, 1, 0, false⟩ .none, .bli t0 ⟨1, 0, 1, false⟩ .none, .bli t0 ⟨1, 0, 0, true⟩ .none, .badd t0 ⟨1, 2, 1, true⟩ .none,
    .badd t0 ⟨1, 2, 1, false⟩ (.one 1), .badd t0 ⟨1, 2, 0, true⟩ (.one 1), .bmad t0 ⟨1, 2, 3, true⟩ .none, .bmov t0 ⟨1, 2, 1, false⟩ .none,
    .bmov t0 ⟨1, 2, 0, true⟩ .none, .abinit t0 ⟨1, 1, 0, false⟩ .none, .abinit t0 ⟨1, 0, 1, false⟩ .none, .abinit t0 ⟨1, 0, 0, true⟩ (.one 1),
    .abexp t0 ⟨1, 0, 0, false⟩ (.one 0x100000), .abarv t0 ⟨1, 0, 0, true⟩ .none, .abarv t0 ⟨1, 1, 0, false⟩ .none, .abarv t0 ⟨1, 0, 1, false⟩ .none,
    .abarv t0 ⟨1, 0, 0, false⟩ (.one 0x100000)] = true := by decide

theorem test_wf_memory : illops [.ldq t0 ⟨0, 0, 1, 0, 0⟩ .none, .ldq t0 ⟨0, 1, 0, 0, 0⟩ .none, .ldq t0 ⟨0, 1, 11, 0, 0⟩ .none, .ldq t0 ⟨0, 2, 1, 0, 0⟩ .none,
    .ldq t0 ⟨0, 0, 0, 0, 6⟩ .none, .ldq t0 ⟨0, 0, 0, 0, 0⟩ (.two 0 0), .ldq t0 ⟨0, 0, 0, 0, 1⟩ (.two 0 0x2000), .ldq t0 ⟨0, 0, 0, 0, 1⟩ (.two 0 0xD000000),
    .ldq t0 ⟨0, 0, 0, 0, 4⟩ (.two 0 4097), .ldq t0 ⟨0, 0, 0, 0, 4⟩ (.two 0 0x11000000), .ldq t0 ⟨0, 0, 0, 0, 4⟩ (.two 0 0x10000001),
    .stq t0 ⟨0, 1, 1, 0, 0⟩ .none, .stq t0 ⟨0, 0, 0, 0, 1⟩ .none, .stq t0 ⟨0, 0, 0, 0, 0⟩ (.two 0 0x2000), .stq t0 ⟨0, 0, 0, 0, 0⟩ (.two 0 4097),
    .stq t0 ⟨0, 0, 0, 0, 0⟩ (.two 0 0x10000001), .atom t0 ⟨0, 0, 0, 0, 2⟩ .none, .atom t0 ⟨0, 0, 0, 0, 0⟩ (.two 0 11), .atom t0 ⟨0, 0, 0, 0, 0⟩ (.two 0 0x40),
    .atom t0 ⟨0, 0, 0, 0, 0⟩ (.two 0 0x3A), .fence t0 ⟨0, 0, 0, 0, 0⟩ .none, .fence t0 ⟨0, 0, 11, 0, 0⟩ .none, .fence t0 ⟨0, 1, 1, 0, 0⟩ .none,
    .fence t0 ⟨0, 0, 1, 1, 0⟩ .none, .fence t0 ⟨0, 0, 1, 0, 1⟩ .none, .fence t0 ⟨0, 0, 1, 0, 0⟩ (.one 0x10000), .fencesc t0 ⟨1, 0, 1, 0, 0⟩ .none,
    .fencesc t0 ⟨0, 0, 0, 0, 0⟩ .none, .fencesc t0 ⟨0, 1, 1, 0, 0⟩ .none, .fencesc t0 ⟨0, 0, 1, 1, 0⟩ .none, .fencesc t0 ⟨0, 0, 1, 0, 1⟩ .none] = true := by
  decide

theorem test_wf_commands : illops [.copy t0 ⟨0, 0, 0, 0, 7⟩ .none, .copy t0 ⟨0, 0, 0, 0, 0⟩ (.one 0x18000000), .copy t0 ⟨0, 0, 0, 0, 0⟩ (.one 0x200000),
    .copy t0 ⟨0, 0, 0, 0, 0⟩ (.one 0x4000000), .copy t0 ⟨0, 0, 0, 0, 0⟩ (.one 1), .copy t0 ⟨0, 0, 0, 0, 0⟩ (.one 0x10040000),
    .copy t0 ⟨0, 0, 0, 0, 0⟩ (.two 0 0x4000), .copyd t0 ⟨0, 0, 0, 0, 0⟩ .none, .copyd t0 ⟨0, 0, 0, 0, 0⟩ (.one 0xC000000),
    .copyd t0 ⟨0, 0, 0, 0, 0⟩ (.one 0x8200000), .copyd t0 ⟨0, 0, 0, 0, 0⟩ (.one 0x10040000), .copyd t0 ⟨0, 0, 0, 0, 0⟩ (.two 0x8000000 0x1000),
    .copyd t0 ⟨0, 0, 0, 0, 7⟩ (.one 0x8000000), .coll t0 ⟨0, 0, 0, 0, 0⟩ (.one 0x18000000), .coll t0 ⟨0, 0, 0, 0, 0⟩ (.one 0x5000000),
    .coll t0 ⟨0, 0, 0, 0, 0⟩ (.two 0 0x4000), .coll t0 ⟨0, 0, 0, 0, 7⟩ .none, .glsend t0 ⟨0, 0, 0, 1, 0⟩ .none, .glsend t0 ⟨0, 0, 0, 0, 7⟩ .none,
    .glsend t0 ⟨0, 0, 0, 0, 0⟩ (.one 1), .glsend t0 ⟨0, 0, 0, 0, 0⟩ (.two 0 1), .copy t0 ⟨0, 1, 0, 0, 0⟩ .none, .zflag t0 ⟨0, 1, 0, 0, 0⟩ .none,
    .zflag t0 ⟨0, 0, 1, 0, 0⟩ .none, .zflag t0 ⟨0, 0, 0, 0, 1⟩ .none, .zflag t0 ⟨0, 0, 0, 0, 0⟩ (.two 0 0x1000), .zflag t0 ⟨0, 0, 0, 0, 0⟩ (.two 0 2049),
    .bankgate t0 ⟨0, 1, 0, 0, 0⟩ .none, .bankgate t0 ⟨0, 0, 1, 0, 0⟩ .none, .bankgate t0 ⟨0, 0, 0, 1, 0⟩ .none, .bankgate t0 ⟨0, 0, 0, 0, 1⟩ .none,
    .bankgate t0 ⟨0, 0, 0, 0, 0⟩ (.one 0x800), .bankgate t0 ⟨0, 0, 0, 0, 0⟩ (.one 1), .pginv t0 ⟨0, 0, 0, 0, 0⟩ (.two 0 4), .pginv t0 ⟨0, 1, 0, 0, 0⟩ .none,
    .pginv t0 ⟨0, 0, 1, 0, 0⟩ .none, .pginv t0 ⟨0, 0, 0, 0, 1⟩ .none, .pgprobe t0 ⟨0, 1, 0, 0, 0⟩ .none, .pgprobe t0 ⟨0, 0, 1, 0, 0⟩ .none,
    .pgprobe t0 ⟨0, 0, 0, 0, 1⟩ .none] = true := by decide

/-- The matrix engine's form (R62, R69, R126, R128, R326). -/
theorem test_wf_matrix : illops [.mtab t0 ⟨1, 0, 0, 0⟩ .none, .mtab t0 ⟨0, 1, 0, 0⟩ .none, .mtab t0 ⟨0, 0, 0, 1⟩ .none, .mtab t0 ⟨0, 0, 6, 0⟩ .none,
    .mrun t0 ⟨1, 0, 0, 0⟩ .none, .mrun t0 ⟨0, 1, 0, 0⟩ .none, .mrun t0 ⟨0, 0, 1, 0⟩ .none, .mrun t0 ⟨0, 0, 0, 1⟩ .none, .mrun t0 ⟨0, 0, 0, 2⟩ .none,
    .mrun t0 ⟨0, 0, 0, 4⟩ .none, .mrun t0 ⟨0, 0, 0, 0⟩ (.one 0x2C00), .mrun t0 ⟨0, 0, 0, 0⟩ (.one 0x2C0), .mrun t0 ⟨0, 0, 0, 0⟩ (.one 1),
    .mrun t0 ⟨0, 0, 0, 0⟩ (.two 0 1), .mrun t0 ⟨0, 0, 0, 0⟩ (.two 0 0x20), .mrun t0 ⟨0, 0, 0, 0⟩ (.one 0x1420), .mrunb t0 ⟨1, 0, 0, 0⟩ .none,
    .mrunb t0 ⟨0, 0, 0, 1⟩ .none, .mrunb t0 ⟨0, 0, 0, 2⟩ .none, .mrunb t0 ⟨0, 0, 0, 4⟩ .none, .mrunb t0 ⟨0, 0, 0, 16⟩ .none,
    .mrunb t0 ⟨0, 0, 0, 0⟩ (.one 1), .mrunb t0 ⟨0, 0, 0, 0⟩ (.two 0 1), .mlowr t0 ⟨1, 0, 0, 0⟩ .none, .mlowr t0 ⟨0, 1, 0, 0⟩ .none,
    .mlowr t0 ⟨0, 0, 3, 0⟩ .none, .mlowr t0 ⟨0, 0, 0, 1⟩ .none, .mlowr t0 ⟨0, 0, 0, 0⟩ (.one 1), .mlowr t0 ⟨0, 0, 0, 0⟩ (.two 0 1),
    .mzero t0 ⟨0, 1, 0, 0⟩ .none, .mzero t0 ⟨0, 0, 1, 0⟩ .none, .mzero t0 ⟨1, 0, 0, 0⟩ .none, .mzero t0 ⟨0, 0, 0, 2⟩ .none, .mdrain t0 ⟨0, 1, 0, 0⟩ .none,
    .mdrain t0 ⟨0, 0, 1, 0⟩ .none, .mdrain t0 ⟨0, 0, 0, 2⟩ .none, .mjoin t0 ⟨0, 1, 0, 0⟩ .none, .mjoin t0 ⟨0, 0, 1, 0⟩ .none, .mjoin t0 ⟨0, 0, 0, 1⟩ .none,
    .mjoin t0 ⟨0, 0, 0, 0⟩ (.one 1), .mrec t0 ⟨0, 1, 0, 0⟩ .none, .mrec t0 ⟨0, 0, 1, 0⟩ .none, .mreplay t0 ⟨0, 0, 0, 1⟩ .none,
    .mfire t0 ⟨0, 0, 0, 1⟩ .none, .mfire t0 ⟨1, 0, 0, 0⟩ .none, .mfire t0 ⟨0, 0, 0, 0⟩ (.one 1), .mfire t0 ⟨0, 0, 0, 0⟩ (.two 0 1),
    .mage t0 ⟨0, 0, 0, 1⟩ .none, .mage t0 ⟨0, 1, 0, 0⟩ .none, .mage t0 ⟨0, 0, 0, 0⟩ (.one 1), .mplace t0 ⟨0, 0, 1, 0⟩ .none, .mplace t0 ⟨0, 0, 0, 1⟩ .none,
    .mplace t0 ⟨0, 0, 0, 0⟩ (.one 1), .mplace t0 ⟨0, 0, 0, 0⟩ (.two 0 1)] = true := by decide

/-- The vector engine's form and its modifier word (R63, R70, R343 to R358). -/
theorem test_wf_vector : illops [.vadd t0 ⟨1, 2, 4, true⟩ .none, .vadd t0 ⟨2, 1, 4, true⟩ .none, .vadd t0 ⟨2, 4, 1, true⟩ .none,
    .vfma t0 ⟨2, 4, 6, true⟩ (.one 0x1000000), .vadd t0 ⟨1, 2, 3, false⟩ (.one 0x1000000), .vadd t0 ⟨1, 2, 3, false⟩ (.one 0x100000),
    .vadd t0 ⟨1, 2, 3, false⟩ (.one 0x20000), .vadd t0 ⟨1, 2, 3, false⟩ (.one 0x4000), .vabs t0 ⟨1, 2, 0, false⟩ (.one 0x2000),
    .vadd t0 ⟨1, 2, 3, false⟩ (.one 8), .vadd t0 ⟨1, 2, 3, false⟩ (.one 1), .vadd t0 ⟨1, 2, 3, false⟩ (.two 0 1), .vabs t0 ⟨1, 2, 3, false⟩ .none,
    .vcvt t0 ⟨1, 2, 0, false⟩ (.one 0xD00000), .vrnd t0 ⟨1, 2, 0, false⟩ (.one 0xA0000), .vcvp t0 ⟨2, 2, 0, true⟩ (.one 0x600000),
    .vcvp t0 ⟨2, 2, 0, false⟩ .none, .vcvp t0 ⟨1, 3, 0, false⟩ (.one 0x100000), .vcvp t0 ⟨1, 2, 0, false⟩ (.one 0x600000),
    .vqnt t0 ⟨1, 2, 3, false⟩ (.one 0x200000), .vqnt t0 ⟨1, 2, 3, false⟩ (.one 0x900000), .vqnt t0 ⟨1, 1, 3, false⟩ (.one 0x300000),
    .vqnt t0 ⟨1, 2, 1, false⟩ (.one 0x300000), .vqnt t0 ⟨1, 2, 2, false⟩ (.one 0x300000), .vqnt t0 ⟨1, 2, 3, false⟩ (.two 0x300004 1),
    .vdqnt t0 ⟨1, 2, 0, false⟩ (.one 0x200000), .vdqnt t0 ⟨1, 2, 0, false⟩ (.one 0x900000), .vred t0 ⟨1, 2, 0, false⟩ (.two 0 6),
    .vscan t0 ⟨1, 2, 0, false⟩ (.two 0 6), .vlen t0 ⟨1, 2, 0, false⟩ (.two 0 4097), .vsplat t0 ⟨1, 2, 0, false⟩ (.two 0x600000 256),
    .vslice t0 ⟨1, 2, 0, false⟩ (.two 0 0x2000), .vslice t0 ⟨1, 2, 0, false⟩ (.two 1 0), .vext t0 ⟨1, 2, 0, false⟩ (.two 0 4096),
    .vext t0 ⟨2, 2, 0, true⟩ .none, .vins t0 ⟨1, 2, 3, false⟩ (.two 0 4096), .vpop t0 ⟨1, 4, 0, false⟩ .none, .vpop t0 ⟨2, 2, 0, true⟩ .none,
    .vpush t0 ⟨1, 2, 0, false⟩ .none, .vpush t0 ⟨0, 2, 0, false⟩ (.two 0 2), .vpush t0 ⟨0, 2, 0, true⟩ .none, .vrda t0 ⟨1, 1, 0, false⟩ .none,
    .vrda t0 ⟨1, 0, 0, false⟩ (.two 0 1024), .vrda t0 ⟨2, 0, 0, true⟩ .none, .vwra t0 ⟨1, 1, 0, false⟩ .none, .vwra t0 ⟨0, 1, 0, false⟩ (.two 0 2048),
    .vwra t0 ⟨0, 2, 0, true⟩ .none, .vcnt t0 ⟨2, 2, 0, true⟩ .none, .viota t0 ⟨1, 2, 0, false⟩ .none, .viota t0 ⟨1, 2, 0, false⟩ (.one 0xC00000)] = true := by
  decide

/-- The index and generation engines' forms (R60, R64, R65, R71, R254, R301). -/
theorem test_wf_units : illops [.xgath t0 ⟨7, 0⟩ .none, .xbag t0 ⟨7, 0⟩ .none, .gseed t0 ⟨7, true, 0⟩ .none, .gseed t0 ⟨0, false, 0⟩ .none,
    .gseed t0 ⟨0, true, 1⟩ .none, .gshort t0 ⟨0, true, 16⟩ .none, .gsamp t0 ⟨0, false, 0⟩ .none, .gmask t0 ⟨0, true, 16⟩ (.one 1), .gmask t0 ⟨0, true,
      0⟩ .none,
    .gbudg t0 ⟨0, true, 0⟩ .none, .gacpt t0 ⟨0, true, 0⟩ .none, .gacpt t0 ⟨0, true, 16⟩ .none, .gdraft t0 ⟨0, true, 0⟩ .none, .gdraft t0 ⟨0, false, 3⟩ .none,
    .gdraft t0 ⟨0, false, 4⟩ .none, .gdraft t0 ⟨0, false, 0⟩ (.one 0x1000), .gdraft t0 ⟨0, false, 0⟩ (.one 0x4000000),
    .gdraft t0 ⟨0, false, 0⟩ (.one 0x4000012), .gdraft t0 ⟨0, false, 0⟩ (.one 0x8000000), .gstage t0 ⟨0, true, 1⟩ .none, .gcomp t0 ⟨0, false,
      0⟩ .none] = true := by
  decide

/-- More extension words than the opcode takes (R57, R67 to R71). -/
theorem test_wf_ext : illexts [.add t0 ⟨0, 0, 0, false⟩ (.one 0), .clz t0 ⟨0, 0, 0, false⟩ (.one 0), .beq t0 ⟨0, 0, 0⟩ (.two 0 0), .jmp t0 ⟨0, 0,
  0⟩ (.two 0 0),
    .ret t0 ⟨0, 0, 0⟩ (.one 0), .gap t0 ⟨0, 0, 0⟩ (.two 0 0), .bmov t0 ⟨0, 0, 0, false⟩ (.one 0), .fence t0 ⟨0, 0, 1, 0, 0⟩ (.two 0 0),
    .fencesc t0 ⟨0, 0, 1, 0, 0⟩ (.one 0), .bankgate t0 ⟨0, 0, 0, 0, 0⟩ (.two 0 0), .pgprobe t0 ⟨0, 0, 0, 0, 0⟩ (.two 0 0), .abinit t0 ⟨0, 0, 0,
      false⟩ (.two 0 0),
    .mzero t0 ⟨0, 0, 0, 0⟩ (.one 0), .mjoin t0 ⟨0, 0, 0, 0⟩ (.two 0 0), .mage t0 ⟨0, 0, 0, 0⟩ (.two 0 0), .xgath t0 ⟨0, 0⟩ (.one 0),
    .gseed t0 ⟨0, true, 0⟩ (.one 0), .gmask t0 ⟨0, true, 0⟩ (.two 1 0), .gdraft t0 ⟨0, false, 0⟩ (.two 0 0)] = true := by decide

/-! ### Witnesses: for each statement, states and operands that meet its hypotheses -/

/-- A croft of owner 0 at work: word 3 issues at vc 5 in an overlay of 100 words; S1 to S4 and B1, B2 hold values. -/
def c0 : Croft := { ({} : Croft) with
  owner := some 0, vclock := 5, nextVc := 6, atVc := 6, issuePc := 3, issueSeq := 9, seq := 10, overlay := { handle := 1, len := 100, entry := 2 }
  s := vset (vset (vset (vset ({} : Croft).s 1 7) 2 0xFFFFFFFFFFFFFFFE) 3 99) 4 (2 ^ 16 + 40)
  b := vset (vset (vset ({} : Croft).b 1 (2 ^ 56 + 64)) 2 (2 * 2 ^ 56 + 16384)) 3 8192 }

/-- The module running with one croft, of owner 0. -/
def st (c : Croft) : State := { State.reset with boot := .running, crofts := [(0, c)], owners := [(0, { crofts := [0] })] }

/-- A croft whose handler stands at word 40. -/
def ch : Croft := { c0 with handler := 2 ^ 16 + 40 }

/-- Operand queues with entries. -/
def cq : Croft := { c0 with qc := [⟨1, some 21⟩], qr := [4, 5], qa := [6] }

/-- A croft that fetches: the splitter stopped behind word 3. -/
def cj : Croft := { c0 with split := { pc := 4, stopped := true, seq := 9 } }

/-- An instruction issues in SCORE mode. -/
def cs : Croft := { c0 with mode := .score, nextVc := 50 }

/-- A furrow of launch 7: two temporal levels of 2 and 3 points, a croft level, at the point (0, 2, 5, 0, 0, 0). -/
def fur : Furrow := { launch := 7, handle := 1, levels := [⟨1, 2⟩, ⟨1, 3⟩, ⟨4, 8⟩, ⟨0, 1⟩, ⟨0, 1⟩, ⟨0, 1⟩], point := [0, 2, 5, 0, 0, 0], arg := 77 }

/-- Its launch, of two furrows, one of which has ended. -/
def lch : Launch := { num := 7, owner := 0, handle := 1, rank := 0, dies := 1, arg := 77, levels := fur.levels, parts := 1, ended := 0 }

/-- The croft with that furrow. -/
def cf : Croft := { c0 with furrow := some fur }

/-- In a handler, with S24's shadow, nothing outstanding. -/
def cr : Croft := { ch with
  frame := some { queues := vset ({} : Croft).queues 3 [⟨4, 8, .bad .illop 0⟩], split := { pc := 12 }, resume := 44
                  land := [⟨2, 1, 1, .C, 0, .setS 5 6, .snap ⟨0, 0⟩ ⟨0, 0, 0⟩ .none⟩], hold := 1 }
  shadow := vset ({} : Croft).shadow 0 123 }

/-- Every scratchpad byte lies in A's, M's, X's and G's open phases (a phase for each at a time is enough for a witness). -/
def whole : Phase := { reads := [], writes := [⟨0, 2 ^ 21⟩] }

/-- A croft whose engine with number k has all of the scratchpad open, some bytes of which hold values. -/
def cm (k : Nat) : Croft := { cq with
  phases := vset cq.phases k whole
  sp := (((({} : Memory).write 64 0x11).write 71 0x22).write 72 0x33).write 2097151 0x44
  acm := (({} : Memory).write 16384 0x55).write 16391 0x66
  qs := [0x1111, 0x2222, 0x3333] }

/-- A croft that M may use: all of the scratchpad open, a row map of 2 rows and one window at 640, a vector of 2 elements at 1280, a packed tile at
2560; the contract asks 1 K-step and 1 round. -/
def cw : Croft := { cm 2 with
  contract := 2 ^ 48 + 2 ^ 32 + 0x1C0
  mtab := vset ({} : Croft).mtab 5 (2 ^ 56 + 2 ^ 39)
  sp := ((((({} : Memory).writeN 640 [2, 0, 1, 0, 1, 0]).writeN 657 [1, 0, 0, 0, 0, 1]).writeN 704 [0, 0xFF, 3, 0, 0, 0, 0, 0]).writeN 1280
    [2, 0, 1, 1, 0, 0, 0, 0, 7, 0, 0, 0, 1]).writeN 2560 [0, 8, 1, 1, 0, 0, 0, 0, 7, 0, 0, 0, 0xFF, 7] }

/-- The map at 640. -/
def mp0 : RowMap := { nrows := 2, h := 1, wfmt := 0, ks := 1, age := 0, wbase := 0, wstr := 256, gbase := 65536, gen := 0, cnt := [3, 0], plc := [0xFF, 0] }

/-- A croft with vectors: V1, V2 and V3 of I32, V4 a mask. -/
def cv : Croft := { c0 with v := vset (vset (vset (vset c0.v 1 ⟨8, [⟨5, 2⟩, ⟨7, 1⟩]⟩) 2 ⟨8, [⟨0xFFFFFFFF, 1⟩, ⟨3, 1⟩, ⟨4, 1⟩]⟩) 3 ⟨0, [⟨0x3F800000, 3⟩]⟩) 4 ⟨12, [⟨1, 1⟩, ⟨0, 2⟩]⟩ }

/-- A service message (R266): function, OP, SEQ, payload; TAG is 77. -/
def msg (fn : Option Nat) (op seq : Nat) (p : List Byte) : Msg :=
  ⟨fn, leBytes 2 0x535A ++ [1, 0] ++ leBytes 2 op ++ [0, 0] ++ leBytes 8 77 ++ leBytes 4 p.length ++ leBytes 4 0 ++ leBytes 8 seq ++ p⟩

/-- A signature. -/
def sg : List Byte := List.replicate 64 0

/-- The rows that a list of places gives, and the module after they are read. -/
def rowsOf (s : State) (n len : Nat) (l : List (Space × Nat)) : List (List Byte) × State := match s.readRowList n len l with | .ok r => r | .error _ => ([], s)
theorem rowsRead {n len : Nat} : ∀ {l : List (Space × Nat)} {s t : State} {bs : List (List Byte)}, s.readRowList n len l = .ok (bs,
  t) → Claims.RowsRead n len l s bs t
  | [], s, t, bs, h => by simp only [State.readRowList, Except.ok.injEq, Prod.mk.injEq] at h; exact ⟨h.1.symm, h.2.symm⟩
  | a :: l, s, t, bs, h => by
    simp only [State.readRowList] at h
    split at h
    · exact nomatch h
    · next b s1 hb =>
      split at h
      · exact nomatch h
      · next r s2 hr =>
        simp only [Except.ok.injEq, Prod.mk.injEq] at h
        obtain ⟨rfl, rfl⟩ := h
        have ih := rowsRead hr
        obtain ⟨z, a⟩ := a
        cases z
        all_goals simp only [State.readRow, Except.ok.injEq, Prod.mk.injEq] at hb
        all_goals first | exact ⟨b, r, s1, rfl, hb, ih⟩ | (obtain ⟨rfl, rfl⟩ := hb; exact ⟨r, rfl, ih⟩)
theorem rowsRead_of {n len k : Nat} {l m : List (Space × Nat)} {s : State} (hl : l = m) (hn : len = k)
    (h : (match s.readRowList n k m with | .ok _ => true | .error _ => false) = true) : Claims.RowsRead n len l s (rowsOf s n k m).1 (rowsOf s n k m).2 := by
  subst hl hn
  refine rowsRead ?_
  unfold rowsOf
  split at h
  · next r hr => simp [hr]
  · exact nomatch h

/-! ### Results worked out in the spec, or by hand from its rules -/

/-- The results in flight after an instruction that issues alone on a croft. -/
def flight (i : Instr) (c : Croft) : List LandOp := match exec i (st c) with | .next t => t.cur.lands.map (·.op) | _ => []

/-- What a landing vector holds: its tag, its runs, its flags. -/
def vec : LandOp → Nat × List (Nat × Nat) × Nat
  | .setV _ _ _ r => (r.vd.tag, r.vd.runs.map fun x => (x.value.toNat, x.count), r.flags.toNat)
  | _ => (99, [], 0)

/-- The fault code that an instruction leaves in FCODE, where the handler at word 40 takes it. -/
def faultOf (i : Instr) (c : Croft) : Nat := match exec i (st { c with handler := 2 ^ 16 + 40 }) with | .next t => t.cur.fcode.toNat % 2 ^ 6 | _ => 99

/-- A croft with the vectors of the worked examples: V1 = (1.0 × 4)(2.0 × 6), V2 = (0.5 × 3)(1.0 × 1)(0.0 × 6), V3 = (1.5 × 3)(2.0 × 7) (R159, R345),
V4 to V7 those of VCVP (R349). -/
def cx : Croft := { c0 with
  v := vset (vset (vset (vset (vset (vset (vset c0.v 1 ⟨0, [⟨0x3F800000, 4⟩, ⟨0x40000000, 6⟩]⟩) 2 ⟨0, [⟨0x3F000000, 3⟩, ⟨0x3F800000, 1⟩, ⟨0, 6⟩]⟩)
    3 ⟨0, [⟨0x3FC00000, 3⟩, ⟨0x40000000, 7⟩]⟩) 4 ⟨0, [⟨0x3F800000, 4⟩]⟩) 5 ⟨0, [⟨0xC0000000, 2⟩, ⟨0x3F000000, 2⟩]⟩) 6 ⟨0, [⟨0x43FA0000, 4⟩]⟩) 7 ⟨0, [⟨0,
      4⟩]⟩ }

/-- A − B and the wrap of ADD modulo 2^64 (R331): S2 = 2^64 − 2, S1 = 7. -/
theorem test_add_wraps : flight (.add t0 ⟨5, 2, 3, true⟩ .none) c0 = [.setS 5 1] := by decide
theorem test_sub_order : flight (.sub t0 ⟨5, 1, 2, false⟩ .none) c0 = [.setS 5 9] := by decide
/-- The high half of −2 · 7, and the remainder of 2^64 − 2 by 7 (R331). -/
theorem test_mulh : flight (.mulh t0 ⟨5, 2, 1, false⟩ .none) c0 = [.setS 5 0xFFFFFFFFFFFFFFFF] := by decide
theorem test_remn : flight (.remn t0 ⟨5, 2, 1, false⟩ .none) c0 = [.setS 5 0] := by decide
/-- −2 shifted right by one, arithmetically and not (R331). -/
theorem test_sha : flight (.sha t0 ⟨5, 2, 1, true⟩ .none) c0 = [.setS 5 0xFFFFFFFFFFFFFFFF] := by decide
theorem test_shr : flight (.shr t0 ⟨5, 2, 1, true⟩ .none) c0 = [.setS 5 0x7FFFFFFFFFFFFFFF] := by decide
/-- −2 < 7 as signed numbers, and not as unsigned ones (R331). -/
theorem test_slt : flight (.slt t0 ⟨5, 2, 1, false⟩ .none) c0 = [.setS 5 1] := by decide
theorem test_sltn : flight (.sltn t0 ⟨5, 2, 1, false⟩ .none) c0 = [.setS 5 0] := by decide
/-- S0 discards what is written to it (R40). -/
theorem test_s0 : flight (.add t0 ⟨0, 1, 1, false⟩ .none) c0 = [.nothing] := by decide

/-- BMAD B5, B3, 24 with B5 = 0x0100_0000_0000_2000 and B3 = 3 gives 0x0100_0000_0000_2048 (R279). -/
theorem test_bmad : flight (.bmad t0 ⟨5, 3, 0, false⟩ (.one 24)) { c0 with b := vset (vset c0.b 5 0x0100000000002000) 3 3 }
    = [.setB 5 0x0100000000002048] := by decide

/-- VADD V3, V1, V2 gives (1.5 × 3)(2.0 × 7) (R159). -/
theorem test_vadd : (flight (.vadd t0 ⟨3, 1, 2, false⟩ .none) cx).map vec = [(0, [(0x3FC00000, 3), (0x40000000, 7)], 0)] := by decide
/-- Another tag for V2 makes it land as LENMIS (R159). -/
theorem test_vadd_tags : flight (.vadd t0 ⟨3, 1, 2, false⟩ .none) { cx with v := vset cx.v 2 ⟨2, [⟨0x3F00, 10⟩]⟩ } = [.vfault .lenmis] := by decide
/-- VCAT V5, V1, V3 gives four runs of LEN 20 (R345), and VCNT of it N32 (4 × 1)(20 × 1) (R346). -/
theorem test_vcat : (flight (.vcat t0 ⟨5, 1, 3, false⟩ .none) cx).map vec
    = [(0, [(0x3F800000, 4), (0x40000000, 6), (0x3FC00000, 3), (0x40000000, 7)], 0)] := by decide
theorem test_vcnt : (flight (.vcnt t0 ⟨9, 5, 0, false⟩ .none)
    { cx with v := vset cx.v 5 ⟨0, [⟨0x3F800000, 4⟩, ⟨0x40000000, 6⟩, ⟨0x3FC00000, 3⟩, ⟨0x40000000, 7⟩]⟩ }).map vec = [(11, [(4, 1), (20, 1)],
      0)] := by decide
/-- VCVP.FP8E4.SAT V8, V4 saturates 500.0 and sets SATB; without .SAT it gives NaN and sets OVF (R349). The modifier word is that of R70. -/
theorem test_vcvp_sat : (flight (.vcvp t0 ⟨8, 4, 0, false⟩ (.one 0x302000)) cx).map vec = [(11, [(0x007EC038, 2), (0x007E3038, 2)], 4)] := by decide
theorem test_vcvp : (flight (.vcvp t0 ⟨8, 4, 0, false⟩ (.one 0x300000)) cx).map vec = [(11, [(0x007FC038, 2), (0x007F3038, 2)], 2)] := by decide
/-- VCVP with a = 5 faults with ILLOP (R349). -/
theorem test_vcvp_odd : faultOf (.vcvp t0 ⟨8, 5, 0, false⟩ (.one 0x302000)) cx = 0x01 := by decide

/-- BF16 70000.0 narrowed to E5M2 (R104): infinity with OVF, or 57344 with SATB. -/
theorem test_narrow_inf : rnd e5m2 0 false (bf16.value 0x4789) = (0x7C, fOVF) := by decide
theorem test_narrow_sat : rnd e5m2 0 true (bf16.value 0x4789) = (0x7B, fSATB) := by decide
/-- An MXINT4 block with amax = 5.0 has S = 129 and encodes 5.0 as 5 (R101). -/
theorem test_quant : (quantBlock (mxFmt 0) 0 [(fp32.value 0x40A00000, false)]).1 = 129 := by decide
/-- Lengths 1, 2 and 2 for the symbols 0, 1 and 15 give the codes 0, 10 and 11 (R179). -/
theorem test_codes : codeAssign 0 0 (codeOrder [1, 2, 0, 0, 0, 0, 0, 0, 0, 0, 0, 0, 0, 0, 0, 2]) = [(0, 1, 0b0), (1, 2, 0b10), (15, 2, 0b11)] := by decide
/-- A contract request as welc writes it (R92): rank 3, ceiling 4, floor 2, share 32, LAT 12, KSTEPS 4 is one that a header may ask for. -/
theorem test_contract : requestOk (BitVec.ofNat 64 (leNat [0x03, 0x15, 0x08, 0, 0, 0, 0, 0])) (BitVec.ofNat 64 (leNat [0x0C, 0, 0x04, 0, 0, 0, 0,
  0])) = true := by decide
/-- Hedge descriptors as welc writes them (R93): A reads 64 KiB at 0 and writes 16 KiB at 0x1_0000. -/
theorem test_hedge : (rangeOf (BitVec.ofNat 64 (leNat [0, 0, 0, 4, 0, 0, 0, 0])), rangeOf (BitVec.ofNat 64 (leNat [0, 4, 0, 1, 1, 0, 0, 0])))
    = (some (false, ⟨0, 0x10000⟩), some (true, ⟨0x10000, 0x4000⟩)) := by decide
/-- TRAP enters the handler with code 0x0D (R342). -/
theorem test_trap : faultOf (.trap t0 ⟨0, 0, 99⟩ .none) c0 = 0x0D := by decide
/-- Each part of a context begins where the one before ends, and the fixed part has 2,494,464 bytes (R237); so in the generation area of 8,192 (R257). -/
theorem test_context_parts : (ContextPart.all.zip ContextPart.all.tail).all (fun p => decide (p.1.offset + p.1.bytes = p.2.offset)) = true
    ∧ (ContextPart.all.map ContextPart.bytes).sum = 2494464 ∧ contextFixed = 2494464 := by decide
theorem test_generation_area : let l := [GenPart.slots, .stages, .staging, .budget, .work, .zero].map fun g => g.place
    (l.zip l.tail).all (fun p => decide (p.1.1 + p.1.2 = p.2.1)) = true ∧ (l.map (·.2)).sum = 8192 := by decide
/-- A record's 32 bytes, laid out as R227 says: CROFT at 0x10, OWNER at 0x12, PC at 0x14, VC at 0x18. -/
theorem test_record_bytes : (⟨0x41, 0x0100000000000040, 0x0102, 3, 9, 5⟩ : Record).bytes
    = [0x41, 0, 0, 0, 0, 0, 0, 0, 0x40, 0, 0, 0, 0, 0, 0, 1, 2, 1, 3, 0, 9, 0, 0, 0, 5, 0, 0, 0, 0, 0, 0, 0] := by decide

/-! ### Checks that evaluate, each with the hypothesis it decides -/

/-- Claims.SpOk as a check: the bytes lie in the scratchpad, every bank is up, and one range of the engine's open phase holds them all. -/
def spB (c : Croft) (e : Eng) (a n : Nat) (w : Bool) : Bool :=
  decide (a < 2 ^ 21) && decide (a + n ≤ 2 ^ 21) && (List.range 32).all (fun k => decide (vget c.gates .up k = .up))
    && (if w then (vget c.phases {} e.ix).writes else (vget c.phases {} e.ix).reads ++ (vget c.phases {} e.ix).writes).any
      fun r => decide (r.base ≤ a) && decide (a + n ≤ r.base + r.len)

theorem spOk_of {c : Croft} {e : Eng} {a n : Nat} {w : Bool} (h : spB c e a n w = true) : Claims.SpOk c e a n w := by
  simp only [spB, Bool.and_eq_true, decide_eq_true_eq, List.all_eq_true, List.any_eq_true, List.mem_range] at h
  obtain ⟨⟨⟨h0, h1⟩, h2⟩, r, hr, h3, h4⟩ := h
  exact ⟨⟨h0, h1⟩, fun x _ hx => h2 _ (by omega), fun x h5 h6 => ⟨r, hr, by omega, by omega⟩⟩

/-- Claims.StepRead as a check. -/
def stepB (c : Croft) (r : Int × Nat) : Bool :=
  decide (0 ≤ r.1) && decide (0 < r.2) && spB c .M r.1.toNat r.2 false && decide (r.1.toNat / 524288 = (r.1.toNat + r.2 - 1) / 524288)

theorem stepRead_of {c : Croft} {r : Int × Nat} (h : stepB c r = true) : Claims.StepRead c r := by
  simp only [stepB, Bool.and_eq_true, decide_eq_true_eq] at h
  exact ⟨h.1.1.1, h.1.1.2, spOk_of h.1.2, h.2⟩

theorem stepsReadable_of {c : Croft} {rs : StepRanges}
    (h : (rs.all fun p => stepB c p.2 && match p.1 with
      | none => true | some a => stepB c a && decide (a.1.toNat / 524288 ≠ p.2.1.toNat / 524288)) = true) : Claims.StepsReadable c rs := by
  intro p hp
  have h := List.all_eq_true.1 h p hp
  simp only [Bool.and_eq_true] at h
  refine ⟨stepRead_of h.1, fun a ha => ?_⟩
  rw [ha] at h
  simp only [Bool.and_eq_true, decide_eq_true_eq] at h
  exact ⟨stepRead_of h.2.1, h.2.2⟩

/-- The results and the STQs set aside at a handler's entry. -/
def asideB (c : Croft) : List Pending := match c.frame with | some f => f.land | none => []
def stqsB (c : Croft) : List StqRun := c.stq.toList ++ (match c.frame with | some f => f.stq.toList | none => [])

theorem aside_of {c : Croft} {q : Nat} {p : Pending} (h : Claims.SetAside c q p) : p ∈ asideB c := by
  obtain ⟨-, f, hf, hp⟩ := h
  simpa only [asideB, hf] using hp

theorem stq_of {c : Croft} {q : Nat} {r : StqRun} (h : Claims.StqBefore c q r) : r ∈ stqsB c := by
  rcases h with h | ⟨-, f, hf, hr⟩
  · exact List.mem_append_left _ (by simp [h])
  · exact List.mem_append_right _ (by simp [hf, hr])

/-- A result in flight is no scratchpad write of the class and none to the bytes. -/
def clearB (cls a n : Nat) (p : Pending) : Bool :=
  match p.spWrite with | none => true | some (y, m) => decide (clsOf p.ins ≠ cls) && (decide (y + m ≤ a) || decide (a + n ≤ y))

theorem clear_of {cls a n : Nat} {p : Pending} (h : clearB cls a n p = true) : ¬Claims.HoldsSp cls a n p := by
  rintro ⟨y, m, hy, hc⟩
  simp only [clearB, hy, Bool.and_eq_true, Bool.or_eq_true, decide_eq_true_eq] at h
  rcases hc with hc | ⟨z, _⟩
  · exact h.1 hc
  · omega

/-- Claims.OrderOk as a check, for a croft none of whose accesses ahead is of the class. -/
def orderB (c : Croft) (cls a n : Nat) : Bool :=
  (c.accs.all fun b => decide (b.ord.cls ≠ cls) || decide (c.issueSeq ≤ b.seq) || b.isProbe)
    && (stqsB c).all (fun r => decide (r.ord.cls ≠ cls) && (decide (r.addr + 8 * r.need ≤ a) || decide (a + n ≤ r.addr)))
    && (asideB c).all (clearB cls a n) && (decide (c.mode ≠ .score) || c.lands.all (clearB cls a n))

theorem orderOk_of {c : Croft} {cls a n : Nat} (h : orderB c cls a n = true) : Claims.OrderOk c cls a n := by
  simp only [orderB, Bool.and_eq_true, Bool.or_eq_true, decide_eq_true_eq, List.all_eq_true] at h
  obtain ⟨⟨⟨h1, h2⟩, h3⟩, h4⟩ := h
  refine ⟨fun b hb hs hc => ?_, fun r hr => ?_, fun p hp => clear_of (h3 p (aside_of hp)), fun hm p hp => ?_⟩
  · rcases h1 b hb with (h | h) | h
    · exact absurd hc h
    · omega
    · exact .inl h
  · have h := h2 r (stq_of hr)
    exact ⟨fun _ _ => h.1, fun _ => ⟨h.1, fun z hz => by omega⟩⟩
  · rcases h4 with h | h
    · exact absurd hm h
    · exact clear_of (h p hp)

/-- Claims.CommandReady as a check, for a croft with no access and no scratchpad write ahead. -/
theorem commandReady_of {c : Croft} {q cls : Nat}
    (h : (c.fenceOpen q cls && c.accs.all (fun a => decide (q ≤ a.seq)) && (c.lands ++ asideB c).all (fun p => decide (p.spWrite = none))
      && (stqsB c).all fun r => decide (r.ord.cls ≠ cls)) = true) :
    Claims.CommandReady c q cls := by
  simp only [Bool.and_eq_true, decide_eq_true_eq, List.all_eq_true, List.mem_append] at h
  exact ⟨h.1.1.1, fun a ha hs => by have := h.1.1.2 a ha; omega,
    fun p hp _ hw => absurd (h.1.2 p (hp.imp id aside_of)) hw, fun r hr _ _ => h.2 r (stq_of hr)⟩

/-- Claims.Performed as a check, for a croft outside its handler. -/
theorem performed_of {c : Croft} {q : Nat} (hf : c.frame = none)
    (h : (c.copyq.all (fun k => decide (k.seq ≠ q)) && c.indexq.all (fun k => decide (k.seq ≠ q)) && c.genq.all (fun k => decide (k.seq ≠ q))
      && c.inFlight.all (fun p => decide (p.seq ≠ q) || (decide (p.op.onSp = false) && decide (p.op ≠ .nest)))
      && match c.stq with | none => true | some r => decide (r.seq ≠ q)) = true) : Claims.Performed c q := by
  simp only [Bool.and_eq_true, Bool.or_eq_true, decide_eq_true_eq, List.all_eq_true] at h
  refine ⟨⟨h.1.1.1.1, h.1.1.1.2, h.1.1.2⟩,
    fun p hp hq => (h.1.2 p hp).resolve_left (fun hn => hn hq), fun r hr => ?_, fun f hg => absurd hg (by rw [hf]; nofun)⟩
  have h := h.2
  rw [hr] at h
  exact of_decide_eq_true h

/-- Claims.Arrives as a check. -/
def arrivesB (s : State) (m : Msg) (op : Nat) : Bool :=
  let b := m.bytes
  s.power && decide (s.boot = .running) && (match m.fn with | none => true | some o => (s.owners.find o).isSome)
    && decide (32 ≤ b.length) && decide (Claims.field b 0x00 2 = 0x535A) && decide (Claims.field b 0x02 1 = 1) && decide (Claims.field b 0x03 1 = 0)
    && decide (Claims.field b 0x04 2 = op) && decide (Claims.field b 0x06 2 = 0) && decide (Claims.field b 0x14 4 = 0)
    && decide (Claims.field b 0x10 4 = b.length - 32) && decide (b.length - 32 ≤ 0x4000000)
    && decide (Claims.field b 0x18 8 = s.seqs.get 0 (Claims.endpointOf m.fn))

theorem arrives_of {s : State} {m : Msg} {op : Nat} (h : arrivesB s m op = true) : Claims.Arrives s m op := by
  simp only [arrivesB, Bool.and_eq_true, decide_eq_true_eq] at h
  obtain ⟨⟨⟨⟨⟨⟨⟨⟨⟨⟨⟨⟨h0, h1⟩, h2⟩, h3⟩, h4⟩, h5⟩, h6⟩, h7⟩, h8⟩, h9⟩, h10⟩, h11⟩, h12⟩ := h
  exact ⟨h0, h1, fun o ho => by rw [ho] at h2; exact h2, ⟨h3, h4, ⟨h5, h6⟩, h7, ⟨h8, h9⟩, h10, h11⟩, h12⟩

theorem landingForm_of {c : Croft} (h1 : c.zclear.Pairwise fun p q => p.1 < q.1) (h2 : c.memWf = true)
    (h3 : ∀ k, k < 16 → (vget c.abs {} k).ini = 0 ∨ 1 ≤ (vget c.abs {} k).pend) : Claims.LandingForm c := by
  refine ⟨h1, h2, fun k => ?_⟩
  by_cases hk : k < 16
  · exact h3 k hk
  · left
    simp [vget, hk]

/-- Claims.Apart as a check: no write range of one phase meets a range of the other. -/
def apartB (p q : Phase) : Bool :=
  (p.writes.all fun r => (q.reads ++ q.writes).all fun x => decide (r.base + r.len ≤ x.base) || decide (x.base + x.len ≤ r.base))
    && p.reads.all fun r => q.writes.all fun x => decide (r.base + r.len ≤ x.base) || decide (x.base + x.len ≤ r.base)

theorem apart_of {p q : Phase} (h : apartB p q = true) : Claims.Apart p q := by
  simp only [apartB, Bool.and_eq_true, Bool.or_eq_true, decide_eq_true_eq, List.all_eq_true] at h
  exact ⟨fun r hr x hx y hy => by have := h.1 r hr x hx; omega, fun r hr x hx y hy => by have := h.2 r hr x hx; omega⟩

/-- Page numbers left on every stack, as a check of the sixteen. -/
theorem pages_of {v : Vector Stack 16} {m : Nat} (h : ((List.range 16).all fun st => decide ((vget v {} st).nextPage + 2 + 3 * m ≤ 2 ^ 24)) = true) :
    ∀ st, (vget v {} st).nextPage + 2 + 3 * m ≤ 2 ^ 24 := fun st => by
  by_cases hs : st < 16
  · exact of_decide_eq_true (List.all_eq_true.1 h st (List.mem_range.2 hs))
  · have hm := of_decide_eq_true (List.all_eq_true.1 h 0 (by decide))
    have hv : vget v ({} : Stack) st = {} := by simp [vget, hs]
    have hz : ({} : Stack).nextPage = 0 := rfl
    rw [hv, hz]
    omega

/-- Claims.Readable as a check. -/
def readableB (c : Croft) (w : Bool) (n : Nat) : Bool :=
  let x := vget c.v {} n
  let y := vget c.v {} (n + 1)
  !w || x.runs.isEmpty || y.runs.isEmpty || (decide (x.tag = y.tag) && decide (x.len + y.len ≤ 4096))

theorem readable_iff {c : Croft} {w : Bool} {n : Nat} : Claims.Readable c w n ↔ readableB c w n = true := by
  simp only [Claims.Readable, readableB, Bool.or_eq_true, Bool.and_eq_true, Bool.not_eq_true', decide_eq_true_eq, List.isEmpty_iff]
  cases w <;> by_cases hx : (vget c.v {} n).runs = [] <;> by_cases hy : (vget c.v {} (n + 1)).runs = [] <;> simp [hx, hy]

/-! ### Witnesses, part 1 -/

namespace W1

def arg0 : CR := ⟨30,31,29,false⟩
def arg1 : Word64 → Word64 → Word64 := fun u v => BitVec.ofInt 64 ((u.toNat : Int) - v.toNat)
def sta0 : State := st c0
def arg2 : CR := ⟨6,2,0,false⟩
def arg3 : Word64 → Word64 → Word64 := fun u v => BitVec.ofNat 64 (u.toNat + v.toNat)
def arg4 : CB := ⟨1,1,5⟩
def arg5 : Word64 → Word64 → Bool := fun u v => decide (u = v)
def sta1 : State := st cj
def arg6 : CB := ⟨1,1,0⟩
def ext0 : Ext := .one 97
def arg7 : CB := ⟨1,1,0x7C⟩
def arg8 : CB := ⟨9,0,4⟩
def sta2 : State := st {cj with overlay := {cj.overlay with frags := [(2,[1,2]),(5,[0,0,0,0,0,0,0,9])]}}
def cft0 : Croft := {cj with overlay := {cj.overlay with frags := [(2,[1,2]),(5,[0,0,0,0,0,0,0,9])]}}
def arg9 : Word64 := 2^16+40
def ext1 : Ext := .one 7
def arg10 : Word64 → Word64 → Word64 := fun u v => if v.toNat ≤ u.toNat then u else v

/-- ScalarTwoOperands: hypotheses that can be met. -/
theorem test_witness_ScalarTwoOperands :
    Claims.scalar2 (.sub t0 ⟨30,31,29,false⟩ .none : Instr) = some (t0, arg0, Ext.none, 1, arg1) ∧
      Ready (.sub t0 ⟨30,31,29,false⟩ .none : Instr) t0 (st cq : State) cq ∧ Claims.read cq arg0.a.toNat = some (21, ({cq with qc := []} : Croft)) ∧
      Claims.second ({cq with qc := []} : Croft) arg0 Ext.none = some (4, ({cq with qc := [], qr := [5]} : Croft)) ∧
      Claims.written ({cq with qc := [], qr := [5]} : Croft) arg0.d.toNat (arg1 21 4) = some (.pushA 17 : LandOp) :=
  ⟨by first | decide | rfl, ⟨rfl, by decide, by decide, by decide, by rfl⟩, by first | decide | rfl, by first | decide | rfl, by first | decide | rfl⟩

/-- ScalarOneOperand: hypotheses that can be met, clause by clause. -/
theorem test_witness_ScalarOneOperand :
    (Ready (Instr.clz t0 arg2 Ext.none) t0 sta0 c0 ∧ Claims.read c0 arg2.a.toNat = some (18446744073709551614, c0) ∧
      Claims.written c0 arg2.d.toNat (BitVec.ofNat 64 (Claims.clz 18446744073709551614)) = some (.setS 6 0 : LandOp))
    ∧ (Ready (Instr.popc t0 arg2 Ext.none) t0 sta0 c0 ∧ Claims.read c0 arg2.a.toNat = some (18446744073709551614, c0) ∧
      Claims.written c0 arg2.d.toNat (BitVec.ofNat 64 (Claims.ones 18446744073709551614)) = some (.setS 6 63 : LandOp))
    ∧ (Ready (Instr.li t0 (⟨6,0,16,true⟩ : CR) Ext.none) t0 sta0 c0 ∧
      Claims.written c0 (⟨6,0,16,true⟩ : CR).d.toNat (Claims.immediate (⟨6,0,16,true⟩ : CR) Ext.none) = some (.setS 6 0xFFFFFFFFFFFFFFF0 : LandOp)) :=
  ⟨⟨⟨rfl, by decide, by decide, by decide, by rfl⟩, by first | decide | rfl, by first | decide | rfl⟩,
   ⟨⟨rfl, by decide, by decide, by decide, by rfl⟩, by first | decide | rfl, by first | decide | rfl⟩,
   ⟨⟨rfl, by decide, by decide, by decide, by rfl⟩, by first | decide | rfl⟩⟩

/-- ScalarWaits: hypotheses that can be met. -/
theorem test_witness_ScalarWaits :
    Claims.scalar2 (.add t0 ⟨5,31,2,false⟩ .none : Instr) = some (t0, (⟨5,31,2,false⟩ : CR), Ext.none, 1, arg3) ∧
      Ready (.add t0 ⟨5,31,2,false⟩ .none : Instr) t0 sta0 c0 ∧
      (Claims.read c0 (⟨5,31,2,false⟩ : CR).a.toNat = none ∨ (∃ (u : Word64), ∃ (c1 : Croft), Claims.read c0 (⟨5,31,2,false⟩ : CR).a.toNat = some (u, c1) ∧
      Claims.second c1 (⟨5,31,2,false⟩ : CR) Ext.none = none) ∨ ∃ (u : Word64), ∃ (c1 : Croft), ∃ (v : Word64), ∃ (c2 : Croft), Claims.read c0 (⟨5,31,2,false⟩ : CR).a.toNat = some (u,
      c1) ∧ Claims.second c1 (⟨5,31,2,false⟩ : CR) Ext.none = some (v, c2) ∧ Claims.written c2 (⟨5,31,2,false⟩ : CR).d.toNat (arg3 u v) = none) :=
  ⟨by first | decide | rfl, ⟨rfl, by decide, by decide, by decide, by rfl⟩, .inl rfl⟩

/-- ConditionalBranches: hypotheses that can be met, clause by clause. -/
theorem test_witness_ConditionalBranches :
    (Claims.branch (.beq t0 ⟨1,1,5⟩ .none : Instr) = some (t0, arg4, Ext.none, arg5) ∧ Ready (.beq t0 ⟨1,1,5⟩ .none : Instr) t0 sta1 cj ∧
      Claims.read cj arg4.a.toNat = some (7, cj) ∧ Claims.read cj arg4.b.toNat = some (7, cj) ∧ arg5 7 7 = true ∧ 0 ≤ Claims.target cj.issuePc arg4 Ext.none ∧
      Claims.target cj.issuePc arg4 Ext.none < ↑cj.overlay.len)
    ∧ ((Claims.branch (.bne t0 ⟨1,1,5⟩ .none : Instr) = some (t0, arg4, Ext.none, (fun u v => decide (u ≠ v) : Word64 → Word64 → Bool))) ∧
      Ready (.bne t0 ⟨1,1,5⟩ .none : Instr) t0 sta1 cj ∧ Claims.read cj arg4.a.toNat = some (7, cj) ∧ Claims.read cj arg4.b.toNat = some (7, cj) ∧
      ((fun u v => decide (u ≠ v) : Word64 → Word64 → Bool) 7 7 = false))
    ∧ (Claims.branch (.beq t0 ⟨1,1,0⟩ (.one 97) : Instr) = some (t0, arg6, ext0, arg5) ∧ Ready (.beq t0 ⟨1,1,0⟩ (.one 97) : Instr) t0 sta1 cj ∧
      Claims.read cj arg6.a.toNat = some (7, cj) ∧ Claims.read cj arg6.b.toNat = some (7, cj) ∧ arg5 7 7 = true ∧ (¬(0 ≤ Claims.target cj.issuePc arg6 ext0 ∧
      Claims.target cj.issuePc arg6 ext0 < ↑cj.overlay.len)))
    ∧ (Claims.branch (.beq t0 ⟨1,1,0x7C⟩ .none : Instr) = some (t0, arg7, Ext.none, arg5) ∧ Ready (.beq t0 ⟨1,1,0x7C⟩ .none : Instr) t0 sta1 cj ∧
      Claims.read cj arg7.a.toNat = some (7, cj) ∧ Claims.read cj arg7.b.toNat = some (7, cj) ∧ arg5 7 7 = true ∧
      (¬(0 ≤ Claims.target cj.issuePc arg7 Ext.none ∧ Claims.target cj.issuePc arg7 Ext.none < ↑cj.overlay.len))) :=
  ⟨⟨by first | decide | rfl, ⟨rfl, by decide, by decide, by decide, by rfl⟩, by first | decide | rfl, by first | decide | rfl, by first | decide | rfl,
    by first | decide | rfl, by first | decide | rfl⟩,
   ⟨by first | decide | rfl, ⟨rfl, by decide, by decide, by decide, by rfl⟩, by first | decide | rfl, by first | decide | rfl, by first | decide | rfl⟩,
   ⟨by first | decide | rfl, ⟨rfl, by decide, by decide, by decide, by rfl⟩, by first | decide | rfl, by first | decide | rfl, by first | decide | rfl,
     by first | decide | rfl⟩,
   ⟨by first | decide | rfl, ⟨rfl, by decide, by decide, by decide, by rfl⟩, by first | decide | rfl, by first | decide | rfl, by first | decide | rfl,
     by first | decide | rfl⟩⟩

/-- Jumps: hypotheses that can be met, clause by clause. -/
theorem test_witness_Jumps :
    (Ready (Instr.jmp t0 (⟨0,0,0x7D⟩ : CB) Ext.none) t0 sta1 cj ∧ 0 ≤ Claims.target cj.issuePc (⟨0,0,0x7D⟩ : CB) Ext.none ∧
      Claims.target cj.issuePc (⟨0,0,0x7D⟩ : CB) Ext.none < ↑cj.overlay.len)
    ∧ (Ready (Instr.call t0 arg8 Ext.none) t0 sta1 cj ∧ 0 ≤ Claims.target cj.issuePc arg8 Ext.none ∧
      Claims.target cj.issuePc arg8 Ext.none < ↑cj.overlay.len ∧
      Claims.written cj arg8.a.toNat (BitVec.ofNat 64 (cj.issuePc + 1)) = some (.setS 9 4 : LandOp))
    ∧ (Ready (Instr.ret t0 (⟨0,3,0⟩ : CX) Ext.none) t0 sta1 cj ∧ Claims.read cj (⟨0,3,0⟩ : CX).a.toNat = some (99, cj) ∧ (99 : Word64).toNat < cj.overlay.len)
    ∧ (Ready (Instr.jtab t0 (⟨0,1,5⟩ : CX) Ext.none) t0 sta2 cft0 ∧ Claims.read cft0 (⟨0,1,5⟩ : CX).a.toNat = some (7, cft0) ∧
      (List.find? (fun (p : Nat × List Nat) => p.fst == (⟨0,1,5⟩ : CX).k.toNat) cft0.overlay.frags = some ((⟨0,1,5⟩ : CX).k.toNat,
      ([0,0,0,0,0,0,0,9] : List Nat))) ∧ ([0,0,0,0,0,0,0,9] : List Nat)[(7 : Word64).toNat]? = some 9 ∧ 9 < cft0.overlay.len) :=
  ⟨⟨⟨rfl, by decide, by decide, by decide, by rfl⟩, by first | decide | rfl, by first | decide | rfl⟩,
   ⟨⟨rfl, by decide, by decide, by decide, by rfl⟩, by first | decide | rfl, by first | decide | rfl, by first | decide | rfl⟩,
   ⟨⟨rfl, by decide, by decide, by decide, by rfl⟩, by first | decide | rfl, by first | decide | rfl⟩,
   ⟨⟨rfl, by decide, by decide, by decide, by rfl⟩, by first | decide | rfl, by first | decide | rfl, by first | decide | rfl, by first | decide | rfl⟩⟩

/-- JumpsOutside: hypotheses that can be met, clause by clause. -/
theorem test_witness_JumpsOutside :
    (Ready (Instr.jmp t0 (⟨0,0,0x7C⟩ : CB) Ext.none) t0 sta1 cj ∧ (¬(0 ≤ Claims.target cj.issuePc (⟨0,0,0x7C⟩ : CB) Ext.none ∧
      Claims.target cj.issuePc (⟨0,0,0x7C⟩ : CB) Ext.none < ↑cj.overlay.len)))
    ∧ (Ready (Instr.call t0 (⟨5,0,0⟩ : CB) ext0) t0 sta1 cj ∧ (¬(0 ≤ Claims.target cj.issuePc (⟨5,0,0⟩ : CB) ext0 ∧
      Claims.target cj.issuePc (⟨5,0,0⟩ : CB) ext0 < ↑cj.overlay.len)))
    ∧ (Ready (Instr.ret t0 (⟨0,4,0⟩ : CX) Ext.none) t0 sta1 cj ∧ Claims.read cj (⟨0,4,0⟩ : CX).a.toNat = some (arg9, cj) ∧ cj.overlay.len ≤ BitVec.toNat arg9)
    ∧ (Ready (Instr.jtab t0 (⟨0,4,3⟩ : CX) Ext.none) t0 sta1 cj ∧ Claims.read cj (⟨0,4,3⟩ : CX).a.toNat = some (arg9, cj) ∧
      (((List.find? (fun (p : Nat × List Nat) => p.fst == (⟨0,4,3⟩ : CX).k.toNat) cj.overlay.frags).bind fun (p : Nat × List Nat) => p.snd[BitVec.toNat arg9]?) = none)) :=
  ⟨⟨⟨rfl, by decide, by decide, by decide, by rfl⟩, by first | decide | rfl⟩,
   ⟨⟨rfl, by decide, by decide, by decide, by rfl⟩, by first | decide | rfl⟩,
   ⟨⟨rfl, by decide, by decide, by decide, by rfl⟩, by first | decide | rfl, by first | decide | rfl⟩,
   ⟨⟨rfl, by decide, by decide, by decide, by rfl⟩, by first | decide | rfl, by first | decide | rfl⟩⟩

/-- OneOperandWaits: hypotheses that can be met, clause by clause. -/
theorem test_witness_OneOperandWaits :
    (Ready (Instr.clz t0 (⟨6,31,0,false⟩ : CR) Ext.none) t0 sta0 c0 ∧
      (Claims.read c0 (⟨6,31,0,false⟩ : CR).a.toNat = none ∨ ∃ (p : Word64 × Croft), Claims.read c0 (⟨6,31,0,false⟩ : CR).a.toNat = some p ∧
      Claims.written p.snd (⟨6,31,0,false⟩ : CR).d.toNat (BitVec.ofNat 64 (Claims.clz p.fst)) = none))
    ∧ (Ready (Instr.popc t0 (⟨6,29,0,false⟩ : CR) Ext.none) t0 sta0 c0 ∧
      (Claims.read c0 (⟨6,29,0,false⟩ : CR).a.toNat = none ∨ ∃ (p : Word64 × Croft), Claims.read c0 (⟨6,29,0,false⟩ : CR).a.toNat = some p ∧
      Claims.written p.snd (⟨6,29,0,false⟩ : CR).d.toNat (BitVec.ofNat 64 (Claims.ones p.fst)) = none))
    ∧ (Ready (Instr.li t0 (⟨30,0,5,true⟩ : CR) Ext.none) t0 (st {c0 with qa := List.replicate 16 0} : State) ({c0 with qa := List.replicate 16 0} : Croft) ∧
      Claims.written ({c0 with qa := List.replicate 16 0} : Croft) (⟨30,0,5,true⟩ : CR).d.toNat (Claims.immediate (⟨30,0,5,true⟩ : CR) Ext.none) = none) :=
  ⟨⟨⟨rfl, by decide, by decide, by decide, by rfl⟩, by first | decide | rfl⟩,
   ⟨⟨rfl, by decide, by decide, by decide, by rfl⟩, by first | decide | rfl⟩,
   ⟨⟨rfl, by decide, by decide, by decide, by rfl⟩, by first | decide | rfl⟩⟩

/-- ScalarEncodings: hypotheses that can be met, clause by clause. -/
theorem test_witness_ScalarEncodings :
    (sta0.power = true ∧ Claims.scalar2 (.sub t0 ⟨5,1,2,false⟩ (.one 7) : Instr) = some (t0, (⟨5,1,2,false⟩ : CR), ext1, 1, arg1) ∧
      (⟨5,1,2,false⟩ : CR).i = false ∧ ext1 ≠ Ext.none)
    ∧ (sta0.power = true ∧ Claims.scalar2 (.maxn t0 ⟨5,1,2,true⟩ (.one 7) : Instr) = some (t0, (⟨5,1,2,true⟩ : CR), ext1, 1, arg10) ∧
      (⟨5,1,2,true⟩ : CR).i = true ∧ (⟨5,1,2,true⟩ : CR).b ≠ 0 ∧ ext1 ≠ Ext.none)
    ∧ (sta0.power = true ∧
      ((.clz t0 ⟨5,1,0,false⟩ (.two 7 1) : Instr) = Instr.clz t0 (⟨5,1,0,false⟩ : CR) (.two 7 1 : Ext) ∨ (.clz t0 ⟨5,1,0,false⟩ (.two 7 1) : Instr) = Instr.popc t0 (⟨5,1,0,false⟩ : CR) (.two 7 1 : Ext)) ∧
      (⟨5,1,0,false⟩ : CR).i = false ∧ (.two 7 1 : Ext) ≠ Ext.none)
    ∧ (sta0.power = true ∧
      ((.popc t0 ⟨5,1,0,true⟩ .none : Instr) = Instr.clz t0 (⟨5,1,0,true⟩ : CR) Ext.none ∨ (.popc t0 ⟨5,1,0,true⟩ .none : Instr) = Instr.popc t0 (⟨5,1,0,true⟩ : CR) Ext.none) ∧
      Ext.none = Ext.none ∧ ((⟨5,1,0,true⟩ : CR).b ≠ 0 ∨ (⟨5,1,0,true⟩ : CR).i = true))
    ∧ (sta0.power = true ∧ ((⟨5,0,0,false⟩ : CR).i = false ∨ (⟨5,0,0,false⟩ : CR).a ≠ 0 ∨ (⟨5,0,0,false⟩ : CR).b ≠ 0 ∧ (.two 7 1 : Ext) ≠ Ext.none)) :=
  ⟨⟨by first | decide | rfl, by first | decide | rfl, by first | decide | rfl, by first | decide | rfl⟩,
   ⟨by first | decide | rfl, by first | decide | rfl, by first | decide | rfl, by first | decide | rfl, by first | decide | rfl⟩,
   ⟨by first | decide | rfl, by first | decide | rfl, by first | decide | rfl, by first | decide | rfl⟩,
   ⟨by first | decide | rfl, by first | decide | rfl, by first | decide | rfl, by first | decide | rfl⟩,
   ⟨by first | decide | rfl, by first | decide | rfl⟩⟩

end W1

/-! ### Witnesses, part 2 -/

namespace W2

def kh (h : Halt) (a : Nat) : CopyCmd := {seq := 5, pc := 2, launch := 7, arv := a, ord := ⟨2,0,0⟩, kind := .copy 64 true 128 .sp false 1, halt := h}
def frb : Frame := { queues := vset ({} : Croft).queues 3 [⟨4, 8, .bad .illop 0⟩], split := { pc := 12 }, resume := 44, land := [⟨2, 1, 1, .C, 0, .setS 5 6, .snap ⟨0, 0⟩ ⟨0, 0, 0⟩ .none⟩], hold := 1 }
def frd : Frame := {frb with land := frb.land ++ [⟨9,1,1,.M,0,.nest,.snap t0 ⟨0,0,0⟩ .none⟩]}
def cdh : Croft := { cr with furrow := some fur, copyq := [kh .faulted 2, kh .no 1], arvRes := vset (vset c0.arvRes 0 1) 1 1, accs := [], qc := [⟨3, none⟩, ⟨4, some 5⟩], queues := vset c0.queues 1 [⟨11,4,.bad .illop 0⟩], lands := [⟨8,9,1,.C,0,.setS 9 6,.snap t0 ⟨0,0,0⟩ .none⟩], frame := cr.frame.map fun f => {f with land := f.land ++ [⟨9,1,1,.M,0,.nest,.snap t0 ⟨0,0,0⟩ .none⟩]}, nest := some {kind := .lowr 8, live := {}, fa := 0, fb := 0, abase := 0, bbase := 0, packed := false, chain := [], table := [], steps := 1, len := 1} }
def cdh2 : Croft := { cdh with furrow := some {fur with point := [1,2,5,0,0,0]}, nest := none, frame := cr.frame }

def sta3 : State := st c0
def arg11 : CX := ⟨0,0,0⟩
def arg12 : CX := ⟨0,0,1⟩
def arg13 : CX := ⟨0,1,2⟩
def cft1 : Croft := {c0 with abs := vset c0.abs 2 ⟨3,2,7⟩}
def sta4 : State := {st cf with launches := [lch]}
def sta5 : State := st {c0 with qs := [], lands := [⟨8,1,1,.C,0,.nothing,.boot⟩], arv := vset c0.arv 0 1}
def cft2 : Croft := {c0 with lands := [⟨8,1,1,.C,0,.nothing,.boot⟩]}
def sta6 : State := st {cs with lands := [⟨8,1,1,.C,0,.nothing,.boot⟩]}
def cft3 : Croft := {cs with lands := [⟨8,1,1,.C,0,.nothing,.boot⟩]}
def arg14 : CX := ⟨5,5,2⟩
def sta7 : State := st {c0 with queues := vset c0.queues 4 [⟨9,3,.marker none⟩], s := vset (vset c0.s 5 (2^32+2*2^16+7)) 6 0}
def cft4 : Croft := {c0 with queues := vset c0.queues 4 [⟨9,3,.marker none⟩], s := vset (vset c0.s 5 (2^32+2*2^16+7)) 6 0}
def sta8 : State := st {c0 with queues := vset c0.queues 4 [⟨9,3,.marker none⟩], s := vset (vset c0.s 5 (2^33+2*2^16+7)) 6 0}
def cft5 : Croft := {c0 with queues := vset c0.queues 4 [⟨9,3,.marker none⟩], s := vset (vset c0.s 5 (2^33+2*2^16+7)) 6 0}
def arg15 : Furrow := {fur with point := [1,0,5,0,0,0]}
def sta9 : State := {st {cf with furrow := some {fur with point := [1,2,5,0,0,0]}} with launches := [lch]}
def cft6 : Croft := {cf with furrow := some {fur with point := [1,2,5,0,0,0]}}
def arg16 : Furrow := {fur with point := [1,2,5,0,0,0]}
def sta10 : State := st {ch with lands := [⟨8,1,1,.C,0,.nothing,.boot⟩], queues := vset ch.queues 1 [⟨11,4,.bad .illop 0⟩]}
def sta11 : State := st {ch with mode := .score, lands := [⟨8,1,1,.C,0,.nothing,.boot⟩]}
def arg17 : Raised := ⟨{code := .align, addr := 12345, aux := 9}, .A, 7, 3, false, true, none, 0⟩
def sta12 : State := st ch
def sta13 : State := st cr
def sta14 : State := st {ch with handler := 2^16+100}
def arg18 : Raised := ⟨{code := .trap, addr := 12345, aux := 9}, .A, 7, 3, false, true, none, 0⟩
def sta15 : State := st {c0 with budget := some ⟨15, 50, 60, 3, 2, 1⟩, queues := vset ch.queues 1 [⟨11,4,.bad .illop 0⟩], lands := [⟨8,1,1,.C,0,.nothing,.boot⟩]}
def sta16 : State := st {ch with budget := some ⟨0, 50, 60, 3, 2, 1⟩, queues := vset ch.queues 1 [⟨11,4,.bad .illop 0⟩], lands := [⟨8,1,1,.C,0,.nothing,.boot⟩]}
def arg19 : Frame := ⟨vset ({} : Croft).queues 3 [⟨4, 8, .bad .illop 0⟩],{pc := 12},44,[⟨2, 1, 1, .C, 0, .setS 5 6, .snap ⟨0, 0⟩ ⟨0, 0, 0⟩ .none⟩],none,none,1,false,false,0⟩
def sta17 : State := st {cr with lands := [⟨8,1,1,.C,0,.nothing,.boot⟩]}
def cft7 : Croft := {cr with lands := [⟨8,1,1,.C,0,.nothing,.boot⟩]}
def arg20 : Overlay := {c0.overlay with hedge := List.replicate 8 (0:Word64) ++ [(0x100020007 : Word64), 0, 0x30000] ++ List.replicate 21 (0:Word64)}
def sta18 : State := {st {cf with mode := .score, nextVc := 50} with launches := [lch]}
def cft8 : Croft := {cf with mode := .score, nextVc := 50}
def cft9 : Croft := {cf with mode := .score, armed := some 3, governs := some 3}

/-- ControlRegisters: hypotheses that can be met, clause by clause. -/
theorem test_witness_ControlRegisters :
    (Ready (Instr.rdcr t0 (⟨5,0,1⟩ : CX) Ext.none) t0 sta3 c0 ∧ Claims.control c0 sta3.me (⟨5,0,1⟩ : CX).k.toNat = some 5 ∧
      Claims.written c0 (⟨5,0,1⟩ : CX).d.toNat 5 = some (.setS 5 5 : LandOp))
    ∧ (Ready (Instr.rdcr t0 (⟨5,0,0⟩ : CX) Ext.none) t0 (st cs : State) cs ∧ Claims.control cs (st cs : State).me (⟨5,0,0⟩ : CX).k.toNat = some 1 ∧
      Claims.written cs (⟨5,0,0⟩ : CX).d.toNat 1 = some (.setS 5 1 : LandOp))
    ∧ (Ready (Instr.rdcr t0 (⟨30,0,9⟩ : CX) Ext.none) t0 sta3 c0 ∧ Claims.control c0 sta3.me (⟨30,0,9⟩ : CX).k.toNat = some 0 ∧
      Claims.written c0 (⟨30,0,9⟩ : CX).d.toNat 0 = some (.pushA 0 : LandOp))
    ∧ (Ready (Instr.rdcr t0 (⟨30,0,11⟩ : CX) Ext.none) t0 sta3 c0 ∧ Claims.control c0 sta3.me (⟨30,0,11⟩ : CX).k.toNat = some 0 ∧
      Claims.written c0 (⟨30,0,11⟩ : CX).d.toNat 0 = some (.pushA 0 : LandOp))
    ∧ (Ready (Instr.wrcrQstat t0 (⟨0,3,3⟩ : CX) Ext.none) t0 sta3 c0 ∧ Claims.read c0 (⟨0,3,3⟩ : CX).a.toNat = some (99, c0))
    ∧ (Ready (Instr.wrcrHandler t0 (⟨0,4,7⟩ : CX) Ext.none) t0 sta3 c0 ∧ Claims.read c0 (⟨0,4,7⟩ : CX).a.toNat = some ((2^16+40 : Word64), c0) ∧
      BitVec.toNat (2^16+40 : Word64) < 2 ^ 17)
    ∧ (Ready (Instr.wrcrHandler t0 (⟨0,2,7⟩ : CX) Ext.none) t0 sta3 c0 ∧ Claims.read c0 (⟨0,2,7⟩ : CX).a.toNat = some (18446744073709551614, c0) ∧
      2 ^ 17 ≤ (18446744073709551614 : Word64).toNat)
    ∧ (Ready (Instr.wrcrRngseed t0 (⟨0,31,11⟩ : CX) Ext.none) t0 (st cq : State) cq ∧ Claims.read cq (⟨0,31,11⟩ : CX).a.toNat = some (21,
      ({cq with qc := []} : Croft))) :=
  ⟨⟨⟨rfl, by decide, by decide, by decide, by rfl⟩, by first | decide | rfl, by first | decide | rfl⟩,
   ⟨⟨rfl, by decide, by decide, by decide, by rfl⟩, by first | decide | rfl, by first | decide | rfl⟩,
   ⟨⟨rfl, by decide, by decide, by decide, by rfl⟩, by first | decide | rfl, by first | decide | rfl⟩,
   ⟨⟨rfl, by decide, by decide, by decide, by rfl⟩, by first | decide | rfl, by first | decide | rfl⟩,
   ⟨⟨rfl, by decide, by decide, by decide, by rfl⟩, by first | decide | rfl⟩,
   ⟨⟨rfl, by decide, by decide, by decide, by rfl⟩, by first | decide | rfl, by first | decide | rfl⟩,
   ⟨⟨rfl, by decide, by decide, by decide, by rfl⟩, by first | decide | rfl, by first | decide | rfl⟩,
   ⟨⟨rfl, by decide, by decide, by decide, by rfl⟩, by first | decide | rfl⟩⟩

/-- WaitsAndGaps: hypotheses that can be met, clause by clause. -/
theorem test_witness_WaitsAndGaps :
    ((Ready (Instr.waite (⟨0,3⟩ : Tok) (⟨0,0,8⟩ : CX) Ext.none) (if (st {c0 with arv := vset c0.arv 0 8} : State).cur.kept = [] then (⟨0,3⟩ : Tok) else { wait := 0, sig := (⟨0,3⟩ : Tok).sig }) (st {c0 with arv := vset c0.arv 0 8} : State) ({c0 with arv := vset c0.arv 0 8} : Croft)) ∧
      (⟨0,0,8⟩ : CX).k.toNat ≤ vget ({c0 with arv := vset c0.arv 0 8} : Croft).arv 0 0)
    ∧
      ((Ready (Instr.waite (⟨7,3⟩ : Tok) (⟨0,0,7⟩ : CX) Ext.none) (if (st {c0 with arv := vset c0.arv 0 8} : State).cur.kept = [] then (⟨7,3⟩ : Tok) else { wait := 0, sig := (⟨7,3⟩ : Tok).sig }) (st {c0 with arv := vset c0.arv 0 8} : State) ({c0 with arv := vset c0.arv 0 7} : Croft)) ∧
      (⟨0,0,7⟩ : CX).k.toNat ≤ vget ({c0 with arv := vset c0.arv 0 7} : Croft).arv 0 0)
    ∧ (Ready (Instr.abwait t0 (⟨0,3,15⟩ : CX) Ext.none) t0 sta3 c0 ∧ Claims.read c0 (⟨0,3,15⟩ : CX).a.toNat = some (99, c0) ∧
      ((vget c0.abs { } (⟨0,3,15⟩ : CX).k.toNat).ini = 0 ∨ (99 : Word64).toNat < (vget c0.abs { } (⟨0,3,15⟩ : CX).k.toNat).phase))
    ∧
      (Ready (Instr.abwait t0 (⟨0,30,2⟩ : CX) Ext.none) t0 (st {c0 with abs := vset c0.abs 2 ⟨3,2,1⟩} : State) ({c0 with abs := vset c0.abs 2 ⟨3,2,1⟩} : Croft) ∧
      Claims.read ({c0 with abs := vset c0.abs 2 ⟨3,2,1⟩} : Croft) (⟨0,30,2⟩ : CX).a.toNat = some (0, ({c0 with abs := vset c0.abs 2 ⟨3,2,1⟩} : Croft)) ∧
      ((vget ({c0 with abs := vset c0.abs 2 ⟨3,2,1⟩} : Croft).abs { } (⟨0,30,2⟩ : CX).k.toNat).ini = 0 ∨ (0 : Word64).toNat < (vget ({c0 with abs := vset c0.abs 2 ⟨3,2,1⟩} : Croft).abs { } (⟨0,30,2⟩ : CX).k.toNat).phase))
    ∧ (Ready (Instr.snap (⟨0,6⟩ : Tok) arg11 Ext.none) (⟨0,6⟩ : Tok) sta3 c0)
    ∧ (Ready (Instr.gap t0 (⟨0,0,127⟩ : CX) Ext.none) t0 sta3 c0)
    ∧ (Ready (Instr.gap t0 arg11 (.one 0x1FFFFFFF : Ext)) t0 sta3 c0) :=
  ⟨⟨⟨rfl, by decide, by decide, by decide, by rfl⟩, by first | decide | rfl⟩,
   ⟨⟨rfl, by decide, by decide, by decide, by rfl⟩, by first | decide | rfl⟩,
   ⟨⟨rfl, by decide, by decide, by decide, by rfl⟩, by first | decide | rfl, by first | decide | rfl⟩,
   ⟨⟨rfl, by decide, by decide, by decide, by rfl⟩, by first | decide | rfl, by first | decide | rfl⟩,
   ⟨rfl, by decide, by decide, by decide, by rfl⟩,
   ⟨rfl, by decide, by decide, by decide, by rfl⟩,
   ⟨rfl, by decide, by decide, by decide, by rfl⟩⟩

/-- WaitsHold: hypotheses that can be met, clause by clause. -/
theorem test_witness_WaitsHold :
    ((Ready (Instr.waite t0 arg12 Ext.none) (if sta3.cur.kept = [] then t0 else { wait := 0, sig := t0.sig }) sta3 c0) ∧ vget c0.arv 0 0 < arg12.k.toNat)
    ∧ (Ready (Instr.abwait t0 arg13 Ext.none) t0 (st {c0 with abs := vset c0.abs 2 ⟨3,2,7⟩} : State) cft1 ∧ Claims.read cft1 arg13.a.toNat = some (7, cft1) ∧
      (vget cft1.abs { } arg13.k.toNat).ini ≠ 0 ∧ (vget cft1.abs { } arg13.k.toNat).phase ≤ (7 : Word64).toNat) :=
  ⟨⟨⟨rfl, by decide, by decide, by decide, by rfl⟩, by first | decide | rfl⟩,
   ⟨⟨rfl, by decide, by decide, by decide, by rfl⟩, by first | decide | rfl, by first | decide | rfl, by first | decide | rfl⟩⟩

/-- ServiceCalls: hypotheses that can be met, clause by clause. -/
theorem test_witness_ServiceCalls :
    (((.svcNone t0 ⟨0,3,0⟩ .none : Instr) = Instr.svcNone t0 (⟨0,3,0⟩ : CX) Ext.none ∨ (.svcNone t0 ⟨0,3,0⟩ .none : Instr) = Instr.grammarMaskRequest t0 (⟨0,3,0⟩ : CX) Ext.none ∨ (.svcNone t0 ⟨0,3,0⟩ .none : Instr) = Instr.monitorSnapshotRead t0 (⟨0,3,0⟩ : CX) Ext.none ∨ (.svcNone t0 ⟨0,3,0⟩ .none : Instr) = Instr.svcUnassigned t0 (⟨0,3,0⟩ : CX) Ext.none) ∧
      Ready (.svcNone t0 ⟨0,3,0⟩ .none : Instr) t0 sta3 c0 ∧ Claims.read c0 (⟨0,3,0⟩ : CX).a.toNat = some (99, c0))
    ∧
      (((.grammarMaskRequest ⟨0,2⟩ ⟨0,28,1⟩ .none : Instr) = Instr.svcNone (⟨0,2⟩ : Tok) (⟨0,28,1⟩ : CX) Ext.none ∨ (.grammarMaskRequest ⟨0,2⟩ ⟨0,28,1⟩ .none : Instr) = Instr.grammarMaskRequest (⟨0,2⟩ : Tok) (⟨0,28,1⟩ : CX) Ext.none ∨ (.grammarMaskRequest ⟨0,2⟩ ⟨0,28,1⟩ .none : Instr) = Instr.monitorSnapshotRead (⟨0,2⟩ : Tok) (⟨0,28,1⟩ : CX) Ext.none ∨ (.grammarMaskRequest ⟨0,2⟩ ⟨0,28,1⟩ .none : Instr) = Instr.svcUnassigned (⟨0,2⟩ : Tok) (⟨0,28,1⟩ : CX) Ext.none) ∧
      Ready (.grammarMaskRequest ⟨0,2⟩ ⟨0,28,1⟩ .none : Instr) (⟨0,2⟩ : Tok) sta3 c0 ∧ Claims.read c0 (⟨0,28,1⟩ : CX).a.toNat = some (0, c0))
    ∧
      (((.monitorSnapshotRead t0 ⟨0,1,2⟩ .none : Instr) = Instr.svcNone t0 arg13 Ext.none ∨ (.monitorSnapshotRead t0 ⟨0,1,2⟩ .none : Instr) = Instr.grammarMaskRequest t0 arg13 Ext.none ∨ (.monitorSnapshotRead t0 ⟨0,1,2⟩ .none : Instr) = Instr.monitorSnapshotRead t0 arg13 Ext.none ∨ (.monitorSnapshotRead t0 ⟨0,1,2⟩ .none : Instr) = Instr.svcUnassigned t0 arg13 Ext.none) ∧
      Ready (.monitorSnapshotRead t0 ⟨0,1,2⟩ .none : Instr) t0 sta3 c0 ∧ Claims.read c0 arg13.a.toNat = some (7, c0))
    ∧
      (((.svcUnassigned t0 ⟨0,1,3⟩ .none : Instr) = Instr.svcNone t0 (⟨0,1,3⟩ : CX) Ext.none ∨ (.svcUnassigned t0 ⟨0,1,3⟩ .none : Instr) = Instr.grammarMaskRequest t0 (⟨0,1,3⟩ : CX) Ext.none ∨ (.svcUnassigned t0 ⟨0,1,3⟩ .none : Instr) = Instr.monitorSnapshotRead t0 (⟨0,1,3⟩ : CX) Ext.none ∨ (.svcUnassigned t0 ⟨0,1,3⟩ .none : Instr) = Instr.svcUnassigned t0 (⟨0,1,3⟩ : CX) Ext.none) ∧
      Ready (.svcUnassigned t0 ⟨0,1,3⟩ .none : Instr) t0 sta3 c0 ∧ Claims.read c0 (⟨0,1,3⟩ : CX).a.toNat = some (7, c0)) :=
  ⟨⟨by first | decide | rfl, ⟨rfl, by decide, by decide, by decide, by rfl⟩, by first | decide | rfl⟩,
   ⟨by first | decide | rfl, ⟨rfl, by decide, by decide, by decide, by rfl⟩, by first | decide | rfl⟩,
   ⟨by first | decide | rfl, ⟨rfl, by decide, by decide, by decide, by rfl⟩, by first | decide | rfl⟩,
   ⟨by first | decide | rfl, ⟨rfl, by decide, by decide, by decide, by rfl⟩, by first | decide | rfl⟩⟩

/-- BarIssues: hypotheses that can be met. -/
theorem test_witness_BarIssues :
    Ready (Instr.bar t0 (⟨0,0,15⟩ : CX) Ext.none) t0 sta4 cf ∧ cf.furrow = some fur ∧
      (List.find? (fun (l : Launch) => l.num == fur.launch) sta4.launches = some lch) ∧
      lch.parts ≤ (sta4.setCur { cf with furrow := some { launch := fur.launch, handle := fur.handle, levels := fur.levels, point := fur.point, arg := fur.arg, issued := fur.issued, bars := fur.bars, barTry := some (⟨0,0,15⟩ : CX).k.toNat } }).barArrived fur.launch (⟨0,0,15⟩ : CX).k.toNat (vget fur.bars 0 (⟨0,0,15⟩ : CX).k.toNat + 1) :=
  ⟨⟨rfl, by decide, by decide, by decide, by rfl⟩, by first | decide | rfl, by first | decide | rfl, by first | decide | rfl⟩

/-- ModeChanges: hypotheses that can be met, clause by clause. -/
theorem test_witness_ModeChanges :
    (Ready (Instr.mode t0 arg11 Ext.none) t0 (st cs : State) cs ∧ cs.frame = none ∧ ((∀ (e : Eng), cs.queue e = []) ∧ cs.lands = [] ∧ cs.stq = none) ∧
      arg11.k = 0)
    ∧ (Ready (Instr.mode t0 arg12 Ext.none) t0 sta3 c0 ∧ c0.frame = none ∧ ((∀ (e : Eng), c0.queue e = []) ∧ c0.lands = [] ∧ c0.stq = none) ∧ arg12.k = 1)
    ∧ (Ready (Instr.mode (⟨7,0⟩ : Tok) arg12 Ext.none) (⟨7,0⟩ : Tok) sta5 cft2 ∧ cft2.frame = none ∧ (¬((∀ (e : Eng), cft2.queue e = []) ∧ cft2.lands = [] ∧
      cft2.stq = none)) ∧ cft2.mode = Mode.fixed)
    ∧ (Ready (Instr.mode t0 arg12 Ext.none) t0 sta6 cft3 ∧ cft3.frame = none ∧ (¬((∀ (e : Eng), cft3.queue e = []) ∧ cft3.lands = [] ∧ cft3.stq = none)) ∧
      cft3.mode = Mode.score) :=
  ⟨⟨⟨rfl, by decide, by decide, by decide, by rfl⟩, by first | decide | rfl, ⟨fun e => by cases e <;> rfl, by decide, by decide⟩, by first | decide | rfl⟩,
   ⟨⟨rfl, by decide, by decide, by decide, by rfl⟩, by first | decide | rfl, ⟨fun e => by cases e <;> rfl, by decide, by decide⟩, by first | decide | rfl⟩,
   ⟨⟨rfl, by decide, by decide, by decide, by rfl⟩, by first | decide | rfl, (fun h => absurd h.2.1 (by decide)), by first | decide | rfl⟩,
   ⟨⟨rfl, by decide, by decide, by decide, by rfl⟩, by first | decide | rfl, (fun h => absurd h.2.1 (by decide)), by first | decide | rfl⟩⟩

/-- PhaseLatches: hypotheses that can be met, clause by clause. -/
theorem test_witness_PhaseLatches :
    (Ready (Instr.phase (⟨0,4⟩ : Tok) arg14 Ext.none) (⟨0,4⟩ : Tok) sta7 cft4 ∧
      (phaseOfDescs (List.map (fun (j : Nat) => if arg14.a.toNat + j = 0 then 0 else vget cft4.s 0 (arg14.a.toNat + j)) (List.range arg14.k.toNat)) = some (⟨[],[⟨448,128⟩]⟩ : Phase)))
    ∧ (Ready (Instr.phase (⟨0,4⟩ : Tok) arg14 Ext.none) (⟨0,4⟩ : Tok) sta8 cft5 ∧
      (phaseOfDescs (List.map (fun (j : Nat) => if arg14.a.toNat + j = 0 then 0 else vget cft5.s 0 (arg14.a.toNat + j)) (List.range arg14.k.toNat)) = none)) :=
  ⟨⟨⟨rfl, by decide, by decide, by decide, by rfl⟩, by first | decide | rfl⟩,
   ⟨⟨rfl, by decide, by decide, by decide, by rfl⟩, by first | decide | rfl⟩⟩

/-- DoneReissuesOrEnds: hypotheses that can be met, clause by clause. -/
theorem test_witness_DoneReissuesOrEnds :
    (Ready (Instr.done t0 arg11 Ext.none) t0 sta4 cf ∧ cf.frame = none ∧ cf.furrow = some fur ∧ fur.next = some arg15 ∧ cf.mode = cf.overlay.mode ∧
      arg15.point.length = 6)
    ∧ (Ready (Instr.done t0 arg11 Ext.none) t0 sta9 cft6 ∧ cft6.frame = none ∧ cft6.furrow = some arg16 ∧ arg16.next = none) :=
  ⟨⟨⟨rfl, by decide, by decide, by decide, by rfl⟩, by first | decide | rfl, by first | decide | rfl, by first | decide | rfl, by first | decide | rfl,
    by first | decide | rfl⟩,
   ⟨⟨rfl, by decide, by decide, by decide, by rfl⟩, by first | decide | rfl, by first | decide | rfl, by first | decide | rfl⟩⟩

/-- TemporalPoints: hypotheses that can be met, clause by clause. -/
theorem test_witness_TemporalPoints :
    (fur.levels.length = fur.point.length ∧ (∀ (p : Level × Nat), p ∈ fur.levels.zip fur.point → p.snd < p.fst.count ∨ p.fst.kind ≠ 1))
    ∧ (arg16.levels.length = arg16.point.length ∧ (∀ (p : Level × Nat), p ∈ arg16.levels.zip arg16.point → p.snd < p.fst.count ∨ p.fst.kind ≠ 1))
    ∧ (({fur with point := [1,1,5,0,0,0]} : Furrow).levels.length = ({fur with point := [1,1,5,0,0,0]} : Furrow).point.length ∧
      (∀ (p : Level × Nat), p ∈ ({fur with point := [1,1,5,0,0,0]} : Furrow).levels.zip ({fur with point := [1,1,5,0,0,0]} : Furrow).point → p.snd < p.fst.count ∨ p.fst.kind ≠ 1)) :=
  ⟨⟨by first | decide | rfl, by first | decide | rfl⟩,
   ⟨by first | decide | rfl, by first | decide | rfl⟩,
   ⟨by first | decide | rfl, by first | decide | rfl⟩⟩

/-- HandlerEntry: hypotheses that can be met, clause by clause. -/
theorem test_witness_HandlerEntry :
    (Claims.Handles (sta10.croft 0))
    ∧ (Claims.Handles (sta11.croft 0)) :=
  ⟨⟨by decide, by decide, by decide, by decide, by decide⟩,
   ⟨by decide, by decide, by decide, by decide, by decide⟩⟩

/-- TrapEnters: hypotheses that can be met. -/
theorem test_witness_TrapEnters :
    Ready (Instr.trap t0 (⟨0,0,99⟩ : CX) Ext.none) t0 sta12 ch ∧ Claims.Handles sta12.cur :=
  ⟨⟨rfl, by decide, by decide, by decide, by rfl⟩, ⟨by decide, by decide, by decide, by decide, by decide⟩⟩

/-- BadEncodingsFault: hypotheses that can be met, clause by clause. -/
theorem test_witness_BadEncodingsFault :
    (sta12.power = true ∧ (.unassignedOpcode .G : Instr).eng.isSome = true ∧ Claims.Handles sta12.cur ∧
      ((.unassignedOpcode .G : Instr).encErr ≠ none ∨ ∃ (e : Eng), (.unassignedOpcode .G : Instr) = Instr.unassignedOpcode e ∧
      Ready (.unassignedOpcode .G : Instr) { wait := 0, sig := 0 } sta12 sta12.cur))
    ∧ (sta12.power = true ∧ (.add ⟨1,0⟩ ⟨1,2,3,false⟩ .none : Instr).eng.isSome = true ∧ Claims.Handles sta12.cur ∧
      ((.add ⟨1,0⟩ ⟨1,2,3,false⟩ .none : Instr).encErr ≠ none ∨ ∃ (e : Eng), (.add ⟨1,0⟩ ⟨1,2,3,false⟩ .none : Instr) = Instr.unassignedOpcode e ∧
      Ready (.add ⟨1,0⟩ ⟨1,2,3,false⟩ .none : Instr) { wait := 0, sig := 0 } sta12 sta12.cur))
    ∧ (sta12.power = true ∧ (.vadd t0 ⟨1,2,3,false⟩ (.one 0x20000) : Instr).eng.isSome = true ∧ Claims.Handles sta12.cur ∧
      ((.vadd t0 ⟨1,2,3,false⟩ (.one 0x20000) : Instr).encErr ≠ none ∨ ∃ (e : Eng), (.vadd t0 ⟨1,2,3,false⟩ (.one 0x20000) : Instr) = Instr.unassignedOpcode e ∧
      Ready (.vadd t0 ⟨1,2,3,false⟩ (.one 0x20000) : Instr) { wait := 0, sig := 0 } sta12 sta12.cur))
    ∧ (sta12.power = true ∧ (.xgath t0 ⟨1,2⟩ (.one 0x20000) : Instr).eng.isSome = true ∧ Claims.Handles sta12.cur ∧
      ((.xgath t0 ⟨1,2⟩ (.one 0x20000) : Instr).encErr ≠ none ∨ ∃ (e : Eng), (.xgath t0 ⟨1,2⟩ (.one 0x20000) : Instr) = Instr.unassignedOpcode e ∧
      Ready (.xgath t0 ⟨1,2⟩ (.one 0x20000) : Instr) { wait := 0, sig := 0 } sta12 sta12.cur)) :=
  ⟨⟨by first | decide | rfl, by first | decide | rfl, ⟨by decide, by decide, by decide, by decide, by decide⟩, .inr ⟨_, rfl, ⟨rfl, by decide, by decide,
    by decide, by rfl⟩⟩⟩,
   ⟨by first | decide | rfl, by first | decide | rfl, ⟨by decide, by decide, by decide, by decide, by decide⟩, .inl (by decide)⟩,
   ⟨by first | decide | rfl, by first | decide | rfl, ⟨by decide, by decide, by decide, by decide, by decide⟩, .inl (by decide)⟩,
   ⟨by first | decide | rfl, by first | decide | rfl, ⟨by decide, by decide, by decide, by decide, by decide⟩, .inl (by decide)⟩⟩

/-- FaultsToSillu: hypotheses that can be met, clause by clause. -/
theorem test_witness_FaultsToSillu :
    ((sta3.croft 0).owner = some 0 ∧ (sta3.croft 0).budget = none ∧ (sta3.croft 0).draining = none ∧
      ((sta3.croft 0).frame.isSome = true ∨ BitVec.getLsbD (sta3.croft 0).handler 16 = false ∧
      arg17.flt.code ≠ FCode.budget ∨ (sta3.croft 0).overlay.len ≤ bitsOf (sta3.croft 0).handler 15 0 ∧ arg17.flt.code ≠ FCode.budget))
    ∧ ((sta13.croft 0).owner = some 0 ∧ (sta13.croft 0).budget = none ∧ (sta13.croft 0).draining = none ∧
      ((sta13.croft 0).frame.isSome = true ∨ BitVec.getLsbD (sta13.croft 0).handler 16 = false ∧
      arg17.flt.code ≠ FCode.budget ∨ (sta13.croft 0).overlay.len ≤ bitsOf (sta13.croft 0).handler 15 0 ∧ arg17.flt.code ≠ FCode.budget))
    ∧ ((sta14.croft 0).owner = some 0 ∧ (sta14.croft 0).budget = none ∧ (sta14.croft 0).draining = none ∧
      ((sta14.croft 0).frame.isSome = true ∨ BitVec.getLsbD (sta14.croft 0).handler 16 = false ∧
      arg18.flt.code ≠ FCode.budget ∨ (sta14.croft 0).overlay.len ≤ bitsOf (sta14.croft 0).handler 15 0 ∧ arg18.flt.code ≠ FCode.budget)) :=
  ⟨⟨by first | decide | rfl, by first | decide | rfl, by first | decide | rfl, by first | decide | rfl⟩,
   ⟨by first | decide | rfl, by first | decide | rfl, by first | decide | rfl, by first | decide | rfl⟩,
   ⟨by first | decide | rfl, by first | decide | rfl, by first | decide | rfl, by first | decide | rfl⟩⟩

/-- BudgetFaults: hypotheses that can be met, clause by clause. -/
theorem test_witness_BudgetFaults :
    ((sta15.croft 0).budget = some (⟨15, 50, 60, 3, 2, 1⟩ : Budget) ∧ (⟨15, 50, 60, 3, 2, 1⟩ : Budget).slot < 16 ∧ (sta15.croft 0).frame = none ∧
      (sta15.croft 0).draining = none)
    ∧ ((sta16.croft 0).budget = some (⟨0, 50, 60, 3, 2, 1⟩ : Budget) ∧ (⟨0, 50, 60, 3, 2, 1⟩ : Budget).slot < 16 ∧ (sta16.croft 0).frame = none ∧
      (sta16.croft 0).draining = none) :=
  ⟨⟨by first | decide | rfl, by first | decide | rfl, by first | decide | rfl, by first | decide | rfl⟩,
   ⟨by first | decide | rfl, by first | decide | rfl, by first | decide | rfl, by first | decide | rfl⟩⟩

/-- HandlerReturn: hypotheses that can be met, clause by clause. -/
theorem test_witness_HandlerReturn :
    (Ready (Instr.eret t0 arg11 Ext.none) t0 sta13 cr ∧ cr.frame = some arg19 ∧ (∀ (e : Eng), cr.queue e = []) ∧ cr.lands = [] ∧ cr.stq = none)
    ∧ (Ready (Instr.eret t0 arg11 Ext.none) t0 sta3 c0 ∧ c0.frame = none)
    ∧ (Ready (Instr.eret t0 arg11 Ext.none) t0 sta17 cft7 ∧ cft7.frame ≠ none ∧ (cft7.lands ≠ [] ∨ cft7.stq ≠ none ∨ ∃ (e : Eng), cft7.queue e ≠ [])) :=
  ⟨⟨⟨rfl, by decide, by decide, by decide, by rfl⟩, by first | decide | rfl, (fun e => by cases e <;> rfl), by first | decide | rfl, by first | decide | rfl⟩,
   ⟨⟨rfl, by decide, by decide, by decide, by rfl⟩, by first | decide | rfl⟩,
   ⟨⟨rfl, by decide, by decide, by decide, by rfl⟩, by first | decide | rfl, .inl (by decide)⟩⟩

/-- GapEncodings: hypotheses that can be met. -/
theorem test_witness_GapEncodings :
    sta3.power = true ∧ (.one 5 : Ext).count ≤ 1 ∧ (arg12.d ≠ 0 ∨ arg12.a ≠ 0 ∨ arg12.k ≠ 0 ∧ (.one 5 : Ext) ≠ Ext.none) :=
  ⟨by first | decide | rfl, by first | decide | rfl, by first | decide | rfl⟩

/-- DescriptorLists: hypotheses that can be met. -/
theorem test_witness_DescriptorLists :
    (Eng.M, 1) ∈ [(Eng.A, 0), (Eng.M, 1), (Eng.X, 2), (Eng.G, 3)] ∧
      phaseOfDescs (List.take 8 (List.drop (8 * 1) arg20.hedge)) = some (⟨[⟨0,192⟩],[⟨448,128⟩]⟩ : Phase) :=
  ⟨by first | decide | rfl, by first | decide | rfl⟩

/-- PhaseEncodings: hypotheses that can be met. -/
theorem test_witness_PhaseEncodings :
    sta3.power = true ∧ (¬(⟨4,1,1⟩ : CX).d ∈ [2, 3, 5, 6] ∨ 8 < (⟨4,1,1⟩ : CX).k.toNat ∨ (⟨4,1,1⟩ : CX).k ≠ 0 ∧
      28 < (⟨4,1,1⟩ : CX).a.toNat + (⟨4,1,1⟩ : CX).k.toNat - 1) :=
  ⟨by first | decide | rfl, by first | decide | rfl⟩

/-- DoneInHandler: hypotheses that can be met, clause by clause. -/
theorem test_witness_DoneInHandler :
    (Ready (Instr.done t0 arg11 Ext.none) t0 ({st cdh with launches := [lch]} : State) cdh ∧ cdh.furrow = some fur ∧ cdh.frame = some frd ∧
      cdh.reissue = false ∧ cdh.preload = false ∧ (fur.next ≠ none → cdh.mode = cdh.overlay.mode))
    ∧ (Ready (Instr.done t0 arg11 Ext.none) t0 ({st cdh2 with launches := [lch]} : State) cdh2 ∧ cdh2.furrow = some arg16 ∧ cdh2.frame = some frb ∧
      cdh2.reissue = false ∧ cdh2.preload = false ∧ (arg16.next ≠ none → cdh2.mode = cdh2.overlay.mode)) :=
  ⟨⟨⟨rfl, by decide, by decide, by decide, by rfl⟩, by first | decide | rfl, by first | decide | rfl, by first | decide | rfl, by first | decide | rfl,
    by first | decide | rfl⟩,
   ⟨⟨rfl, by decide, by decide, by decide, by rfl⟩, by first | decide | rfl, by first | decide | rfl, by first | decide | rfl, by first | decide | rfl,
     by first | decide | rfl⟩⟩

/-- DoneChangesMode: hypotheses that can be met, clause by clause. -/
theorem test_witness_DoneChangesMode :
    (Ready (Instr.done t0 arg11 Ext.none) t0 sta18 cft8 ∧ cft8.furrow = some fur ∧ cft8.frame = none ∧ fur.next = some arg15 ∧ arg15.point.length = 6 ∧
      cft8.mode ≠ cft8.overlay.mode)
    ∧ (cft9.furrow = some fur) :=
  ⟨⟨⟨rfl, by decide, by decide, by decide, by rfl⟩, by first | decide | rfl, by first | decide | rfl, by first | decide | rfl, by first | decide | rfl,
    by first | decide | rfl⟩,
   by first | decide | rfl⟩

end W2

/-! ### Witnesses, part 3 -/

namespace W3

def ac1 : Access := {id := 3, seq := 3, pc := 1, launch := 0, kind := .stq, ord := ⟨2,0,0⟩, va := 0, len := 8, sig := 0, ins := .snap t0 ⟨0,0,0⟩ .none}
def sw1 : Pending := ⟨60,4,2,.A,0,.store .sp 72 [1,2,3,4,5,6,7,8],.stq t0 ⟨2,0,0,1,0⟩ .none⟩
def cp1 : CopyCmd := {seq := 5, pc := 2, launch := 0, arv := 0, ord := ⟨2,0,0⟩, kind := .copy 64 true 128 .sp false 1}
def ow1 : Croft := {cm 1 with tlb := [⟨1,0,0x8000000000000000⟩]}
def ow2 : Croft := {cm 1 with tlb := [⟨3,0,0x8000000000000000⟩,⟨1,0,0x8000000000000000⟩]}
def ow3 : Croft := {cm 1 with tlb := [⟨3,0,0x8000000000000000⟩,⟨1,0,0xC000000000000000⟩]}
def ow4 : Croft := {ow3 with accs := [{id := 3, seq := 3, pc := 1, launch := 0, kind := .probe 3, ord := ⟨2,0,0⟩, va := 0, len := 8, sig := 0, ins := .snap t0 ⟨0,0,0⟩ .none}]}
def sq1 : StqRun := ⟨4,2,0,{},.snap t0 ⟨0,0,0⟩ .none,72,.sp,3,false,6,[9]⟩
def fc1 : Croft := {cm 1 with accs := [ac1]}
def pgc : Croft := {cm 1 with tlb := [⟨3,0,0⟩,⟨1,0,2^58+5⟩,⟨9,0,5⟩,⟨9,0,6⟩]}
def hd (len n tag : Nat) : List Byte := leBytes 8 (len + tag * 2^16 + n * 2^24)
def pr (v c : Nat) : List Byte := leBytes 8 (v + (c-1) * 2^32)
def mm (a : Nat) : Memory := (((({} : Memory).writeN a (hd 5 2 8 ++ pr 7 3 ++ pr 9 2)).writeN (a+64) (hd 5 3 8 ++ pr 7 3 ++ pr 9 2 ++ pr 1 1)).writeN (a+128) (hd 5 2 8 ++ [1,1,1,1,1,1,1,1] ++ pr 9 2)).writeN (a+192) (leBytes 8 (2^20))
def cpk : Croft := {cm 1 with sp := (mm 1024).writeN (2^21-8) (hd 5 2 8), acm := mm 16384}
def bb (c : Croft) (w : Word64) : Croft := {c with b := vset c.b 3 w}
def spw (n : Nat) : Word64 := BitVec.ofNat 64 (2^56 + n)
def acw (n : Nat) : Word64 := BitVec.ofNat 64 (2*2^56 + n)
def sw9 : Pending := ⟨60,4,2,.A,0,.store .sp 1024 [1,2,3,4,5,6,7,8],.stq t0 ⟨2,0,0,1,0⟩ .none⟩
def pt : Memory := ((({} : Memory).writeN 0 (leBytes 8 (2^63+1))).writeN 8192 (leBytes 8 (2^63+2))).writeN 16384 (leBytes 8 (2^63+2^62+2^57+1024))
def okS {ε α} (d : α) (e : Except ε α) : α := match e with | .ok x => x | _ => d
def ow0 : Owner := { crofts := [0], space := 2^20, res := Vector.replicate 16 1000, root := some 0, ftbase := 2^24, ftlen := 2^20 }
def so (c : Croft) : State := { st c with owners := [(0, ow0)], hbm := ((pt.writeN (2^23+9216) (hd 5 2 8 ++ pr 7 3 ++ pr 9 2)).writeN (2^23+10240) (hd 5 2 8 ++ pr 7 3 ++ pr 9 2)) }
def oc : Croft := bb { cpk with tlb := [⟨1,0,2^63+2^62+2^57+1024⟩] } 8192
def t1 (a : Nat) := okS (so oc) (((so oc).setCur oc).translate a 8 false)
def r1 (a : Nat) := okS ([],so oc) ((t1 a).ownerRead 0 a 8)
def t2 (a n : Nat) := okS (so oc) ((t1 a).translate a n false)
def r2 (a n : Nat) := okS ([],so oc) ((t2 a n).ownerRead 0 a n)
def cs2 (v : Word64) : Croft := {cpk with qs := [v,5]}
def hw (len n : Nat) : Word64 := BitVec.ofNat 64 (len + 8 * 2^16 + n * 2^24)

def cft10 : Croft := cm 1
def sta19 : State := st c0
def sta20 : State := st cq
def arg21 : Tok := ⟨0,1⟩
def arg22 : AB := ⟨15,0,0,true⟩
def arg23 : List Word64 := []
def arg24 : AB := ⟨15,0,0,false⟩
def arg25 : AM := ⟨0,0,0,1,0⟩
def sta21 : State := st (cm 1)
def arg26 : AM := ⟨0,0,0,1,5⟩
def ext2 : Ext := .one 0
def arg27 : AM := ⟨0,0,0,1,4⟩
def ext3 : Ext := .two 0x1FFFFFF8 (7*2^24+9)
def cft11 : Croft := {cm 1 with b := vset c0.b 1 (2^56+72)}
def arg28 : AM := ⟨3,1,2,2,0⟩
def arg29 : AM := ⟨3,1,2,2,1⟩
def ext4 : Ext := .two 0 (12*2^24+20)
def arg30 : List Word64 := [0x2222,0x3333]
def arg31 : Tok := ⟨0,3⟩
def ext5 : Ext := .two 8 3
def cft12 : Croft := {cm 1 with qa := [0x40000,8]}
def arg32 : AM := ⟨2,0,0,1,0⟩
def ext6 : Ext := .two (2^27+2^10) (2^28+3*2^24+2)
def sta22 : State := st {cm 1 with abs := vset c0.abs 3 ⟨1,1,0⟩}
def cft13 : Croft := {cm 1 with abs := vset c0.abs 3 ⟨1,1,0⟩}
def arg33 : AM := ⟨2,1,2,3,1⟩
def ext7 : Ext := .two (2^28+2^26+16384) 255
def ext8 : Ext := .two (2^27+64) 1
def ext9 : Ext := .two (2^28+2^26+64) 1
def ext10 : Ext := .two (1+5*2^10+3*2^20+2*2^27) (64*2^14+1)
def arg34 : AM := ⟨3,1,2,3,0⟩
def ext11 : Ext := .one 16
def sta23 : State := st ow2
def sta24 : State := st ow3
def sta25 : State := st {cm 1 with tlb := [⟨3,0,0x8000000000000000⟩]}
def arg35 : List Nat := []
def arg36 : AM := ⟨1,0,0,1,0⟩
def ext12 : Ext := .two 0 0x30
def arg37 : AM := ⟨1,0,0,1,1⟩
def ext13 : Ext := .two 0 0x19
def cft14 : Croft := {cm 1 with qa := [5,6,7]}
def sta26 : State := st {cm 1 with stq := some sq1}
def sta27 : State := st {cm 1 with stq := some {sq1 with space := .acm, need := 2}}
def arg38 : StqRun := {sq1 with space := .acm, need := 2}
def sta28 : State := st {cm 1 with mode := .score, nextVc := 70, stq := some {sq1 with space := .owner, need := 2, at_ := 60}}
def arg39 : StqRun := {sq1 with space := .owner, need := 2, at_ := 60}
def cft15 : Croft := {cm 1 with lands := [sw1], fences := [⟨6,4,0,[],[4],[],2⟩]}
def arg40 : Fence := ⟨6,4,0,[],[4],[],2⟩
def arg41 : AM := ⟨2,0,0,3,0⟩
def arg42 : AM := ⟨2,0,0,3,1⟩
def ext14 : Ext := .two 0 (2^28)
def cft16 : Croft := bb (cpk) (spw 1024)
def cft17 : Croft := bb (cpk) (spw (2^21-8))
def cft18 : Croft := bb (cpk) (acw 16384)
def sta29 : State := so oc
def sta30 : State := t1 9216
def arg43 : List Byte := (r1 9216).1
def ext15 : Ext := .two 0 1
def cft19 : Croft := bb (cs2 0x1111) (spw 1024)
def arg44 : List Word64 := [5]
def sta31 : State := st (bb ({cs2 (hw 5 128) with qs := [(hw 5 128)]}) (spw 1024))
def cft20 : Croft := bb ({cs2 (hw 5 128) with qs := [(hw 5 128)]}) (spw 1024)
def arg45 : Word64 := hw 5 128
def cft21 : Croft := bb (cs2 0x1111) (acw 16384)
def sta32 : State := st (bb ({cs2 (hw 5 128) with qs := [(hw 5 128)]}) (acw 16384))
def cft22 : Croft := bb ({cs2 (hw 5 128) with qs := [(hw 5 128)]}) (acw 16384)
def ext16 : Ext := .two 1024 1
def sta33 : State := so (bb ({cs2 0x77 with tlb := [⟨1,0,2^63+2^62+2^59+2^57+1024⟩]}) (8192))
def cft23 : Croft := bb ({cs2 0x77 with tlb := [⟨1,0,2^63+2^62+2^59+2^57+1024⟩]}) (8192)
def sta34 : State := okS (so (bb ({cs2 0x77 with tlb := [⟨1,0,2^63+2^62+2^59+2^57+1024⟩]}) 8192)) (((so (bb ({cs2 0x77 with tlb := [⟨1,0,2^63+2^62+2^59+2^57+1024⟩]}) 8192)).setCur (bb ({cs2 0x77 with tlb := [⟨1,0,2^63+2^62+2^59+2^57+1024⟩]}) 8192)).translate 9216 8 true)
def ext17 : Ext := .two 1024 3
def sta35 : State := so (bb ({{cs2 0x77 with qs := [0x77]} with tlb := [⟨1,0,2^63+2^62+2^59+2^57+1024⟩]}) (8192))
def cft24 : Croft := bb ({{cs2 0x77 with qs := [0x77]} with tlb := [⟨1,0,2^63+2^62+2^59+2^57+1024⟩]}) (8192)
def sta36 : State := okS (so (bb ({{cs2 0x77 with qs := [0x77]} with tlb := [⟨1,0,2^63+2^62+2^59+2^57+1024⟩]}) 8192)) (((so (bb ({{cs2 0x77 with qs := [0x77]} with tlb := [⟨1,0,2^63+2^62+2^59+2^57+1024⟩]}) 8192)).setCur (bb ({{cs2 0x77 with qs := [0x77]} with tlb := [⟨1,0,2^63+2^62+2^59+2^57+1024⟩]}) 8192)).translate 9216 24 true)
def cft25 : Croft := bb (cs2 (hw 5 0)) (spw 1024)
def arg46 : Nat := 2^21
def sta37 : State := st (bb ({cs2 (hw 5 2) with qs := [(hw 5 2)]}) (spw (2^21-16)))
def cft26 : Croft := bb ({cs2 (hw 5 2) with qs := [(hw 5 2)]}) (spw (2^21-16))
def ext18 : Ext := .two 1024 32
def sta38 : State := so (bb ({{cpk with qa := [5,6,7]} with tlb := [⟨1,0,2^63+2^62+2^59+2^57+1024⟩]}) 8192)
def sta39 : State := okS (so (bb ({{cpk with qa := [5,6,7]} with tlb := [⟨1,0,2^63+2^62+2^59+2^57+1024⟩]}) 8192)) (((so (bb ({{cpk with qa := [5,6,7]} with tlb := [⟨1,0,2^63+2^62+2^59+2^57+1024⟩]}) 8192)).setCur (bb ({{cpk with qa := [5,6,7]} with tlb := [⟨1,0,2^63+2^62+2^59+2^57+1024⟩]}) 8192)).translate 9216 4 true)
def cft27 : Croft := bb ({{cpk with qa := [5,6,7]} with tlb := [⟨1,0,2^63+2^62+2^59+2^57+1024⟩]}) 8192
def ext19 : Ext := .two 1024 57
def sta40 : State := so (bb ({{cpk with qa := [5,6,7], mode := .score, nextVc := 50} with tlb := [⟨1,0,2^63+2^62+2^59+2^57+1024⟩]}) 8192)
def sta41 : State := okS (so (bb ({{cpk with qa := [5,6,7], mode := .score, nextVc := 50} with tlb := [⟨1,0,2^63+2^62+2^59+2^57+1024⟩]}) 8192)) (((so (bb ({{cpk with qa := [5,6,7], mode := .score, nextVc := 50} with tlb := [⟨1,0,2^63+2^62+2^59+2^57+1024⟩]}) 8192)).setCur (bb ({{cpk with qa := [5,6,7], mode := .score, nextVc := 50} with tlb := [⟨1,0,2^63+2^62+2^59+2^57+1024⟩]}) 8192)).translate 9216 8 true)
def cft28 : Croft := bb ({{cpk with qa := [5,6,7], mode := .score, nextVc := 50} with tlb := [⟨1,0,2^63+2^62+2^59+2^57+1024⟩]}) 8192

/-- HaywardChecks: hypotheses that can be met, clause by clause. -/
theorem test_witness_HaywardChecks :
    (0 < 2097152)
    ∧ (0 < 20)
    ∧ (0 < 1)
    ∧ (0 < 2)
    ∧ (0 < 128) :=
  ⟨by first | decide | rfl,
   by first | decide | rfl,
   by first | decide | rfl,
   by first | decide | rfl,
   by first | decide | rfl⟩

/-- BaseRegisters: hypotheses that can be met, clause by clause. -/
theorem test_witness_BaseRegisters :
    (c0.stq = none ∧ Ready (Instr.bli t0 (⟨5,0,0,false⟩ : AB) (.two 0x1FFFFFFF 3 : Ext)) t0 sta19 c0)
    ∧ (c0.stq = none ∧ Ready (Instr.bli t0 (⟨0,0,0,false⟩ : AB) (.one 0x1FFFFFFF : Ext)) t0 sta19 c0)
    ∧ (c0.stq = none ∧ Ready (Instr.badd t0 (⟨5,1,0,false⟩ : AB) (.one 0x1FFFFFFF : Ext)) t0 sta19 c0 ∧
      Claims.operandM c0 (⟨5,1,0,false⟩ : AB) (.one 0x1FFFFFFF : Ext) = some (18446744073709551615, c0))
    ∧ (cq.stq = none ∧ Ready (Instr.badd t0 (⟨5,1,0,true⟩ : AB) Ext.none) t0 sta20 cq ∧ Claims.operandM cq (⟨5,1,0,true⟩ : AB) Ext.none = some (6,
      ({cq with qa := []} : Croft)))
    ∧ (c0.stq = none ∧ Ready (Instr.bmad arg21 (⟨3,1,2,false⟩ : AB) Ext.none) arg21 sta19 c0 ∧
      Claims.operandM c0 (⟨3,1,2,false⟩ : AB) Ext.none = some ((2*2^56+16384 : Word64), c0))
    ∧ (c0.stq = none ∧ Ready (Instr.bmad arg21 (⟨3,1,0,false⟩ : AB) (.two 1 2 : Ext)) arg21 sta19 c0 ∧
      Claims.operandM c0 (⟨3,1,0,false⟩ : AB) (.two 1 2 : Ext) = some (536870914, c0))
    ∧ (c0.stq = none ∧ Ready (Instr.bmov t0 (⟨15,1,0,false⟩ : AB) Ext.none) t0 sta19 c0 ∧ (⟨15,1,0,false⟩ : AB).qa = false)
    ∧ (cq.stq = none ∧ Ready (Instr.bmov t0 arg22 Ext.none) t0 sta20 cq ∧ arg22.qa = true ∧ cq.qa = 6 :: arg23) :=
  ⟨⟨by first | decide | rfl, ⟨rfl, by decide, by decide, by decide, by rfl⟩⟩,
   ⟨by first | decide | rfl, ⟨rfl, by decide, by decide, by decide, by rfl⟩⟩,
   ⟨by first | decide | rfl, ⟨rfl, by decide, by decide, by decide, by rfl⟩, by first | decide | rfl⟩,
   ⟨by first | decide | rfl, ⟨rfl, by decide, by decide, by decide, by rfl⟩, by first | decide | rfl⟩,
   ⟨by first | decide | rfl, ⟨rfl, by decide, by decide, by decide, by rfl⟩, by first | decide | rfl⟩,
   ⟨by first | decide | rfl, ⟨rfl, by decide, by decide, by decide, by rfl⟩, by first | decide | rfl⟩,
   ⟨by first | decide | rfl, ⟨rfl, by decide, by decide, by decide, by rfl⟩, by first | decide | rfl⟩,
   ⟨by first | decide | rfl, ⟨rfl, by decide, by decide, by decide, by rfl⟩, by first | decide | rfl, by first | decide | rfl⟩⟩

/-- BarrierInstructions: hypotheses that can be met, clause by clause. -/
theorem test_witness_BarrierInstructions :
    (cq.stq = none ∧ Claims.count cq arg22 Ext.none = some (6, ({cq with qa := []} : Croft)) ∧ Ready (Instr.abinit t0 arg22 Ext.none) t0 sta20 cq)
    ∧ (cq.stq = none ∧ Claims.count cq arg24 (.one 0xFFFFF : Ext) = some (1048575, cq) ∧ Ready (Instr.abexp t0 arg24 (.one 0xFFFFF : Ext)) t0 sta20 cq)
    ∧ (cq.stq = none ∧ Claims.count cq arg24 Ext.none = some (0, cq) ∧ Ready (Instr.abarv t0 arg24 Ext.none) t0 sta20 cq) :=
  ⟨⟨by first | decide | rfl, by first | decide | rfl, ⟨rfl, by decide, by decide, by decide, by rfl⟩⟩,
   ⟨by first | decide | rfl, by first | decide | rfl, ⟨rfl, by decide, by decide, by decide, by rfl⟩⟩,
   ⟨by first | decide | rfl, by first | decide | rfl, ⟨rfl, by decide, by decide, by decide, by rfl⟩⟩⟩

/-- LocalLoads: hypotheses that can be met, clause by clause. -/
theorem test_witness_LocalLoads :
    (Ready (Instr.ldq t0 arg25 Ext.none) t0 sta21 cft10 ∧ cft10.stq = none ∧ Claims.loadRoom cft10 arg25 ∧ ldqPacked arg25 Ext.none = false ∧
      ((64 % if arg25.q = 5 then 64 else 8) = 0) ∧ splitAddr (Claims.ea cft10 arg25 Ext.none) = some (Space.sp, 64) ∧
      Claims.SpOk cft10 Eng.A 64 (Claims.loadBytes arg25 Ext.none) false ∧ Claims.OrderOk cft10 arg25.cls.toNat 64 (Claims.loadBytes arg25 Ext.none))
    ∧ (Ready (Instr.ldq t0 arg26 ext2) t0 sta21 cft10 ∧ cft10.stq = none ∧ Claims.loadRoom cft10 arg26 ∧ ldqPacked arg26 ext2 = false ∧
      ((64 % if arg26.q = 5 then 64 else 8) = 0) ∧ splitAddr (Claims.ea cft10 arg26 ext2) = some (Space.sp, 64) ∧
      Claims.SpOk cft10 Eng.A 64 (Claims.loadBytes arg26 ext2) false ∧ Claims.OrderOk cft10 arg26.cls.toNat 64 (Claims.loadBytes arg26 ext2))
    ∧ (Ready (Instr.ldq t0 arg27 ext3) t0 (st {cm 1 with b := vset c0.b 1 (2^56+72)} : State) cft11 ∧ cft11.stq = none ∧ Claims.loadRoom cft11 arg27 ∧
      ldqPacked arg27 ext3 = false ∧ ((64 % if arg27.q = 5 then 64 else 8) = 0) ∧ splitAddr (Claims.ea cft11 arg27 ext3) = some (Space.sp, 64) ∧
      Claims.SpOk cft11 Eng.A 64 (Claims.loadBytes arg27 ext3) false ∧ Claims.OrderOk cft11 arg27.cls.toNat 64 (Claims.loadBytes arg27 ext3))
    ∧ (Ready (Instr.ldq t0 arg28 Ext.none) t0 sta21 cft10 ∧ cft10.stq = none ∧ Claims.loadRoom cft10 arg28 ∧ ldqPacked arg28 Ext.none = false ∧
      ((16384 % if arg28.q = 5 then 64 else 8) = 0) ∧ splitAddr (Claims.ea cft10 arg28 Ext.none) = some (Space.acm, 16384) ∧
      16384 + Claims.loadBytes arg28 Ext.none ≤ 2 ^ 18 ∧
      (∀ (tile : Nat), tile ∈ tilesOf 16384 (Claims.loadBytes arg28 Ext.none) → cft10.heldTile tile = false))
    ∧ (Ready (Instr.ldq t0 arg29 ext4) t0 sta21 cft10 ∧ cft10.stq = none ∧ Claims.loadRoom cft10 arg29 ∧ ldqPacked arg29 ext4 = false ∧
      ((16384 % if arg29.q = 5 then 64 else 8) = 0) ∧ splitAddr (Claims.ea cft10 arg29 ext4) = some (Space.acm, 16384) ∧
      16384 + Claims.loadBytes arg29 ext4 ≤ 2 ^ 18 ∧ (∀ (tile : Nat), tile ∈ tilesOf 16384 (Claims.loadBytes arg29 ext4) → cft10.heldTile tile = false)) :=
  ⟨⟨⟨rfl, by decide, by decide, by decide, by rfl⟩, by first | decide | rfl, ⟨by decide, by decide, by decide⟩, by first | decide | rfl,
    by first | decide | rfl, by first | decide | rfl, spOk_of (by decide), orderOk_of (by decide)⟩,
   ⟨⟨rfl, by decide, by decide, by decide, by rfl⟩, by first | decide | rfl, ⟨by decide, by decide, by decide⟩, by first | decide | rfl,
     by first | decide | rfl, by first | decide | rfl, spOk_of (by decide), orderOk_of (by decide)⟩,
   ⟨⟨rfl, by decide, by decide, by decide, by rfl⟩, by first | decide | rfl, ⟨by decide, by decide, by decide⟩, by first | decide | rfl,
     by first | decide | rfl, by first | decide | rfl, spOk_of (by decide), orderOk_of (by decide)⟩,
   ⟨⟨rfl, by decide, by decide, by decide, by rfl⟩, by first | decide | rfl, ⟨by decide, by decide, by decide⟩, by first | decide | rfl,
     by first | decide | rfl, by first | decide | rfl, by first | decide | rfl, by first | decide | rfl⟩,
   ⟨⟨rfl, by decide, by decide, by decide, by rfl⟩, by first | decide | rfl, ⟨by decide, by decide, by decide⟩, by first | decide | rfl,
     by first | decide | rfl, by first | decide | rfl, by first | decide | rfl, by first | decide | rfl⟩⟩

/-- LocalStores: hypotheses that can be met, clause by clause. -/
theorem test_witness_LocalStores :
    (Ready (Instr.stq t0 arg25 Ext.none) t0 sta21 cft10 ∧ cft10.stq = none ∧ cft10.kept = [] ∧ cft10.qs = 4369 :: arg30 ∧
      BitVec.toNat Ext.none.x1 / 2 ^ 28 = 0 ∧ (1 = if BitVec.toNat Ext.none.x1 % 2 ^ 13 = 0 then 1 else BitVec.toNat Ext.none.x1 % 2 ^ 13) ∧ 64 % 8 = 0 ∧
      splitAddr (Claims.ea cft10 arg25 Ext.none) = some (Space.sp, 64) ∧ Claims.SpOk cft10 Eng.A 64 (8 * 1) true ∧
      Claims.OrderOk cft10 arg25.cls.toNat 64 (8 * 1) ∧ 1 = 1)
    ∧ (Ready (Instr.stq arg31 arg25 ext5) arg31 sta21 cft10 ∧ cft10.stq = none ∧ cft10.kept = [] ∧ cft10.qs = 4369 :: arg30 ∧
      BitVec.toNat ext5.x1 / 2 ^ 28 = 0 ∧ (3 = if BitVec.toNat ext5.x1 % 2 ^ 13 = 0 then 1 else BitVec.toNat ext5.x1 % 2 ^ 13) ∧ 72 % 8 = 0 ∧
      splitAddr (Claims.ea cft10 arg25 ext5) = some (Space.sp, 72) ∧ Claims.SpOk cft10 Eng.A 72 (8 * 3) true ∧
      Claims.OrderOk cft10 arg25.cls.toNat 72 (8 * 3) ∧ 1 < 3) :=
  ⟨⟨⟨rfl, by decide, by decide, by decide, by rfl⟩, by first | decide | rfl, by first | decide | rfl, by first | decide | rfl, by first | decide | rfl,
    by first | decide | rfl, by first | decide | rfl, by first | decide | rfl, spOk_of (by decide), orderOk_of (by decide), by first | decide | rfl⟩,
   ⟨⟨rfl, by decide, by decide, by decide, by rfl⟩, by first | decide | rfl, by first | decide | rfl, by first | decide | rfl, by first | decide | rfl,
     by first | decide | rfl, by first | decide | rfl, by first | decide | rfl, spOk_of (by decide), orderOk_of (by decide), by first | decide | rfl⟩⟩

/-- ZeroFlagsAndGates: hypotheses that can be met, clause by clause. -/
theorem test_witness_ZeroFlagsAndGates :
    (cft10.stq = none ∧ Ready (Instr.zflag t0 arg25 (.two (1024-64) 0 : Ext)) t0 sta21 cft10 ∧
      (1 = if BitVec.toNat (.two (1024-64) 0 : Ext).x1 % 2 ^ 12 = 0 then 1 else BitVec.toNat (.two (1024-64) 0 : Ext).x1 % 2 ^ 12) ∧ 1024 % 1024 = 0 ∧
      splitAddr (Claims.ea cft10 arg25 (.two (1024-64) 0 : Ext)) = some (Space.sp, 1024) ∧ Claims.SpOk cft10 Eng.A 1024 (1024 * 1) false)
    ∧ (cft10.stq = none ∧ Ready (Instr.zflag t0 arg25 (.two 0x1FFFFFC0 2048 : Ext)) t0 sta21 cft10 ∧
      (2048 = if BitVec.toNat (.two 0x1FFFFFC0 2048 : Ext).x1 % 2 ^ 12 = 0 then 1 else BitVec.toNat (.two 0x1FFFFFC0 2048 : Ext).x1 % 2 ^ 12) ∧ 0 % 1024 = 0 ∧
      splitAddr (Claims.ea cft10 arg25 (.two 0x1FFFFFC0 2048 : Ext)) = some (Space.sp, 0) ∧ Claims.SpOk cft10 Eng.A 0 (1024 * 2048) false)
    ∧ (cft10.stq = none ∧ Ready (Instr.bankgate t0 (⟨0,0,0,0,0⟩ : AM) (.one (1024+31*32+2) : Ext)) t0 sta21 cft10 ∧
      (∀ (y : Nat), 65536 * (BitVec.toNat (.one (1024+31*32+2) : Ext).x0 % 32) ≤ y → y < 65536 * (BitVec.toNat (.one (1024+31*32+2) : Ext).x0 / 32 % 32 + 1) → ∃ (r : Rng), r ∈ (vget cft10.phases { } 1).writes ∧
      r.base ≤ y ∧ y < r.base + r.len))
    ∧ (cft10.stq = none ∧ Ready (Instr.bankgate t0 (⟨0,0,0,0,0⟩ : AM) ext2) t0 sta21 cft10 ∧
      (∀ (y : Nat), 65536 * (BitVec.toNat ext2.x0 % 32) ≤ y → y < 65536 * (BitVec.toNat ext2.x0 / 32 % 32 + 1) → ∃ (r : Rng), r ∈ (vget cft10.phases { } 1).writes ∧
      r.base ≤ y ∧ y < r.base + r.len)) :=
  ⟨⟨by first | decide | rfl, ⟨rfl, by decide, by decide, by decide, by rfl⟩, by first | decide | rfl, by first | decide | rfl, by first | decide | rfl,
    spOk_of (by decide)⟩,
   ⟨by first | decide | rfl, ⟨rfl, by decide, by decide, by decide, by rfl⟩, by first | decide | rfl, by first | decide | rfl, by first | decide | rfl,
     spOk_of (by decide)⟩,
   ⟨by first | decide | rfl, ⟨rfl, by decide, by decide, by decide, by rfl⟩, (fun _ _ h => ⟨⟨0, 2 ^ 21⟩, by decide, Nat.zero_le _,
     Nat.lt_of_lt_of_le h (by decide)⟩)⟩,
   ⟨by first | decide | rfl, ⟨rfl, by decide, by decide, by decide, by rfl⟩, (fun _ _ h => ⟨⟨0, 2 ^ 21⟩, by decide, Nat.zero_le _,
     Nat.lt_of_lt_of_le h (by decide)⟩)⟩⟩

/-- CopyAccepted: hypotheses that can be met, clause by clause. -/
theorem test_witness_CopyAccepted :
    (Ready (Instr.copy t0 (⟨2,0,0,1,6⟩ : AM) Ext.none) t0 (st {cm 1 with qa := [0x40000,8]} : State) cft12 ∧ cft12.stq = none ∧
      Claims.copyRoom cft12 (⟨2,0,0,1,6⟩ : AM).q ∧ (splitAddr (Claims.base cft12 (⟨2,0,0,1,6⟩ : AM).b) = some (if true = true then Space.sp else Space.owner,
      64)) ∧ 64 % 64 = 0 ∧ (64 + 64 * (BitVec.toNat Ext.none.x1 % 2 ^ 14 + 1) ≤ if true = true then 2 ^ 21 else 2 ^ 53) ∧
      (true = true → Claims.SpOk cft12 Eng.A 64 (64 * (BitVec.toNat Ext.none.x1 % 2 ^ 14 + 1)) false) ∧
      (∀ (k : Nat), (if BitVec.getLsbD Ext.none.x1 28 = true then some (BitVec.toNat Ext.none.x1 / 2 ^ 24 % 16) else none) = some k → (vget cft12.abs { } k).ini ≠ 0) ∧
      262144 % 64 = 0 ∧ BitVec.toNat Ext.none.x0 / 2 ^ 27 = 0 ∧ cft12.qa = 262144 :: ([8] : List Word64) ∧ splitAddr 262144 = some (Space.owner, 262144) ∧
      262144 + 64 * (BitVec.toNat Ext.none.x1 % 2 ^ 14 + 1) ≤ 2 ^ 53)
    ∧ (Ready (Instr.copy t0 arg32 ext6) t0 sta22 cft13 ∧ cft13.stq = none ∧ Claims.copyRoom cft13 arg32.q ∧
      (splitAddr (Claims.base cft13 arg32.b) = some (if true = true then Space.sp else Space.owner, 64)) ∧ 64 % 64 = 0 ∧
      (64 + 64 * (BitVec.toNat ext6.x1 % 2 ^ 14 + 1) ≤ if true = true then 2 ^ 21 else 2 ^ 53) ∧
      (true = true → Claims.SpOk cft13 Eng.A 64 (64 * (BitVec.toNat ext6.x1 % 2 ^ 14 + 1)) false) ∧
      (∀ (k : Nat), (if BitVec.getLsbD ext6.x1 28 = true then some (BitVec.toNat ext6.x1 / 2 ^ 24 % 16) else none) = some k → (vget cft13.abs { } k).ini ≠ 0) ∧
      1024 % 64 = 0 ∧ BitVec.toNat ext6.x0 / 2 ^ 27 = 1 ∧ 1024 = BitVec.toNat ext6.x0 % 2 ^ 21 ∧
      Claims.SpOk cft13 Eng.A 1024 (64 * (BitVec.toNat ext6.x1 % 2 ^ 14 + 1)) true)
    ∧ (Ready (Instr.copy arg21 arg33 ext7) arg21 sta21 cft10 ∧ cft10.stq = none ∧ Claims.copyRoom cft10 arg33.q ∧
      (splitAddr (Claims.base cft10 arg33.b) = some (if false = true then Space.sp else Space.owner, 8192)) ∧ 8192 % 64 = 0 ∧
      (8192 + 64 * (BitVec.toNat ext7.x1 % 2 ^ 14 + 1) ≤ if false = true then 2 ^ 21 else 2 ^ 53) ∧
      (false = true → Claims.SpOk cft10 Eng.A 8192 (64 * (BitVec.toNat ext7.x1 % 2 ^ 14 + 1)) false) ∧
      (∀ (k : Nat), (if BitVec.getLsbD ext7.x1 28 = true then some (BitVec.toNat ext7.x1 / 2 ^ 24 % 16) else none) = some k → (vget cft10.abs { } k).ini ≠ 0) ∧
      16384 % 64 = 0 ∧ BitVec.toNat ext7.x0 / 2 ^ 27 = 2 ∧ 16384 = BitVec.toNat ext7.x0 % 2 ^ 21 ∧ 16384 + 64 * (BitVec.toNat ext7.x1 % 2 ^ 14 + 1) ≤ 2 ^ 18 ∧
      (∀ (tile : Nat), tile ∈ tilesOf 16384 (64 * (BitVec.toNat ext7.x1 % 2 ^ 14 + 1)) → cft10.tilePending tile = false)) :=
  ⟨⟨⟨rfl, by decide, by decide, by decide, by rfl⟩, by first | decide | rfl, ⟨by decide, by decide⟩, by first | decide | rfl, by first | decide | rfl,
    by first | decide | rfl, (fun _ => spOk_of (by decide)), by first | decide | rfl, by first | decide | rfl, by first | decide | rfl,
    by first | decide | rfl, by first | decide | rfl, by first | decide | rfl⟩,
   ⟨⟨rfl, by decide, by decide, by decide, by rfl⟩, by first | decide | rfl, ⟨by decide, by decide⟩, by first | decide | rfl, by first | decide | rfl,
     by first | decide | rfl, (fun _ => spOk_of (by decide)), by first | decide | rfl, by first | decide | rfl, by first | decide | rfl,
     by first | decide | rfl, spOk_of (by decide)⟩,
   ⟨⟨rfl, by decide, by decide, by decide, by rfl⟩, by first | decide | rfl, ⟨by decide, by decide⟩, by first | decide | rfl, by first | decide | rfl,
     by first | decide | rfl, (fun h => nomatch h), by first | decide | rfl, by first | decide | rfl, by first | decide | rfl, by first | decide | rfl,
     by first | decide | rfl, by first | decide | rfl⟩⟩

/-- DecodeAndCollectiveAccepted: hypotheses that can be met, clause by clause. -/
theorem test_witness_DecodeAndCollectiveAccepted :
    (cft10.stq = none ∧ Claims.copyRoom cft10 arg33.q ∧ Ready (Instr.copyd arg21 arg33 ext8) arg21 sta21 cft10 ∧ BitVec.toNat ext8.x0 / 2 ^ 27 = 1 ∧
      splitAddr (Claims.base cft10 arg33.b) = some (Space.owner, 8192) ∧ 8192 % 8 = 0 ∧ 64 = BitVec.toNat ext8.x0 % 2 ^ 21 ∧
      Claims.SpOk cft10 Eng.A 64 (4096 * (BitVec.toNat ext8.x1 % 2 ^ 12 + 1)) true)
    ∧ (cft10.stq = none ∧ Claims.copyRoom cft10 arg33.q ∧ Ready (Instr.copyd arg31 arg33 ext9) arg31 sta21 cft10 ∧ BitVec.toNat ext9.x0 / 2 ^ 27 = 2 ∧
      splitAddr (Claims.base cft10 arg33.b) = some (Space.owner, 8192) ∧ 8192 % 8 = 0 ∧ 64 = BitVec.toNat ext9.x0 % 2 ^ 21 ∧ 64 % 4 = 0 ∧
      64 + 4096 * (BitVec.toNat ext9.x1 % 2 ^ 12 + 1) ≤ 2 ^ 18 ∧
      (∀ (tile : Nat), tile ∈ tilesOf 64 (4096 * (BitVec.toNat ext9.x1 % 2 ^ 12 + 1)) → cft10.tilePending tile = false))
    ∧ (cft10.stq = none ∧ Claims.copyRoom cft10 arg32.q ∧ Ready (Instr.coll arg31 arg32 ext10) arg31 sta21 cft10 ∧
      splitAddr (Claims.base cft10 arg32.b) = some (Space.sp, 64) ∧ 64 % 64 = 0 ∧
      32 * (BitVec.toNat ext10.x1 % 2 ^ 14 + 1) % (32 * (BitVec.toNat ext10.x0 % 2 ^ 10 + 1)) = 0 ∧
      Claims.SpOk cft10 Eng.A 64 (4 * (32 * (BitVec.toNat ext10.x1 % 2 ^ 14 + 1))) true ∧
      (BitVec.toNat ext10.x0 / 2 ^ 20 % 16 ≠ 0 → Claims.SpOk cft10 Eng.A (64 * (BitVec.toNat ext10.x1 / 2 ^ 14)) (4 * (32 * (BitVec.toNat ext10.x1 % 2 ^ 14 + 1))) true ∧
      (64 + 4 * (32 * (BitVec.toNat ext10.x1 % 2 ^ 14 + 1)) ≤ 64 * (BitVec.toNat ext10.x1 / 2 ^ 14) ∨ 64 * (BitVec.toNat ext10.x1 / 2 ^ 14) + 4 * (32 * (BitVec.toNat ext10.x1 % 2 ^ 14 + 1)) ≤ 64))) :=
  ⟨⟨by first | decide | rfl, ⟨by decide, by decide⟩, ⟨rfl, by decide, by decide, by decide, by rfl⟩, by first | decide | rfl, by first | decide | rfl,
    by first | decide | rfl, by first | decide | rfl, spOk_of (by decide)⟩,
   ⟨by first | decide | rfl, ⟨by decide, by decide⟩, ⟨rfl, by decide, by decide, by decide, by rfl⟩, by first | decide | rfl, by first | decide | rfl,
     by first | decide | rfl, by first | decide | rfl, by first | decide | rfl, by first | decide | rfl, by first | decide | rfl⟩,
   ⟨by first | decide | rfl, ⟨by decide, by decide⟩, ⟨rfl, by decide, by decide, by decide, by rfl⟩, by first | decide | rfl, by first | decide | rfl,
     by first | decide | rfl, spOk_of (by decide), (fun _ => ⟨spOk_of (by decide), by decide⟩)⟩⟩

/-- OwnerLoads: hypotheses that can be met, clause by clause. -/
theorem test_witness_OwnerLoads :
    (Ready (Instr.ldq t0 arg34 ext11) t0 (st ow1 : State) ow1 ∧ ow1.stq = none ∧ Claims.loadRoom ow1 arg34 ∧ ldqPacked arg34 ext11 = false ∧
      ((8208 % if arg34.q = 5 then 64 else 8) = 0) ∧ splitAddr (Claims.ea ow1 arg34 ext11) = some (Space.owner, 8208) ∧
      8208 + Claims.loadBytes arg34 ext11 ≤ 2 ^ 53 ∧
      ((st ow1 : State).setCur ow1).translate 8208 (Claims.loadBytes arg34 ext11) false = Except.ok (st ow1 : State))
    ∧ (Ready (Instr.ldq t0 arg34 ext11) t0 (st ow1 : State) ow1 ∧ ow1.stq = none ∧ Claims.loadRoom ow1 arg34 ∧ ldqPacked arg34 ext11 = false ∧
      ((8208 % if arg34.q = 5 then 64 else 8) = 0) ∧ splitAddr (Claims.ea ow1 arg34 ext11) = some (Space.owner, 8208) ∧
      8208 + Claims.loadBytes arg34 ext11 ≤ 2 ^ 53 ∧ (∀ (b : Access), b ∈ ow1.accs → b.isProbe = false) ∧ ow1.tlb.length ≤ 64 ∧
      (∀ (p : Nat), p ∈ pageStarts 8208 (Claims.loadBytes arg34 ext11) → (tlbFind ow1.tlb p).isSome = true)) :=
  ⟨⟨⟨rfl, by decide, by decide, by decide, by rfl⟩, by first | decide | rfl, ⟨by decide, by decide, by decide⟩, by first | decide | rfl,
    by first | decide | rfl, by first | decide | rfl, by first | decide | rfl, by first | decide | rfl⟩,
   ⟨⟨rfl, by decide, by decide, by decide, by rfl⟩, by first | decide | rfl, ⟨by decide, by decide, by decide⟩, by first | decide | rfl,
     by first | decide | rfl, by first | decide | rfl, by first | decide | rfl, by first | decide | rfl, by first | decide | rfl, by first | decide | rfl⟩⟩

/-- TranslationAtIssue: hypotheses that can be met, clause by clause. -/
theorem test_witness_TranslationAtIssue :
    ((∃ (b : Access), b ∈ (st ow4 : State).cur.accs ∧ b.isProbe = true))
    ∧ ((∀ (b : Access), b ∈ sta23.cur.accs → b.isProbe = false) ∧ sta23.cur.tlb.length ≤ 64 ∧ 0 < 8 ∧
      (∀ (p : Nat), p ∈ pageStarts 8208 8 → (fun (p : Nat) => ∃ (e : TlbEntry), tlbFind sta23.cur.tlb p = some e ∧
      (false = true → bitOf e.leaf 62 = true)) p))
    ∧ ((∀ (b : Access), b ∈ sta24.cur.accs → b.isProbe = false) ∧ sta24.cur.tlb.length ≤ 64 ∧ 0 < 1 ∧
      (∀ (p : Nat), p ∈ pageStarts 16383 1 → (fun (p : Nat) => ∃ (e : TlbEntry), tlbFind sta24.cur.tlb p = some e ∧
      (true = true → bitOf e.leaf 62 = true)) p))
    ∧ ((∀ (b : Access), b ∈ sta25.cur.accs → b.isProbe = false) ∧ sta25.cur.tlb.length ≤ 64 ∧ pageStarts 16383 9 = arg35 ++ 16383 :: ([16384] : List Nat) ∧
      (∀ (y : Nat), y ∈ arg35 → (fun (p : Nat) => ∃ (e : TlbEntry), tlbFind sta25.cur.tlb p = some e ∧ (true = true → bitOf e.leaf 62 = true)) y) ∧
      tlbFind sta25.cur.tlb 16383 = none)
    ∧ ((∀ (b : Access), b ∈ sta24.cur.accs → b.isProbe = false) ∧ sta24.cur.tlb.length ≤ 64 ∧ pageStarts 16383 2 = ([16383] : List Nat) ++ 16384 :: arg35 ∧
      (∀ (y : Nat), y ∈ ([16383] : List Nat) → (fun (p : Nat) => ∃ (e : TlbEntry), tlbFind sta24.cur.tlb p = some e ∧
      (true = true → bitOf e.leaf 62 = true)) y) ∧ tlbFind sta24.cur.tlb 16384 = none)
    ∧ ((∀ (b : Access), b ∈ sta23.cur.accs → b.isProbe = false) ∧ sta23.cur.tlb.length ≤ 64 ∧ pageStarts 16383 1 = arg35 ++ 16383 :: arg35 ∧
      (∀ (y : Nat), y ∈ arg35 → (fun (p : Nat) => ∃ (e : TlbEntry), tlbFind sta23.cur.tlb p = some e ∧ (true = true → bitOf e.leaf 62 = true)) y) ∧
      true = true ∧ (tlbFind sta23.cur.tlb 16383).isSome = true ∧ (∀ (e : TlbEntry), e ∈ sta23.cur.tlb → e.covers 16383 = true → bitOf e.leaf 62 = false)) :=
  ⟨by first | decide | rfl,
   ⟨by first | decide | rfl, by first | decide | rfl, by first | decide | rfl, by first | decide | rfl⟩,
   ⟨by first | decide | rfl, by first | decide | rfl, by first | decide | rfl, by first | decide | rfl⟩,
   ⟨by first | decide | rfl, by first | decide | rfl, by first | decide | rfl, by first | decide | rfl, by first | decide | rfl⟩,
   ⟨by first | decide | rfl, by first | decide | rfl, by first | decide | rfl, by first | decide | rfl, by first | decide | rfl⟩,
   ⟨by first | decide | rfl, by first | decide | rfl, by first | decide | rfl, by first | decide | rfl, by first | decide | rfl, by first | decide | rfl,
     by first | decide | rfl⟩⟩

/-- LocalAtomics: hypotheses that can be met, clause by clause. -/
theorem test_witness_LocalAtomics :
    (Ready (Instr.atom t0 arg36 ext12) t0 sta21 cft10 ∧ cft10.stq = none ∧ cft10.kept = [] ∧ 8 = 2 ^ (BitVec.toNat ext12.x1 / 16 % 4) ∧
      0 = BitVec.toNat ext12.x1 % 16 ∧ 64 % 8 = 0 ∧ splitAddr (Claims.ea cft10 arg36 ext12) = some (Space.sp, 64) ∧ Claims.SpOk cft10 Eng.A 64 8 true ∧
      Claims.OrderOk cft10 arg36.cls.toNat 64 8 ∧ (arg36.q = 0 → cft10.qc.length < 16) ∧ 0 ≠ 9 ∧ cft10.qa = 6 :: arg23)
    ∧ (Ready (Instr.atom t0 arg37 ext13) t0 (st {cm 1 with qa := [5,6,7]} : State) cft14 ∧ cft14.stq = none ∧ cft14.kept = [] ∧
      2 = 2 ^ (BitVec.toNat ext13.x1 / 16 % 4) ∧ 9 = BitVec.toNat ext13.x1 % 16 ∧ 64 % 2 = 0 ∧ splitAddr (Claims.ea cft14 arg37 ext13) = some (Space.sp, 64) ∧
      Claims.SpOk cft14 Eng.A 64 2 true ∧ Claims.OrderOk cft14 arg37.cls.toNat 64 2 ∧ (arg37.q = 0 → cft14.qc.length < 16) ∧ 9 = 9 ∧
      cft14.qa = 5 :: 6 :: ([7] : List Word64)) :=
  ⟨⟨⟨rfl, by decide, by decide, by decide, by rfl⟩, by first | decide | rfl, by first | decide | rfl, by first | decide | rfl, by first | decide | rfl,
    by first | decide | rfl, by first | decide | rfl, spOk_of (by decide), orderOk_of (by decide), by first | decide | rfl, by first | decide | rfl,
    by first | decide | rfl⟩,
   ⟨⟨rfl, by decide, by decide, by decide, by rfl⟩, by first | decide | rfl, by first | decide | rfl, by first | decide | rfl, by first | decide | rfl,
     by first | decide | rfl, by first | decide | rfl, spOk_of (by decide), orderOk_of (by decide), by first | decide | rfl, by first | decide | rfl,
     by first | decide | rfl⟩⟩

/-- StoreEntryPops: hypotheses that can be met, clause by clause. -/
theorem test_witness_StoreEntryPops :
    (sta26.power = true ∧ (sta26.croft 0).stq = some sq1 ∧ (sta26.croft 0).qs = 4369 :: arg30 ∧ ((sta26.croft 0).mode = Mode.fixed ∧ 6 = sq1.at_ ∧
      sq1.at_ ≤ (sta26.croft 0).atVc ∨ ((sta26.croft 0).mode = Mode.fixed ∧ 6 = (sta26.croft 0).nextVc ∧ (sta26.croft 0).atVc < sq1.at_ ∧
      (sta26.croft 0).atVc = (sta26.croft 0).nextVc ∧ ∃ (p : Eng × QEntry), p ∈ (sta26.croft 0).packet ∧ p.fst = Eng.A) ∨ (sta26.croft 0).mode = Mode.score ∧
      6 = (sta26.croft 0).nextVc ∧ sq1.at_ ≤ 6) ∧ sq1.got.length + 1 < sq1.need)
    ∧ (sta27.power = true ∧ (sta27.croft 0).stq = some arg38 ∧ (sta27.croft 0).qs = 4369 :: arg30 ∧ ((sta27.croft 0).mode = Mode.fixed ∧ 6 = arg38.at_ ∧
      arg38.at_ ≤ (sta27.croft 0).atVc ∨ ((sta27.croft 0).mode = Mode.fixed ∧ 6 = (sta27.croft 0).nextVc ∧ (sta27.croft 0).atVc < arg38.at_ ∧
      (sta27.croft 0).atVc = (sta27.croft 0).nextVc ∧ ∃ (p : Eng × QEntry), p ∈ (sta27.croft 0).packet ∧ p.fst = Eng.A) ∨ (sta27.croft 0).mode = Mode.score ∧
      6 = (sta27.croft 0).nextVc ∧ arg38.at_ ≤ 6) ∧ arg38.need ≤ arg38.got.length + 1 ∧ arg38.space ≠ Space.owner)
    ∧ (sta28.power = true ∧ (sta28.croft 0).stq = some arg39 ∧ (sta28.croft 0).qs = 4369 :: arg30 ∧ ((sta28.croft 0).mode = Mode.fixed ∧ 70 = arg39.at_ ∧
      arg39.at_ ≤ (sta28.croft 0).atVc ∨ ((sta28.croft 0).mode = Mode.fixed ∧ 70 = (sta28.croft 0).nextVc ∧ (sta28.croft 0).atVc < arg39.at_ ∧
      (sta28.croft 0).atVc = (sta28.croft 0).nextVc ∧ ∃ (p : Eng × QEntry), p ∈ (sta28.croft 0).packet ∧ p.fst = Eng.A) ∨ (sta28.croft 0).mode = Mode.score ∧
      70 = (sta28.croft 0).nextVc ∧ arg39.at_ ≤ 70) ∧ arg39.need ≤ arg39.got.length + 1 ∧ arg39.space = Space.owner) :=
  ⟨⟨by first | decide | rfl, by first | decide | rfl, by first | decide | rfl, by first | decide | rfl, by first | decide | rfl⟩,
   ⟨by first | decide | rfl, by first | decide | rfl, by first | decide | rfl, by first | decide | rfl, by first | decide | rfl, by first | decide | rfl⟩,
   ⟨by first | decide | rfl, by first | decide | rfl, by first | decide | rfl, by first | decide | rfl, by first | decide | rfl, by first | decide | rfl⟩⟩

/-- Fences: hypotheses that can be met, clause by clause. -/
theorem test_witness_Fences :
    (((.fence ⟨0,3⟩ ⟨0,0,8,0,0⟩ (.one 5) : Instr) = Instr.fence arg31 (⟨0,0,8,0,0⟩ : AM) (.one 5 : Ext) ∧
      5 = BitVec.toNat (.one 5 : Ext).x0 % 2 ^ 16 ∨ (.fence ⟨0,3⟩ ⟨0,0,8,0,0⟩ (.one 5) : Instr) = Instr.fencesc arg31 (⟨0,0,8,0,0⟩ : AM) (.one 5 : Ext) ∧
      5 = 2 ^ 16 - 1) ∧ Ready (.fence ⟨0,3⟩ ⟨0,0,8,0,0⟩ (.one 5) : Instr) arg31 (st fc1 : State) fc1 ∧ fc1.stq = none ∧
      (∀ (f : Fence), f ∈ fc1.fences → fc1.fenceDone f = false) ∧ ((∃ (a : Access), (fun (a : Access) => a ∈ fc1.accs ∧ a.isProbe = false ∧
      Nat.testBit 5 a.ord.cls = true) a) ∨ (∃ (r : StqRun), (fun (r : StqRun) => r ∈ fc1.stqs ∧ r.space ≠ Space.acm ∧
      Nat.testBit 5 r.ord.cls = true) r) ∨ (∃ (p : Pending), (fun (p : Pending) => p ∈ fc1.inFlight ∧ p.spWrite ≠ none ∧
      Nat.testBit 5 (clsOf p.ins) = true) p) ∨ ∃ (k : CopyCmd), (fun (k : CopyCmd) => k ∈ fc1.copyq ∧ Nat.testBit 5 k.ord.cls = true) k))
    ∧ (((.fence ⟨0,3⟩ ⟨0,0,8,0,0⟩ (.one 3) : Instr) = Instr.fence arg31 (⟨0,0,8,0,0⟩ : AM) (.one 3 : Ext) ∧
      3 = BitVec.toNat (.one 3 : Ext).x0 % 2 ^ 16 ∨ (.fence ⟨0,3⟩ ⟨0,0,8,0,0⟩ (.one 3) : Instr) = Instr.fencesc arg31 (⟨0,0,8,0,0⟩ : AM) (.one 3 : Ext) ∧
      3 = 2 ^ 16 - 1) ∧ Ready (.fence ⟨0,3⟩ ⟨0,0,8,0,0⟩ (.one 3) : Instr) arg31 (st fc1 : State) fc1 ∧ fc1.stq = none ∧
      (∀ (f : Fence), f ∈ fc1.fences → fc1.fenceDone f = false) ∧ (∀ (a : Access), ¬(fun (a : Access) => a ∈ fc1.accs ∧ a.isProbe = false ∧
      Nat.testBit 3 a.ord.cls = true) a) ∧ (∀ (r : StqRun), ¬(fun (r : StqRun) => r ∈ fc1.stqs ∧ r.space ≠ Space.acm ∧ Nat.testBit 3 r.ord.cls = true) r) ∧
      (∀ (p : Pending), ¬(fun (p : Pending) => p ∈ fc1.inFlight ∧ p.spWrite ≠ none ∧ Nat.testBit 3 (clsOf p.ins) = true) p) ∧
      (∀ (k : CopyCmd), ¬(fun (k : CopyCmd) => k ∈ fc1.copyq ∧ Nat.testBit 3 k.ord.cls = true) k))
    ∧ (cft15.fences = [arg40] ∧ (¬((∀ (a : Access), a ∈ cft15.accs → ¬a.id ∈ arg40.accs) ∧ (∀ (k : CopyCmd), k ∈ cft15.copyq → ¬k.seq ∈ arg40.cmds) ∧
      (∀ (p : Pending), p ∈ cft15.inFlight → p.seq ∈ arg40.lands → p.spWrite = none) ∧ ∀ (r : StqRun), r ∈ cft15.stqs → ¬r.seq ∈ arg40.lands)))
    ∧ (({cm 1 with fences := [⟨6,4,0,[],[4],[],2⟩]} : Croft).fences = [arg40] ∧
      ((∀ (a : Access), a ∈ ({cm 1 with fences := [⟨6,4,0,[],[4],[],2⟩]} : Croft).accs → ¬a.id ∈ arg40.accs) ∧
      (∀ (k : CopyCmd), k ∈ ({cm 1 with fences := [⟨6,4,0,[],[4],[],2⟩]} : Croft).copyq → ¬k.seq ∈ arg40.cmds) ∧
      (∀ (p : Pending), p ∈ ({cm 1 with fences := [⟨6,4,0,[],[4],[],2⟩]} : Croft).inFlight → p.seq ∈ arg40.lands → p.spWrite = none) ∧
      ∀ (r : StqRun), r ∈ ({cm 1 with fences := [⟨6,4,0,[],[4],[],2⟩]} : Croft).stqs → ¬r.seq ∈ arg40.lands)) :=
  ⟨⟨by first | decide | rfl, ⟨rfl, by decide, by decide, by decide, by rfl⟩, by first | decide | rfl, by first | decide | rfl, by first | decide | rfl⟩,
   ⟨by first | decide | rfl, ⟨rfl, by decide, by decide, by decide, by rfl⟩, by first | decide | rfl, by first | decide | rfl,
     (fun p h => absurd h.2.2 (by rw [List.mem_singleton.mp (show p ∈ [ac1] from h.1)]; decide)), (fun p h => absurd (show p ∈ [] from h.1) List.not_mem_nil), (fun p h => absurd (show p ∈ [] from h.1) List.not_mem_nil), (fun p h => absurd (show p ∈ [] from h.1) List.not_mem_nil)⟩,
   ⟨by first | decide | rfl, by first | decide | rfl⟩,
   ⟨by first | decide | rfl, by first | decide | rfl⟩⟩

/-- TranslationControl: hypotheses that can be met, clause by clause. -/
theorem test_witness_TranslationControl :
    (pgc.stq = none ∧ splitAddr (Claims.ea pgc (⟨0,0,0,3,0⟩ : AM) (.two 0 3 : Ext)) = some (Space.owner, 8192) ∧
      Ready (Instr.pginv t0 (⟨0,0,0,3,0⟩ : AM) (.two 0 3 : Ext)) t0 (st pgc : State) pgc ∧ pgc.owner = some 0 ∧ 8192 ≤ 2 ^ 53)
    ∧ (cft10.stq = none ∧ splitAddr (Claims.ea cft10 arg41 Ext.none) = some (Space.owner, 8192) ∧ Ready (Instr.pgprobe t0 arg41 Ext.none) t0 sta21 cft10 ∧
      cft10.qc.length < 16 ∧ cft10.walks.length < 8 ∧ (∀ (w : Walk), w ∈ cft10.walks → w.probe = false)) :=
  ⟨⟨by first | decide | rfl, by first | decide | rfl, ⟨rfl, by decide, by decide, by decide, by rfl⟩, by first | decide | rfl, by first | decide | rfl⟩,
   ⟨by first | decide | rfl, by first | decide | rfl, ⟨rfl, by decide, by decide, by decide, by rfl⟩, by first | decide | rfl, by first | decide | rfl,
     by first | decide | rfl⟩⟩

/-- PackedLoads: hypotheses that can be met, clause by clause. -/
theorem test_witness_PackedLoads :
    (Ready (Instr.ldq t0 arg42 ext14) t0 (st ((bb (cpk) (spw 1024))) : State) cft16 ∧ cft16.stq = none ∧ Claims.loadRoom cft16 arg42 ∧
      ldqPacked arg42 ext14 = true ∧ 1024 % 8 = 0 ∧ splitAddr (Claims.ea cft16 arg42 ext14) = some (Space.sp, 1024) ∧
      (∀ (y : Nat), 1024 ≤ y → y < 1024 + 1032 → y < 2 ^ 21 → ∃ (r : Rng), r ∈ (vget cft16.phases { } Eng.A.ix).reads ++ (vget cft16.phases { } Eng.A.ix).writes ∧
      r.base ≤ y ∧ y < r.base + r.len) ∧
      (headerOk ((fun (z : Space) => ((fun (z : Space) => if z = Space.acm then cft16.acm else cft16.sp) z).header 1024) Space.sp) = true) ∧
      (packedOk ((fun (z : Space) => ((fun (z : Space) => if z = Space.acm then cft16.acm else cft16.sp) z).header 1024) Space.sp) ((fun (z : Space) => ((fun (z : Space) => if z = Space.acm then cft16.acm else cft16.sp) z).pairs 1024 (hdrPairs ((fun (z : Space) => ((fun (z : Space) => if z = Space.acm then cft16.acm else cft16.sp) z).header 1024) z))) Space.sp) = true) ∧
      (Claims.SpOk cft16 Eng.A 1024 ((fun (z : Space) => 8 + 8 * hdrPairs ((fun (z : Space) => ((fun (z : Space) => if z = Space.acm then cft16.acm else cft16.sp) z).header 1024) z)) Space.sp) false) ∧
      (Claims.OrderOk cft16 arg42.cls.toNat 1024 ((fun (z : Space) => 8 + 8 * hdrPairs ((fun (z : Space) => ((fun (z : Space) => if z = Space.acm then cft16.acm else cft16.sp) z).header 1024) z)) Space.sp)))
    ∧ (Ready (Instr.ldq t0 arg42 (.two 192 (2^28) : Ext)) t0 (st ((bb (cpk) (spw 1024))) : State) cft16 ∧ cft16.stq = none ∧ Claims.loadRoom cft16 arg42 ∧
      ldqPacked arg42 (.two 192 (2^28) : Ext) = true ∧ 1216 % 8 = 0 ∧ splitAddr (Claims.ea cft16 arg42 (.two 192 (2^28) : Ext)) = some (Space.sp, 1216) ∧
      (∀ (y : Nat), 1216 ≤ y → y < 1216 + 1032 → y < 2 ^ 21 → ∃ (r : Rng), r ∈ (vget cft16.phases { } Eng.A.ix).reads ++ (vget cft16.phases { } Eng.A.ix).writes ∧
      r.base ≤ y ∧ y < r.base + r.len) ∧ Claims.SpOk cft16 Eng.A 1216 8 false ∧ Claims.OrderOk cft16 arg42.cls.toNat 1216 8 ∧
      (headerOk ((fun (z : Space) => ((fun (z : Space) => if z = Space.acm then cft16.acm else cft16.sp) z).header 1216) Space.sp) = false))
    ∧ (Ready (Instr.ldq t0 arg42 ext14) t0 (st ((bb (cpk) (spw (2^21-8)))) : State) cft17 ∧ cft17.stq = none ∧ Claims.loadRoom cft17 arg42 ∧
      ldqPacked arg42 ext14 = true ∧ 2097144 % 8 = 0 ∧ splitAddr (Claims.ea cft17 arg42 ext14) = some (Space.sp, 2097144) ∧
      (∀ (y : Nat), 2097144 ≤ y → y < 2097144 + 1032 → y < 2 ^ 21 → ∃ (r : Rng), r ∈ (vget cft17.phases { } Eng.A.ix).reads ++ (vget cft17.phases { } Eng.A.ix).writes ∧
      r.base ≤ y ∧ y < r.base + r.len) ∧ Claims.SpOk cft17 Eng.A 2097144 8 false ∧ Claims.OrderOk cft17 arg42.cls.toNat 2097144 8 ∧
      (headerOk ((fun (z : Space) => ((fun (z : Space) => if z = Space.acm then cft17.acm else cft17.sp) z).header 2097144) Space.sp) = true) ∧
      (2 ^ 21 < 2097144 + (fun (z : Space) => 8 + 8 * hdrPairs ((fun (z : Space) => ((fun (z : Space) => if z = Space.acm then cft17.acm else cft17.sp) z).header 2097144) z)) Space.sp))
    ∧ (Ready (Instr.ldq t0 arg42 (.two 64 (2^28) : Ext)) t0 (st ((bb (cpk) (spw 1024))) : State) cft16 ∧ cft16.stq = none ∧ Claims.loadRoom cft16 arg42 ∧
      ldqPacked arg42 (.two 64 (2^28) : Ext) = true ∧ 1088 % 8 = 0 ∧ splitAddr (Claims.ea cft16 arg42 (.two 64 (2^28) : Ext)) = some (Space.sp, 1088) ∧
      (∀ (y : Nat), 1088 ≤ y → y < 1088 + 1032 → y < 2 ^ 21 → ∃ (r : Rng), r ∈ (vget cft16.phases { } Eng.A.ix).reads ++ (vget cft16.phases { } Eng.A.ix).writes ∧
      r.base ≤ y ∧ y < r.base + r.len) ∧
      (headerOk ((fun (z : Space) => ((fun (z : Space) => if z = Space.acm then cft16.acm else cft16.sp) z).header 1088) Space.sp) = true) ∧
      (packedOk ((fun (z : Space) => ((fun (z : Space) => if z = Space.acm then cft16.acm else cft16.sp) z).header 1088) Space.sp) ((fun (z : Space) => ((fun (z : Space) => if z = Space.acm then cft16.acm else cft16.sp) z).pairs 1088 (hdrPairs ((fun (z : Space) => ((fun (z : Space) => if z = Space.acm then cft16.acm else cft16.sp) z).header 1088) z))) Space.sp) = false) ∧
      (Claims.SpOk cft16 Eng.A 1088 ((fun (z : Space) => 8 + 8 * hdrPairs ((fun (z : Space) => ((fun (z : Space) => if z = Space.acm then cft16.acm else cft16.sp) z).header 1088) z)) Space.sp) false) ∧
      (Claims.OrderOk cft16 arg42.cls.toNat 1088 ((fun (z : Space) => 8 + 8 * hdrPairs ((fun (z : Space) => ((fun (z : Space) => if z = Space.acm then cft16.acm else cft16.sp) z).header 1088) z)) Space.sp)))
    ∧ (Ready (Instr.ldq t0 arg42 ext14) t0 (st ((bb (cpk) (acw 16384))) : State) cft18 ∧ cft18.stq = none ∧ Claims.loadRoom cft18 arg42 ∧
      ldqPacked arg42 ext14 = true ∧ 16384 % 8 = 0 ∧ splitAddr (Claims.ea cft18 arg42 ext14) = some (Space.acm, 16384) ∧
      (headerOk ((fun (z : Space) => ((fun (z : Space) => if z = Space.acm then cft18.acm else cft18.sp) z).header 16384) Space.acm) = true) ∧
      (packedOk ((fun (z : Space) => ((fun (z : Space) => if z = Space.acm then cft18.acm else cft18.sp) z).header 16384) Space.acm) ((fun (z : Space) => ((fun (z : Space) => if z = Space.acm then cft18.acm else cft18.sp) z).pairs 16384 (hdrPairs ((fun (z : Space) => ((fun (z : Space) => if z = Space.acm then cft18.acm else cft18.sp) z).header 16384) z))) Space.acm) = true) ∧
      (16384 + (fun (z : Space) => 8 + 8 * hdrPairs ((fun (z : Space) => ((fun (z : Space) => if z = Space.acm then cft18.acm else cft18.sp) z).header 16384) z)) Space.acm ≤ 2 ^ 18) ∧
      (∀ (tile : Nat), tile ∈ tilesOf 16384 (min 1032 (2 ^ 18 - 16384)) → cft18.heldTile tile = false))
    ∧ (Ready (Instr.ldq t0 arg42 (.two 1024 (2^28) : Ext)) t0 sta29 oc ∧ oc.stq = none ∧ Claims.loadRoom oc arg42 ∧
      ldqPacked arg42 (.two 1024 (2^28) : Ext) = true ∧ 9216 % 8 = 0 ∧ splitAddr (Claims.ea oc arg42 (.two 1024 (2^28) : Ext)) = some (Space.owner, 9216) ∧
      (sta29.setCur oc).translate 9216 8 false = Except.ok sta30 ∧ sta30.cur.orderReady oc.issueSeq arg42.cls.toNat 9216 1032 = true ∧
      sta30.ownerRead sta29.me 9216 8 = Except.ok (arg43, ((r1 9216).2 : State)) ∧ headerOk (BitVec.ofNat 64 (leNat arg43)) = true ∧
      9216 + (8 + 8 * hdrPairs (BitVec.ofNat 64 (leNat arg43))) ≤ 2 ^ 53 ∧
      sta30.translate 9216 (8 + 8 * hdrPairs (BitVec.ofNat 64 (leNat arg43))) false = Except.ok (t2 9216 24 : State) ∧
      (t2 9216 24 : State).ownerRead sta29.me 9216 (8 + 8 * hdrPairs (BitVec.ofNat 64 (leNat arg43))) = Except.ok (((r2 9216 24).1 : List Byte),
      ((r2 9216 24).2 : State)) ∧
      (packedOk (BitVec.ofNat 64 (leNat (List.take 8 ((r2 9216 24).1 : List Byte)))) (List.map (fun (j : Nat) => BitVec.ofNat 64 (leNat (List.take 8 (List.drop (8 + 8 * j) ((r2 9216 24).1 : List Byte))))) (List.range (hdrPairs (BitVec.ofNat 64 (leNat arg43))))) = true) ∧
      ((r2 9216 24).1 : List Byte).length = 8 + 8 * hdrPairs (BitVec.ofNat 64 (leNat arg43))) :=
  ⟨⟨⟨rfl, by decide, by decide, by decide, by rfl⟩, by first | decide | rfl, ⟨by decide, by decide, by decide⟩, by first | decide | rfl,
    by first | decide | rfl, by first | decide | rfl, (fun _ _ h _ => ⟨⟨0, 2 ^ 21⟩, by decide, Nat.zero_le _, Nat.lt_of_lt_of_le h (by decide)⟩),
    by first | decide | rfl, by first | decide | rfl, spOk_of (by decide), orderOk_of (by decide)⟩,
   ⟨⟨rfl, by decide, by decide, by decide, by rfl⟩, by first | decide | rfl, ⟨by decide, by decide, by decide⟩, by first | decide | rfl,
     by first | decide | rfl, by first | decide | rfl, (fun _ _ h _ => ⟨⟨0, 2 ^ 21⟩, by decide, Nat.zero_le _, Nat.lt_of_lt_of_le h (by decide)⟩),
     spOk_of (by decide), orderOk_of (by decide), by first | decide | rfl⟩,
   ⟨⟨rfl, by decide, by decide, by decide, by rfl⟩, by first | decide | rfl, ⟨by decide, by decide, by decide⟩, by first | decide | rfl,
     by first | decide | rfl, by first | decide | rfl, (fun _ _ _ h => ⟨⟨0, 2 ^ 21⟩, by decide, Nat.zero_le _, Nat.lt_of_lt_of_le h (by decide)⟩),
     spOk_of (by decide), orderOk_of (by decide), by first | decide | rfl, by first | decide | rfl⟩,
   ⟨⟨rfl, by decide, by decide, by decide, by rfl⟩, by first | decide | rfl, ⟨by decide, by decide, by decide⟩, by first | decide | rfl,
     by first | decide | rfl, by first | decide | rfl, (fun _ _ h _ => ⟨⟨0, 2 ^ 21⟩, by decide, Nat.zero_le _, Nat.lt_of_lt_of_le h (by decide)⟩),
     by first | decide | rfl, by first | decide | rfl, spOk_of (by decide), orderOk_of (by decide)⟩,
   ⟨⟨rfl, by decide, by decide, by decide, by rfl⟩, by first | decide | rfl, ⟨by decide, by decide, by decide⟩, by first | decide | rfl,
     by first | decide | rfl, by first | decide | rfl, by first | decide | rfl, by first | decide | rfl, by first | decide | rfl, by first | decide | rfl⟩,
   ⟨⟨rfl, by decide, by decide, by decide, by rfl⟩, by first | decide | rfl, ⟨by decide, by decide, by decide⟩, by first | decide | rfl,
     by first | decide | rfl, by first | decide | rfl, by first | decide | rfl, by first | decide | rfl, by first | decide | rfl, by first | decide | rfl,
     by first | decide | rfl, by first | decide | rfl, by first | decide | rfl, by first | decide | rfl, by first | decide | rfl⟩⟩

/-- StoresIssue: hypotheses that can be met, clause by clause. -/
theorem test_witness_StoresIssue :
    (Ready (Instr.stq t0 arg41 ext15) t0 (st (bb (cs2 0x1111) (spw 1024)) : State) cft19 ∧ cft19.stq = none ∧ cft19.kept = [] ∧ cft19.qs = 4369 :: arg44 ∧
      1024 % 8 = 0 ∧ false = decide (BitVec.toNat ext15.x1 / 2 ^ 28 = 1) ∧
      (1 = if false = true then 1 + hdrPairs 4369 else if BitVec.toNat ext15.x1 % 2 ^ 13 = 0 then 1 else BitVec.toNat ext15.x1 % 2 ^ 13) ∧
      (false = true → headerOk 4369 = true) ∧ splitAddr (Claims.ea cft19 arg41 ext15) = some (Space.sp, 1024) ∧ Claims.SpOk cft19 Eng.A 1024 (8 * 1) true ∧
      (∀ (y : Nat), 1024 ≤ y → y < 1024 + (fun (size : Nat) => if false = true then min 1032 (size - 1024) else 8 * 1) (2 ^ 21) → ∃ (r : Rng), r ∈ (vget cft19.phases { } Eng.A.ix).writes ∧
      r.base ≤ y ∧ y < r.base + r.len) ∧
      (Claims.OrderOk cft19 arg41.cls.toNat 1024 ((fun (size : Nat) => if false = true then min 1032 (size - 1024) else 8 * 1) (2 ^ 21))))
    ∧ (Ready (Instr.stq t0 arg41 ext14) t0 sta31 cft20 ∧ cft20.stq = none ∧ cft20.kept = [] ∧ cft20.qs = arg45 :: arg23 ∧ 1024 % 8 = 0 ∧
      true = decide (BitVec.toNat ext14.x1 / 2 ^ 28 = 1) ∧
      (129 = if true = true then 1 + hdrPairs arg45 else if BitVec.toNat ext14.x1 % 2 ^ 13 = 0 then 1 else BitVec.toNat ext14.x1 % 2 ^ 13) ∧
      (true = true → headerOk arg45 = true) ∧ splitAddr (Claims.ea cft20 arg41 ext14) = some (Space.sp, 1024) ∧ Claims.SpOk cft20 Eng.A 1024 (8 * 129) true ∧
      (∀ (y : Nat), 1024 ≤ y → y < 1024 + (fun (size : Nat) => if true = true then min 1032 (size - 1024) else 8 * 129) (2 ^ 21) → ∃ (r : Rng), r ∈ (vget cft20.phases { } Eng.A.ix).writes ∧
      r.base ≤ y ∧ y < r.base + r.len) ∧
      (Claims.OrderOk cft20 arg41.cls.toNat 1024 ((fun (size : Nat) => if true = true then min 1032 (size - 1024) else 8 * 129) (2 ^ 21))))
    ∧ (Ready (Instr.stq t0 arg41 ext15) t0 (st (bb (cs2 0x1111) (acw 16384)) : State) cft21 ∧ cft21.stq = none ∧ cft21.kept = [] ∧ cft21.qs = 4369 :: arg44 ∧
      16384 % 8 = 0 ∧ false = decide (BitVec.toNat ext15.x1 / 2 ^ 28 = 1) ∧
      (1 = if false = true then 1 + hdrPairs 4369 else if BitVec.toNat ext15.x1 % 2 ^ 13 = 0 then 1 else BitVec.toNat ext15.x1 % 2 ^ 13) ∧
      (false = true → headerOk 4369 = true) ∧ splitAddr (Claims.ea cft21 arg41 ext15) = some (Space.acm, 16384) ∧ 16384 + 8 * 1 ≤ 2 ^ 18 ∧
      (∀ (tile : Nat), tile ∈ tilesOf 16384 ((fun (size : Nat) => if false = true then min 1032 (size - 16384) else 8 * 1) (2 ^ 18)) → cft21.heldTile tile = false))
    ∧ (Ready (Instr.stq t0 arg41 ext14) t0 sta32 cft22 ∧ cft22.stq = none ∧ cft22.kept = [] ∧ cft22.qs = arg45 :: arg23 ∧ 16384 % 8 = 0 ∧
      true = decide (BitVec.toNat ext14.x1 / 2 ^ 28 = 1) ∧
      (129 = if true = true then 1 + hdrPairs arg45 else if BitVec.toNat ext14.x1 % 2 ^ 13 = 0 then 1 else BitVec.toNat ext14.x1 % 2 ^ 13) ∧
      (true = true → headerOk arg45 = true) ∧ splitAddr (Claims.ea cft22 arg41 ext14) = some (Space.acm, 16384) ∧ 16384 + 8 * 129 ≤ 2 ^ 18 ∧
      (∀ (tile : Nat), tile ∈ tilesOf 16384 ((fun (size : Nat) => if true = true then min 1032 (size - 16384) else 8 * 129) (2 ^ 18)) → cft22.heldTile tile = false))
    ∧ (Ready (Instr.stq t0 arg41 ext16) t0 sta33 cft23 ∧ cft23.stq = none ∧ cft23.kept = [] ∧ cft23.qs = 119 :: arg44 ∧ 9216 % 8 = 0 ∧
      false = decide (BitVec.toNat ext16.x1 / 2 ^ 28 = 1) ∧
      (1 = if false = true then 1 + hdrPairs 119 else if BitVec.toNat ext16.x1 % 2 ^ 13 = 0 then 1 else BitVec.toNat ext16.x1 % 2 ^ 13) ∧
      (false = true → headerOk 119 = true) ∧ splitAddr (Claims.ea cft23 arg41 ext16) = some (Space.owner, 9216) ∧ 9216 + 8 * 1 ≤ 2 ^ 53 ∧
      (sta33.setCur cft23).translate 9216 (8 * 1) true = Except.ok sta34)
    ∧ (Ready (Instr.stq t0 (⟨2,2,1,3,0⟩ : AM) ext17) t0 sta35 cft24 ∧ cft24.stq = none ∧ cft24.kept = [] ∧ cft24.qs = 119 :: arg23 ∧ 9216 % 8 = 0 ∧
      false = decide (BitVec.toNat ext17.x1 / 2 ^ 28 = 1) ∧
      (3 = if false = true then 1 + hdrPairs 119 else if BitVec.toNat ext17.x1 % 2 ^ 13 = 0 then 1 else BitVec.toNat ext17.x1 % 2 ^ 13) ∧
      (false = true → headerOk 119 = true) ∧ splitAddr (Claims.ea cft24 (⟨2,2,1,3,0⟩ : AM) ext17) = some (Space.owner, 9216) ∧ 9216 + 8 * 3 ≤ 2 ^ 53 ∧
      (sta35.setCur cft24).translate 9216 (8 * 3) true = Except.ok sta36)
    ∧ (Ready (Instr.stq t0 arg41 ext14) t0 (st (bb (cs2 (hw 5 0)) (spw 1024)) : State) cft25 ∧ cft25.stq = none ∧ cft25.kept = [] ∧
      cft25.qs = (hw 5 0 : Word64) :: arg44 ∧ 1024 % 8 = 0 ∧ true = decide (BitVec.toNat ext14.x1 / 2 ^ 28 = 1) ∧ true = true ∧
      splitAddr (Claims.ea cft25 arg41 ext14) = some (Space.sp, 1024) ∧ (Space.sp = Space.sp ∧ arg46 = 2 ^ 21 ∧ Claims.SpOk cft25 Eng.A 1024 8 true ∧
      (∀ (y : Nat), 1024 ≤ y → y < 1024 + (fun (size : Nat) => if true = true then min 1032 (size - 1024) else 8 * 1) arg46 → ∃ (r : Rng), r ∈ (vget cft25.phases { } Eng.A.ix).writes ∧
      r.base ≤ y ∧ y < r.base + r.len) ∧
      Claims.OrderOk cft25 arg41.cls.toNat 1024 ((fun (size : Nat) => if true = true then min 1032 (size - 1024) else 8 * 1) arg46) ∨ (Space.sp = Space.acm ∧
      arg46 = 2 ^ 18 ∧ 1024 + 8 ≤ arg46 ∧
      ∀ (tile : Nat), tile ∈ tilesOf 1024 ((fun (size : Nat) => if true = true then min 1032 (size - 1024) else 8 * 1) arg46) → cft25.heldTile tile = false) ∨ Space.sp = Space.owner ∧
      arg46 = 2 ^ 53 ∧ 1024 + 8 ≤ arg46) ∧ (headerOk (hw 5 0 : Word64) = false ∨ arg46 < 1024 + (8 + 8 * hdrPairs (hw 5 0 : Word64))))
    ∧ (Ready (Instr.stq t0 arg41 ext14) t0 sta37 cft26 ∧ cft26.stq = none ∧ cft26.kept = [] ∧ cft26.qs = (hw 5 2 : Word64) :: arg23 ∧ 2097136 % 8 = 0 ∧
      true = decide (BitVec.toNat ext14.x1 / 2 ^ 28 = 1) ∧ true = true ∧ splitAddr (Claims.ea cft26 arg41 ext14) = some (Space.sp, 2097136) ∧
      (Space.sp = Space.sp ∧ arg46 = 2 ^ 21 ∧ Claims.SpOk cft26 Eng.A 2097136 8 true ∧
      (∀ (y : Nat), 2097136 ≤ y → y < 2097136 + (fun (size : Nat) => if true = true then min 1032 (size - 2097136) else 8 * 1) arg46 → ∃ (r : Rng), r ∈ (vget cft26.phases { } Eng.A.ix).writes ∧
      r.base ≤ y ∧ y < r.base + r.len) ∧
      Claims.OrderOk cft26 arg41.cls.toNat 2097136 ((fun (size : Nat) => if true = true then min 1032 (size - 2097136) else 8 * 1) arg46) ∨ (Space.sp = Space.acm ∧
      arg46 = 2 ^ 18 ∧ 2097136 + 8 ≤ arg46 ∧
      ∀ (tile : Nat), tile ∈ tilesOf 2097136 ((fun (size : Nat) => if true = true then min 1032 (size - 2097136) else 8 * 1) arg46) → cft26.heldTile tile = false) ∨ Space.sp = Space.owner ∧
      arg46 = 2 ^ 53 ∧ 2097136 + 8 ≤ arg46) ∧ (headerOk (hw 5 2 : Word64) = false ∨ arg46 < 2097136 + (8 + 8 * hdrPairs (hw 5 2 : Word64)))) :=
  ⟨⟨⟨rfl, by decide, by decide, by decide, by rfl⟩, by first | decide | rfl, by first | decide | rfl, by first | decide | rfl, by first | decide | rfl,
    by first | decide | rfl, by first | decide | rfl, by first | decide | rfl, by first | decide | rfl, spOk_of (by decide), (fun _ _ h => ⟨⟨0, 2 ^ 21⟩,
    by decide, Nat.zero_le _, Nat.lt_of_lt_of_le h (by decide)⟩), orderOk_of (by decide)⟩,
   ⟨⟨rfl, by decide, by decide, by decide, by rfl⟩, by first | decide | rfl, by first | decide | rfl, by first | decide | rfl, by first | decide | rfl,
     by first | decide | rfl, by first | decide | rfl, by first | decide | rfl, by first | decide | rfl, spOk_of (by decide), (fun _ _ h => ⟨⟨0, 2 ^ 21⟩,
     by decide, Nat.zero_le _, Nat.lt_of_lt_of_le h (by decide)⟩), orderOk_of (by decide)⟩,
   ⟨⟨rfl, by decide, by decide, by decide, by rfl⟩, by first | decide | rfl, by first | decide | rfl, by first | decide | rfl, by first | decide | rfl,
     by first | decide | rfl, by first | decide | rfl, by first | decide | rfl, by first | decide | rfl, by first | decide | rfl, by first | decide | rfl⟩,
   ⟨⟨rfl, by decide, by decide, by decide, by rfl⟩, by first | decide | rfl, by first | decide | rfl, by first | decide | rfl, by first | decide | rfl,
     by first | decide | rfl, by first | decide | rfl, by first | decide | rfl, by first | decide | rfl, by first | decide | rfl, by first | decide | rfl⟩,
   ⟨⟨rfl, by decide, by decide, by decide, by rfl⟩, by first | decide | rfl, by first | decide | rfl, by first | decide | rfl, by first | decide | rfl,
     by first | decide | rfl, by first | decide | rfl, by first | decide | rfl, by first | decide | rfl, by first | decide | rfl, by first | decide | rfl⟩,
   ⟨⟨rfl, by decide, by decide, by decide, by rfl⟩, by first | decide | rfl, by first | decide | rfl, by first | decide | rfl, by first | decide | rfl,
     by first | decide | rfl, by first | decide | rfl, by first | decide | rfl, by first | decide | rfl, by first | decide | rfl, by first | decide | rfl⟩,
   ⟨⟨rfl, by decide, by decide, by decide, by rfl⟩, by first | decide | rfl, by first | decide | rfl, by first | decide | rfl, by first | decide | rfl,
     by first | decide | rfl, by first | decide | rfl, by first | decide | rfl, .inl ⟨rfl, rfl, spOk_of (by decide), fun _ _ h => ⟨⟨0, 2 ^ 21⟩, by decide,
     Nat.zero_le _, Nat.lt_of_lt_of_le h (by decide)⟩, orderOk_of (by decide)⟩, by first | decide | rfl⟩,
   ⟨⟨rfl, by decide, by decide, by decide, by rfl⟩, by first | decide | rfl, by first | decide | rfl, by first | decide | rfl, by first | decide | rfl,
     by first | decide | rfl, by first | decide | rfl, by first | decide | rfl, .inl ⟨rfl, rfl, spOk_of (by decide), fun _ _ h => ⟨⟨0, 2 ^ 21⟩, by decide,
     Nat.zero_le _, Nat.lt_of_lt_of_le h (by decide)⟩, orderOk_of (by decide)⟩, by first | decide | rfl⟩⟩

/-- OwnerAtomics: hypotheses that can be met, clause by clause. -/
theorem test_witness_OwnerAtomics :
    (Ready (Instr.atom t0 (⟨2,3,1,3,0⟩ : AM) ext18) t0 sta38 cft27 ∧ cft27.stq = none ∧ cft27.kept = [] ∧ 4 = 2 ^ (BitVec.toNat ext18.x1 / 16 % 4) ∧
      0 = BitVec.toNat ext18.x1 % 16 ∧ 9216 % 4 = 0 ∧ 9216 + 4 ≤ 2 ^ 53 ∧ splitAddr (Claims.ea cft27 (⟨2,3,1,3,0⟩ : AM) ext18) = some (Space.owner, 9216) ∧
      ((⟨2,3,1,3,0⟩ : AM).q = 0 → cft27.qc.length < 16) ∧ (sta38.setCur cft27).translate 9216 4 true = Except.ok sta39 ∧
      (if 0 = 9 then cft27.qa = 5 :: 5 :: ([6,7] : List Word64) else cft27.qa = 5 :: ([6,7] : List Word64) ∧ 5 = 5))
    ∧ (Ready (Instr.atom t0 (⟨2,3,1,3,1⟩ : AM) ext19) t0 sta40 cft28 ∧ cft28.stq = none ∧ cft28.kept = [] ∧ 8 = 2 ^ (BitVec.toNat ext19.x1 / 16 % 4) ∧
      9 = BitVec.toNat ext19.x1 % 16 ∧ 9216 % 8 = 0 ∧ 9216 + 8 ≤ 2 ^ 53 ∧ splitAddr (Claims.ea cft28 (⟨2,3,1,3,1⟩ : AM) ext19) = some (Space.owner, 9216) ∧
      ((⟨2,3,1,3,1⟩ : AM).q = 0 → cft28.qc.length < 16) ∧ (sta40.setCur cft28).translate 9216 8 true = Except.ok sta41 ∧
      (if 9 = 9 then cft28.qa = 5 :: 6 :: ([7] : List Word64) else cft28.qa = 6 :: ([7] : List Word64) ∧ 5 = 6)) :=
  ⟨⟨⟨rfl, by decide, by decide, by decide, by rfl⟩, by first | decide | rfl, by first | decide | rfl, by first | decide | rfl, by first | decide | rfl,
    by first | decide | rfl, by first | decide | rfl, by first | decide | rfl, by first | decide | rfl, by first | decide | rfl, by first | decide | rfl⟩,
   ⟨⟨rfl, by decide, by decide, by decide, by rfl⟩, by first | decide | rfl, by first | decide | rfl, by first | decide | rfl, by first | decide | rfl,
     by first | decide | rfl, by first | decide | rfl, by first | decide | rfl, by first | decide | rfl, by first | decide | rfl, by first | decide | rfl⟩⟩

end W3

/-! ### Witnesses, part 4 -/

namespace W4

def arg47 : AM := ⟨1,1,2,0,2⟩
def ext20 : Ext := .two (10*2^14) (40*2^14)
def sta42 : State := st {cw with phases := vset c0.phases 1 whole}
def cft29 : Croft := {cw with phases := vset c0.phases 1 whole}
def arg48 : MF := ⟨0,0,0,0⟩
def sta43 : State := st cw
def arg49 : Nest := { kind := .runb false false, live := cw.live, fa := 0, fb := 0, abase := 0, bbase := 524288, packed := false, chain := [], table := cw.mtab.toList, steps := 2, len := 2 }
def cft30 : Croft := {cw with armed := some 5}
def arg50 : Nest := { kind := .lowr 32, live := cw.live, fa := 1, fb := 1, abase := 524288, bbase := 0, packed := false, chain := [], table := [], steps := 1, len := 1 }
def ext21 : Ext := .two (8192*2^14+1*2^10+2*2^6) (511*2^5)
def arg51 : Nest := { kind := .run true false, live := cw.live, fa := 1, fb := 2, abase := 524288, bbase := 0, packed := false, chain := [], table := cw.mtab.toList, steps := 2, len := 2 }
def ext22 : Ext := .two (40*2^14+2^5) (8192*2^14)
def sta44 : State := st {cw with mtab := vset ({} : Croft).mtab 5 (2^56+2^55)}
def cft31 : Croft := {cw with mtab := vset ({} : Croft).mtab 5 (2^56+2^55)}
def arg52 : Nest := { kind := .run false false, live := cw.live, fa := 0, fb := 0, abase := 2560, bbase := 524288, packed := true, chain := [2560], table := (vset ({} : Croft).mtab 5 (2^56+2^55)).toList, steps := 1, walk := 1, len := 1 }
def arg53 : Chain := ⟨[(2560,16)],false,1⟩
def ext23 : Ext := .one (10*2^14)
def cft32 : Croft := {cw with live := {kind := .window}}
def arg54 : MF := ⟨15,0,0,0⟩
def sta45 : State := st {cw with mode := .score, records := vset c0.records 15 (2^61)}
def cft33 : Croft := {cw with mode := .score, records := vset c0.records 15 (2^61)}
def sta46 : State := st {cw with records := vset c0.records 15 (2^61)}
def cft34 : Croft := {cw with records := vset c0.records 15 (2^61)}
def sta47 : State := st {cw with nest := some {kind := .lowr 8, live := {}, fa := 0, fb := 0, abase := 0, bbase := 0, packed := false, chain := [], table := [], steps := 1, len := 1}}
def cft35 : Croft := {cw with nest := some {kind := .lowr 8, live := {}, fa := 0, fb := 0, abase := 0, bbase := 0, packed := false, chain := [], table := [], steps := 1, len := 1}}
def ext24 : Ext := .two (10*2^14) (20*2^14)

/-- GleanerSendAccepted: hypotheses that can be met. -/
theorem test_witness_GleanerSendAccepted :
    Ready (Instr.glsend (⟨0,1⟩ : Tok) arg47 ext20) (⟨0,1⟩ : Tok) sta42 cft29 ∧ cft29.stq = none ∧ Claims.copyRoom cft29 arg47.q ∧
      readMap cft29.sp (64 * (BitVec.toNat ext20.x0 / 2 ^ 14)) = some mp0 ∧ Claims.SpOk cft29 Eng.A (64 * (BitVec.toNat ext20.x0 / 2 ^ 14)) mp0.extent false ∧
      Claims.SpOk cft29 Eng.A mp0.gbase 65536 true ∧
      ((chainWalk cft29.sp (fun (x : Nat) => true) mp0.ks (64 * (BitVec.toNat ext20.x1 / 2 ^ 14))).broken = false) ∧
      (∀ (r : Nat × Nat), r ∈ (chainWalk cft29.sp (fun (x : Nat) => true) mp0.ks (64 * (BitVec.toNat ext20.x1 / 2 ^ 14))).tiles → Claims.SpOk cft29 Eng.A r.fst r.snd false ∧
      1 ≤ hdrTag (cft29.sp.header r.fst) ∧ hdrTag (cft29.sp.header r.fst) ≤ 5) ∧ codeIsMxint mp0.wfmt = conFamB cft29.contract ∧
      Claims.OrderOk cft29 arg47.cls.toNat (64 * (BitVec.toNat ext20.x0 / 2 ^ 14)) mp0.extent ∧
      (∀ (r : Nat × Nat), r ∈ (chainWalk cft29.sp (fun (x : Nat) => true) mp0.ks (64 * (BitVec.toNat ext20.x1 / 2 ^ 14))).tiles → Claims.OrderOk cft29 arg47.cls.toNat r.fst r.snd) :=
  ⟨⟨rfl, by decide, by decide, by decide, by rfl⟩, by first | decide | rfl, ⟨by decide, by decide⟩, by first | decide | rfl, spOk_of (by decide),
    spOk_of (by decide), by first | decide | rfl, List.forall_mem_singleton.2 ⟨spOk_of (by decide), by decide, by decide⟩, by first | decide | rfl,
    orderOk_of (by decide), List.forall_mem_singleton.2 (orderOk_of (by decide))⟩

/-- NestsStart: hypotheses that can be met, clause by clause. -/
theorem test_witness_NestsStart :
    (cw.nest = none ∧ BitVec.toNat cw.contract / 2 ^ 48 ≠ 0 ∧ Ready (Instr.mrunb t0 arg48 (.two 0 (8192*2^14) : Ext)) t0 sta43 cw ∧
      tableOk cw.mtab.toList = true ∧ packOk false cw.mtab.toList = true ∧ (arg48.f.getLsbD 3 = true → cw.live.kind = LiveKind.int32) ∧
      Claims.StepsReadable cw (nestRanges cw.mtab.toList (64 * (BitVec.toNat (.two 0 (8192*2^14) : Ext).x0 / 2 ^ 14)) (64 * (BitVec.toNat (.two 0 (8192*2^14) : Ext).x1 / 2 ^ 14)) 1024 1024) ∧
      arg49 = { kind := NestKind.runb (arg48.f.getLsbD 5) (arg48.f.getLsbD 4), live := cw.live, fa := 0, fb := 0, abase := 64 * (BitVec.toNat (.two 0 (8192*2^14) : Ext).x0 / 2 ^ 14), bbase := 64 * (BitVec.toNat (.two 0 (8192*2^14) : Ext).x1 / 2 ^ 14), packed := false, chain := [], table := cw.mtab.toList, steps := tableSteps cw.mtab.toList, len := Claims.rounds cw.contract (tableSteps cw.mtab.toList) })
    ∧ (cft30.nest = none ∧ BitVec.toNat cft30.contract / 2 ^ 48 ≠ 0 ∧
      Ready (Instr.mlowr t0 (⟨0,0,2,0⟩ : MF) (.two (8192*2^14) 0 : Ext)) t0 (st {cw with armed := some 5} : State) cft30 ∧
      32 = 8 * 2 ^ (⟨0,0,2,0⟩ : MF).n.toNat ∧ ((⟨0,0,2,0⟩ : MF).f.getLsbD 3 = true → cft30.live.kind ≠ LiveKind.int32) ∧
      Claims.StepsReadable cft30 [(some (((64 * (BitVec.toNat (.two (8192*2^14) 0 : Ext).x0 / 2 ^ 14) : Nat) : Int), 128 * 32),
      ((64 * (BitVec.toNat (.two (8192*2^14) 0 : Ext).x1 / 2 ^ 14) : Nat) : Int), 128 * 32)] ∧
      arg50 = { kind := NestKind.lowr 32, live := cft30.live, fa := 1, fb := 1, abase := 64 * (BitVec.toNat (.two (8192*2^14) 0 : Ext).x0 / 2 ^ 14), bbase := 64 * (BitVec.toNat (.two (8192*2^14) 0 : Ext).x1 / 2 ^ 14), packed := false, chain := [], table := [], steps := 1, len := Claims.rounds cft30.contract 1 })
    ∧ (cw.nest = none ∧ BitVec.toNat cw.contract / 2 ^ 48 ≠ 0 ∧ Ready (Instr.mrun t0 (⟨0,0,0,0x20⟩ : MF) ext21) t0 sta43 cw ∧
      cw.mrunOk (⟨0,0,0,0x20⟩ : MF) ext21 = true ∧ BitVec.getLsbD ext21.x0 5 = false ∧
      Claims.StepsReadable cw (nestRanges cw.mtab.toList (64 * (BitVec.toNat ext21.x0 / 2 ^ 14)) (64 * (BitVec.toNat ext21.x1 / 2 ^ 14)) (64 * (opFmt (BitVec.toNat ext21.x0 / 2 ^ 10 % 16)).rowBytes) (64 * (opFmt (BitVec.toNat ext21.x0 / 2 ^ 6 % 16)).rowBytes)) ∧
      arg51 = { kind := NestKind.run ((⟨0,0,0,0x20⟩ : MF).f.getLsbD 5) ((⟨0,0,0,0x20⟩ : MF).f.getLsbD 4), live := cw.live, fa := BitVec.toNat ext21.x0 / 2 ^ 10 % 16, fb := BitVec.toNat ext21.x0 / 2 ^ 6 % 16, abase := 64 * (BitVec.toNat ext21.x0 / 2 ^ 14), bbase := 64 * (BitVec.toNat ext21.x1 / 2 ^ 14), packed := false, chain := [], table := cw.mtab.toList, steps := tableSteps cw.mtab.toList, len := Claims.rounds cw.contract (tableSteps cw.mtab.toList) })
    ∧ (cft31.nest = none ∧ BitVec.toNat cft31.contract / 2 ^ 48 ≠ 0 ∧ Ready (Instr.mrun t0 (⟨0,0,0,8⟩ : MF) ext22) t0 sta44 cft31 ∧
      cft31.mrunOk (⟨0,0,0,8⟩ : MF) ext22 = true ∧ BitVec.getLsbD ext22.x0 5 = true ∧
      (arg53 = chainWalk cft31.sp (fun (g : Nat) => g == BitVec.toNat ext22.x0 / 2 ^ 10 % 16 + 1) (tableSteps cft31.mtab.toList) (64 * (BitVec.toNat ext22.x0 / 2 ^ 14))) ∧
      arg53.broken = false ∧
      Claims.StepsReadable cft31 (packedRanges arg53 cft31.mtab.toList (64 * (BitVec.toNat ext22.x1 / 2 ^ 14)) (64 * (opFmt (BitVec.toNat ext22.x0 / 2 ^ 6 % 16)).rowBytes)) ∧
      (arg52 = { kind := NestKind.run ((⟨0,0,0,8⟩ : MF).f.getLsbD 5) ((⟨0,0,0,8⟩ : MF).f.getLsbD 4), live := cft31.live, fa := BitVec.toNat ext22.x0 / 2 ^ 10 % 16, fb := BitVec.toNat ext22.x0 / 2 ^ 6 % 16, abase := 64 * (BitVec.toNat ext22.x0 / 2 ^ 14), bbase := 64 * (BitVec.toNat ext22.x1 / 2 ^ 14), packed := true, chain := List.map (fun (x : Nat × Nat) => x.fst) arg53.tiles, table := cft31.mtab.toList, steps := tableSteps cft31.mtab.toList, walk := arg53.lines, len := Claims.rounds cft31.contract (tableSteps cft31.mtab.toList) })) :=
  ⟨⟨by first | decide | rfl, by first | decide | rfl, ⟨rfl, by decide, by decide, by decide, by rfl⟩, by first | decide | rfl, by first | decide | rfl,
    by first | decide | rfl, stepsReadable_of (by decide), by first | decide | rfl⟩,
   ⟨by first | decide | rfl, by first | decide | rfl, ⟨rfl, by decide, by decide, by decide, by rfl⟩, by first | decide | rfl, by first | decide | rfl,
     stepsReadable_of (by decide), by first | decide | rfl⟩,
   ⟨by first | decide | rfl, by first | decide | rfl, ⟨rfl, by decide, by decide, by decide, by rfl⟩, by first | decide | rfl, by first | decide | rfl,
     stepsReadable_of (by decide), by first | decide | rfl⟩,
   ⟨by first | decide | rfl, by first | decide | rfl, ⟨rfl, by decide, by decide, by decide, by rfl⟩, by first | decide | rfl, by first | decide | rfl,
     by first | decide | rfl, by first | decide | rfl, stepsReadable_of (by decide), by first | decide | rfl⟩⟩

/-- TileInstructions: hypotheses that can be met, clause by clause. -/
theorem test_witness_TileInstructions :
    (Ready (Instr.mtab t0 (⟨0,0,5,0⟩ : MF) (.two 0x1FFFFFFF 1 : Ext)) t0 sta43 cw)
    ∧ (Ready (Instr.mzero t0 arg48 Ext.none) t0 (st {cw with armed := some 5} : State) cft30 ∧ arg48.f = 0 ∧ cft30.nest = none)
    ∧ (Ready (Instr.mzero t0 (⟨15,0,0,1⟩ : MF) Ext.none) t0 sta43 cw ∧ (⟨15,0,0,1⟩ : MF).f ≠ 0 ∧ cw.heldTile (⟨15,0,0,1⟩ : MF).t.toNat = false)
    ∧ (Ready (Instr.mdrain (⟨0,1⟩ : Tok) (⟨1,0,0,1⟩ : MF) Ext.none) (⟨0,1⟩ : Tok) sta43 cw ∧ cw.nest = none ∧ cw.heldTile (⟨1,0,0,1⟩ : MF).t.toNat = false)
    ∧ (Ready (Instr.mjoin (⟨0,1⟩ : Tok) (⟨1,0,0,0⟩ : MF) ext23) (⟨0,1⟩ : Tok) (st {cw with live := {kind := .window}} : State) cft32 ∧ cft32.nest = none ∧
      cft32.heldTile (⟨1,0,0,0⟩ : MF).t.toNat = false ∧
      (∀ (p : Pending), p ∈ cft32.inFlight → ∀ (a : Nat) (b : List Byte) (r : List Word64), p.op ≠ LandOp.map a b r) ∧ cft32.live.kind = LiveKind.window ∧
      readMap cft32.sp (64 * (BitVec.toNat ext23.x0 / 2 ^ 14)) = some mp0 ∧ Claims.SpOk cft32 Eng.M (64 * (BitVec.toNat ext23.x0 / 2 ^ 14)) mp0.extent false ∧
      Claims.SpOk cft32 Eng.M mp0.gbase 65536 false ∧ partialGen (cft32.sp.le mp0.gbase 16) = mp0.gen)
    ∧ (Ready (Instr.mrec t0 arg54 Ext.none) t0 sta43 cw ∧ cw.qr.length + cw.pendR < 16 ∧
      (∀ (p : Pending), p ∈ cw.inFlight → ∀ (a : Nat) (b : List Byte) (r : Word64) (rs : List Word64), p.op ≠ LandOp.map a b (r :: rs)))
    ∧ (Ready (Instr.mreplay t0 arg54 Ext.none) t0 sta45 cft33 ∧ cft33.mode = Mode.score ∧ Claims.Governs cft33.contract (vget cft33.records 0 arg54.t.toNat))
    ∧ (Ready (Instr.mreplay t0 arg54 Ext.none) t0 sta46 cft34 ∧
      (cft34.mode = Mode.fixed ∨ ¬Claims.Governs cft34.contract (vget cft34.records 0 arg54.t.toNat))) :=
  ⟨⟨rfl, by decide, by decide, by decide, by rfl⟩,
   ⟨⟨rfl, by decide, by decide, by decide, by rfl⟩, by first | decide | rfl, by first | decide | rfl⟩,
   ⟨⟨rfl, by decide, by decide, by decide, by rfl⟩, by first | decide | rfl, by first | decide | rfl⟩,
   ⟨⟨rfl, by decide, by decide, by decide, by rfl⟩, by first | decide | rfl, by first | decide | rfl⟩,
   ⟨⟨rfl, by decide, by decide, by decide, by rfl⟩, by first | decide | rfl, by first | decide | rfl,
     (fun p h => absurd (show p ∈ ([] : List Pending) from h) List.not_mem_nil), by first | decide | rfl, by first | decide | rfl, spOk_of (by decide),
     spOk_of (by decide), by first | decide | rfl⟩,
   ⟨⟨rfl, by decide, by decide, by decide, by rfl⟩, by first | decide | rfl, (fun p h => absurd (show p ∈ ([] : List Pending) from h) List.not_mem_nil)⟩,
   ⟨⟨rfl, by decide, by decide, by decide, by rfl⟩, by first | decide | rfl, by unfold Claims.Governs; decide⟩,
   ⟨⟨rfl, by decide, by decide, by decide, by rfl⟩, by first | exact .inl (by decide) | exact .inr (by unfold Claims.Governs; decide)⟩⟩

/-- LiveTileBusy: hypotheses that can be met. -/
theorem test_witness_LiveTileBusy :
    ((.mdrain t0 ⟨1,0,0,0⟩ .none : Instr) = Instr.mdrain t0 (⟨1,0,0,0⟩ : MF) Ext.none ∨ (.mdrain t0 ⟨1,0,0,0⟩ .none : Instr) = Instr.mjoin t0 (⟨1,0,0,0⟩ : MF) Ext.none ∨ (.mdrain t0 ⟨1,0,0,0⟩ .none : Instr) = Instr.mzero t0 (⟨1,0,0,0⟩ : MF) Ext.none ∧
      (⟨1,0,0,0⟩ : MF).f = 0) ∧ Ready (.mdrain t0 ⟨1,0,0,0⟩ .none : Instr) t0 sta47 cft35 ∧ cft35.nest ≠ none :=
  ⟨by first | decide | rfl, ⟨rfl, by decide, by decide, by decide, by rfl⟩, by first | decide | rfl⟩

/-- MapInstructions: hypotheses that can be met, clause by clause. -/
theorem test_witness_MapInstructions :
    ((∀ (p : Pending), p ∈ cw.inFlight → ∀ (a : Nat) (b : List Byte) (r : List Word64), p.op ≠ LandOp.map a b r) ∧
      readMap cw.sp (64 * (BitVec.toNat ext24.x0 / 2 ^ 14)) = some mp0 ∧ Claims.SpOk cw Eng.M (64 * (BitVec.toNat ext24.x0 / 2 ^ 14)) mp0.extent true ∧
      1280 = 64 * (BitVec.toNat ext24.x1 / 2 ^ 14) ∧ Ready (Instr.mfire t0 arg48 ext24) t0 sta43 cw ∧
      fireVector cw.sp 1280 mp0.nrows = some (⟨1,[⟨7,2⟩]⟩ : VReg) ∧ Claims.SpOk cw Eng.M 1280 (fireLen cw.sp 1280) false)
    ∧ ((∀ (p : Pending), p ∈ cw.inFlight → ∀ (a : Nat) (b : List Byte) (r : List Word64), p.op ≠ LandOp.map a b r) ∧
      readMap cw.sp (64 * (BitVec.toNat ext23.x0 / 2 ^ 14)) = some mp0 ∧ Claims.SpOk cw Eng.M (64 * (BitVec.toNat ext23.x0 / 2 ^ 14)) mp0.extent true ∧
      Ready (Instr.mage t0 arg48 ext23) t0 sta43 cw)
    ∧ ((∀ (p : Pending), p ∈ ({cw with qr := []} : Croft).inFlight → ∀ (a : Nat) (b : List Byte) (r : List Word64), p.op ≠ LandOp.map a b r) ∧
      readMap ({cw with qr := []} : Croft).sp (64 * (BitVec.toNat (.two (10*2^14) (2*2^15) : Ext).x0 / 2 ^ 14)) = some mp0 ∧
      Claims.SpOk ({cw with qr := []} : Croft) Eng.M (64 * (BitVec.toNat (.two (10*2^14) (2*2^15) : Ext).x0 / 2 ^ 14)) mp0.extent true) :=
  ⟨⟨(fun p h => absurd (show p ∈ ([] : List Pending) from h) List.not_mem_nil), by first | decide | rfl, spOk_of (by decide), by first | decide | rfl, ⟨rfl,
    by decide, by decide, by decide, by rfl⟩, by first | decide | rfl, spOk_of (by decide)⟩,
   ⟨(fun p h => absurd (show p ∈ ([] : List Pending) from h) List.not_mem_nil), by first | decide | rfl, spOk_of (by decide), ⟨rfl, by decide, by decide,
     by decide, by rfl⟩⟩,
   ⟨(fun p h => absurd (show p ∈ ([] : List Pending) from h) List.not_mem_nil), by first | decide | rfl, spOk_of (by decide)⟩⟩

end W4

/-! ### Witnesses, part 5 -/

namespace W5

def okOf (e : Except VErr VRes) : VRes := match e with | .ok r => r | _ => ⟨⟨99,[]⟩, none, 0⟩
theorem okOf_eq {e : Except VErr VRes} (h : (match e with | .ok _ => true | _ => false) = true) : e = .ok (okOf e) := by cases e <;> first | rfl | exact nomatch h
def cvb : Croft := { c0 with v := vset c0.v 1 ⟨8, (List.range 65).map fun i => ⟨BitVec.ofNat 32 i, 1⟩⟩ }
def cvi : Croft := { cv with v := vset cv.v 6 ⟨8, [⟨9, 2⟩]⟩ }

def arg55 : VF := ⟨5,1,2,false⟩
def arg56 : VF := ⟨5,1,3,false⟩
def arg57 : VF := ⟨5,1,0,false⟩
def arg58 : VReg := vget cv.v {} 1
def arg59 : VReg := Claims.source cv false 1
def arg60 : VReg := Claims.source cv false 2
def arg61 : VReg := Claims.source cvb false 1
def arg62 : VReg := Claims.source cvb false 2
def arg63 : VReg := Claims.source cv false 3
def ext25 : Ext := .two 0 1
def arg64 : VReg := Claims.source cv false 0
def arg65 : VF := ⟨5,1,6,false⟩
def arg66 : VReg := Claims.source cvi false 1
def arg67 : VReg := Claims.source cvi false 6
def ext26 : Ext := .one 0x4000000
def arg68 : VReg := Claims.source cv false 4
def arg69 : VF := ⟨5,1,1,false⟩
def arg70 : VF := ⟨5,4,4,false⟩
def ext27 : Ext := .two 0x4000000 31
def arg71 : VF := ⟨5,3,0,false⟩
def ext28 : Ext := .one (4*2^24+0*2^14)
def arg72 : VReg := vget cv.v {} 2
def arg73 : VReg := vget cv.v {} 4
def arg74 : VRes := okOf (vaddValue ⟨5,1,2,false⟩ (.one (4*2^24+0*2^14)) cv)
def arg75 : VRes := okOf (vsubValue ⟨5,1,2,false⟩ (.one (4*2^24+0*2^14)) cv)
def arg76 : VRes := okOf (vmulValue ⟨5,1,2,false⟩ (.one (4*2^24+0*2^14)) cv)
def arg77 : VRes := okOf (vcmpValue ⟨5,1,2,false⟩ (.one (4*2^24+0*2^14)) cv)
def arg78 : VRes := okOf (vselValue ⟨5,1,2,false⟩ (.one (4*2^24+0*2^14)) cv)

/-- VectorInstructions: hypotheses that can be met, clause by clause. -/
theorem test_witness_VectorInstructions :
    ((Claims.vector (.vadd t0 ⟨5,1,2,false⟩ .none : Instr) = some (t0, arg55, Ext.none, 8, 32, (vaddValue ⟨5,1,2,false⟩ .none : Croft → Except VErr VRes))) ∧
      Ready (.vadd t0 ⟨5,1,2,false⟩ .none : Instr) t0 (st cv : State) cv)
    ∧ ((Claims.vector (.vadd t0 ⟨5,1,3,false⟩ .none : Instr) = some (t0, arg56, Ext.none, 8, 32,
      (vaddValue ⟨5,1,3,false⟩ .none : Croft → Except VErr VRes))) ∧ Ready (.vadd t0 ⟨5,1,3,false⟩ .none : Instr) t0 (st cv : State) cv) :=
  ⟨⟨by first | decide | rfl, ⟨rfl, by decide, by decide, by decide, by rfl⟩⟩,
   ⟨by first | decide | rfl, ⟨rfl, by decide, by decide, by decide, by rfl⟩⟩⟩

/-- RunsActElementwise: hypotheses that can be met, clause by clause. -/
theorem test_witness_RunsActElementwise :
    ((∀ (u : VReg), u ∈ arg58 :: ([(vget cv.v {} 2)] : List VReg) → Claims.RunsOk u) ∧
      ((∀ (u : VReg), u ∈ ([(vget cv.v {} 2)] : List VReg) → u.len = arg58.len ∧ u.tag = arg58.tag) ∧ (· == 8 : Nat → Bool) arg58.tag = true) ∧
      (Claims.runCount (List.map (fun (i : Nat) => BitVec.ofNat 32 ((fun (k : Nat) => (fun _ l => ((l.map (·.toNat)).sum, 0) : Nat → List (BitVec 32) → Nat × Flags) arg58.tag (List.map (fun (u : VReg) => (elems u.runs).getD k 0) (arg58 :: ([(vget cv.v {} 2)] : List VReg)))) i).fst) (List.range arg58.len)) ≤ Claims.limit false))
    ∧ ((∀ (u : VReg), u ∈ arg58 :: ([vget cv.v {} 3] : List VReg) → Claims.RunsOk u) ∧
      (¬((∀ (u : VReg), u ∈ ([vget cv.v {} 3] : List VReg) → u.len = arg58.len ∧ u.tag = arg58.tag) ∧ (· == 8 : Nat → Bool) arg58.tag = true)))
    ∧ ((∀ (u : VReg), u ∈ (vget cvb.v {} 1 : VReg) :: ([] : List VReg) → Claims.RunsOk u) ∧
      ((∀ (u : VReg), u ∈ ([] : List VReg) → u.len = (vget cvb.v {} 1 : VReg).len ∧ u.tag = (vget cvb.v {} 1 : VReg).tag) ∧
      (· == 8 : Nat → Bool) (vget cvb.v {} 1 : VReg).tag = true) ∧
      (Claims.limit false < Claims.runCount (List.map (fun (i : Nat) => BitVec.ofNat 32 ((fun (k : Nat) => (fun _ l => ((l.map (·.toNat)).sum, 0) : Nat → List (BitVec 32) → Nat × Flags) (vget cvb.v {} 1 : VReg).tag (List.map (fun (u : VReg) => (elems u.runs).getD k 0) ((vget cvb.v {} 1 : VReg) :: ([] : List VReg)))) i).fst) (List.range (vget cvb.v {} 1 : VReg).len)))) :=
  ⟨⟨by unfold Claims.RunsOk; decide, by first | decide | rfl, by first | decide | rfl⟩,
   ⟨by unfold Claims.RunsOk; decide, by first | decide | rfl⟩,
   ⟨by unfold Claims.RunsOk; decide, by first | decide | rfl, by first | decide | rfl⟩⟩

/-- VectorMoves: hypotheses that can be met, clause by clause. -/
theorem test_witness_VectorMoves :
    (arg59 = Claims.source cv arg55.w arg55.a.toNat ∧ arg60 = Claims.source cv arg55.w arg55.b.toNat ∧ Claims.RunsOk arg59 ∧ Claims.RunsOk arg60 ∧
      Claims.Readable cv arg55.w arg55.a.toNat)
    ∧ (arg59 = Claims.source cv arg55.w arg55.a.toNat ∧ arg60 = Claims.source cv arg55.w arg55.b.toNat ∧ Claims.RunsOk arg59 ∧ Claims.RunsOk arg60 ∧
      Claims.Readable cv arg55.w arg55.a.toNat)
    ∧ (arg59 = Claims.source cv arg55.w arg55.a.toNat ∧ arg60 = Claims.source cv arg55.w arg55.b.toNat ∧ Claims.RunsOk arg59 ∧ Claims.RunsOk arg60 ∧
      Claims.Readable cv arg55.w arg55.a.toNat ∧
      Claims.runCount (List.take (.two 0 2 : Ext).imm32.toNat (elems arg59.runs) ++ List.replicate ((.two 0 2 : Ext).imm32.toNat - arg59.len) 0) ≤ Claims.limit arg55.w)
    ∧ (arg61 = Claims.source cvb arg55.w arg55.a.toNat ∧ arg62 = Claims.source cvb arg55.w arg55.b.toNat ∧ Claims.RunsOk arg61 ∧ Claims.RunsOk arg62 ∧
      Claims.Readable cvb arg55.w arg55.a.toNat ∧
      Claims.limit arg55.w < Claims.runCount (List.take (.two 0 90 : Ext).imm32.toNat (elems arg61.runs) ++ List.replicate ((.two 0 90 : Ext).imm32.toNat - arg61.len) 0))
    ∧ (arg59 = Claims.source cv arg55.w arg55.a.toNat ∧ arg60 = Claims.source cv arg55.w arg55.b.toNat ∧ Claims.RunsOk arg59 ∧ Claims.RunsOk arg60 ∧
      (Claims.Readable cv arg55.w arg55.a.toNat ∧ Claims.Readable cv arg55.w arg55.b.toNat ∧ arg59.tag = arg60.tag ∧ arg59.len + arg60.len ≤ 4096) ∧
      Claims.runCount (elems arg59.runs ++ elems arg60.runs) ≤ Claims.limit arg55.w)
    ∧ (arg59 = Claims.source cv arg56.w arg56.a.toNat ∧ arg63 = Claims.source cv arg56.w arg56.b.toNat ∧ Claims.RunsOk arg59 ∧ Claims.RunsOk arg63 ∧
      (¬(Claims.Readable cv arg56.w arg56.a.toNat ∧ Claims.Readable cv arg56.w arg56.b.toNat ∧ arg59.tag = arg63.tag ∧ arg59.len + arg63.len ≤ 4096)))
    ∧ (arg59 = Claims.source cv arg55.w arg55.a.toNat ∧ arg60 = Claims.source cv arg55.w arg55.b.toNat ∧ Claims.RunsOk arg59 ∧ Claims.RunsOk arg60 ∧
      (Claims.Readable cv arg55.w arg55.a.toNat ∧
      (.two 0 (1+2*2^16) : Ext).imm32.toNat % 2 ^ 13 + (.two 0 (1+2*2^16) : Ext).imm32.toNat / 2 ^ 16 % 2 ^ 13 ≤ arg59.len) ∧
      Claims.runsIn arg59 ((.two 0 (1+2*2^16) : Ext).imm32.toNat % 2 ^ 13) ((.two 0 (1+2*2^16) : Ext).imm32.toNat % 2 ^ 13 + (.two 0 (1+2*2^16) : Ext).imm32.toNat / 2 ^ 16 % 2 ^ 13) ≤ Claims.limit arg55.w)
    ∧ (arg59 = Claims.source cv arg55.w arg55.a.toNat ∧ arg60 = Claims.source cv arg55.w arg55.b.toNat ∧ Claims.RunsOk arg59 ∧ Claims.RunsOk arg60 ∧
      (¬(Claims.Readable cv arg55.w arg55.a.toNat ∧
      (.two 0 (2+2*2^16) : Ext).imm32.toNat % 2 ^ 13 + (.two 0 (2+2*2^16) : Ext).imm32.toNat / 2 ^ 16 % 2 ^ 13 ≤ arg59.len)))
    ∧ (arg61 = Claims.source cvb arg55.w arg55.a.toNat ∧ arg62 = Claims.source cvb arg55.w arg55.b.toNat ∧ Claims.RunsOk arg61 ∧ Claims.RunsOk arg62 ∧
      (Claims.Readable cvb arg55.w arg55.a.toNat ∧
      (.two 0 (65*2^16) : Ext).imm32.toNat % 2 ^ 13 + (.two 0 (65*2^16) : Ext).imm32.toNat / 2 ^ 16 % 2 ^ 13 ≤ arg61.len) ∧
      Claims.limit arg55.w < Claims.runsIn arg61 ((.two 0 (65*2^16) : Ext).imm32.toNat % 2 ^ 13) ((.two 0 (65*2^16) : Ext).imm32.toNat % 2 ^ 13 + (.two 0 (65*2^16) : Ext).imm32.toNat / 2 ^ 16 % 2 ^ 13))
    ∧ (arg59 = Claims.source cv arg55.w arg55.a.toNat ∧ arg60 = Claims.source cv arg55.w arg55.b.toNat ∧ Claims.RunsOk arg59 ∧ Claims.RunsOk arg60 ∧
      (Claims.Readable cv arg55.w arg55.a.toNat ∧ ext25.imm32.toNat < arg59.len) ∧
      Claims.runCount [(elems arg59.runs).getD ext25.imm32.toNat 0] ≤ Claims.limit arg55.w)
    ∧ (arg59 = Claims.source cv arg55.w arg55.a.toNat ∧ arg60 = Claims.source cv arg55.w arg55.b.toNat ∧ Claims.RunsOk arg59 ∧ Claims.RunsOk arg60 ∧
      (¬(Claims.Readable cv arg55.w arg55.a.toNat ∧ (.two 0 3 : Ext).imm32.toNat < arg59.len)))
    ∧ (arg59 = Claims.source cv arg57.w arg57.a.toNat ∧ arg64 = Claims.source cv arg57.w arg57.b.toNat ∧ Claims.RunsOk arg59 ∧ Claims.RunsOk arg64 ∧
      (¬(Claims.Readable cv arg57.w arg57.a.toNat ∧ Claims.Readable cv arg57.w arg57.b.toNat ∧ ext25.imm32.toNat + arg64.len ≤ arg59.len ∧
      arg59.tag = arg64.tag)))
    ∧ (arg66 = Claims.source cvi arg65.w arg65.a.toNat ∧ arg67 = Claims.source cvi arg65.w arg65.b.toNat ∧ Claims.RunsOk arg66 ∧ Claims.RunsOk arg67 ∧
      (Claims.Readable cvi arg65.w arg65.a.toNat ∧ Claims.Readable cvi arg65.w arg65.b.toNat ∧ ext25.imm32.toNat + arg67.len ≤ arg66.len ∧
      arg66.tag = arg67.tag) ∧
      Claims.runsIn arg66 0 ext25.imm32.toNat + arg67.runs.length + Claims.runsIn arg66 (ext25.imm32.toNat + arg67.len) arg66.len ≤ Claims.limit arg65.w)
    ∧ (arg59 = Claims.source cv arg55.w arg55.a.toNat ∧ arg60 = Claims.source cv arg55.w arg55.b.toNat ∧ Claims.RunsOk arg59 ∧ Claims.RunsOk arg60 ∧
      Claims.Readable cv arg55.w arg55.a.toNat ∧ Claims.runCount (List.replicate arg59.len (.two 0x600000 200 : Ext).imm32) ≤ Claims.limit arg55.w)
    ∧ (arg59 = Claims.source cv arg55.w arg55.a.toNat ∧ arg60 = Claims.source cv arg55.w arg55.b.toNat ∧ Claims.RunsOk arg59 ∧ Claims.RunsOk arg60 ∧
      Claims.Readable cv arg55.w arg55.a.toNat ∧
      (Claims.runCount (List.map (fun (j : Nat) => BitVec.ofNat 32 (((.two 0x600000 254 : Ext).imm32.toNat + j) % 2 ^ tagWidth (BitVec.toNat (.two 0x600000 254 : Ext).x0 / 2 ^ 20 % 16))) (List.range arg59.len)) ≤ Claims.limit arg55.w))
    ∧ (arg59 = Claims.source cv arg55.w arg55.a.toNat ∧ arg60 = Claims.source cv arg55.w arg55.b.toNat ∧ Claims.RunsOk arg59 ∧ Claims.RunsOk arg60 ∧
      Claims.Readable cv arg55.w arg55.a.toNat ∧ Claims.runCount [BitVec.ofNat 32 arg59.runs.length, BitVec.ofNat 32 arg59.len] ≤ Claims.limit arg55.w) :=
  ⟨⟨by first | decide | rfl, by first | decide | rfl, by unfold Claims.RunsOk; decide, by unfold Claims.RunsOk; decide, by simp only [readable_iff]; decide⟩,
   ⟨by first | decide | rfl, by first | decide | rfl, by unfold Claims.RunsOk; decide, by unfold Claims.RunsOk; decide, by simp only [readable_iff]; decide⟩,
   ⟨by first | decide | rfl, by first | decide | rfl, by unfold Claims.RunsOk; decide, by unfold Claims.RunsOk; decide, by simp only [readable_iff]; decide,
     by first | decide | rfl⟩,
   ⟨by first | decide | rfl, by first | decide | rfl, by unfold Claims.RunsOk; decide, by unfold Claims.RunsOk; decide, by simp only [readable_iff]; decide,
     by first | decide | rfl⟩,
   ⟨by first | decide | rfl, by first | decide | rfl, by unfold Claims.RunsOk; decide, by unfold Claims.RunsOk; decide, by simp only [readable_iff]; decide,
     by first | decide | rfl⟩,
   ⟨by first | decide | rfl, by first | decide | rfl, by unfold Claims.RunsOk; decide, by unfold Claims.RunsOk; decide, by simp only [readable_iff]; decide⟩,
   ⟨by first | decide | rfl, by first | decide | rfl, by unfold Claims.RunsOk; decide, by unfold Claims.RunsOk; decide, by simp only [readable_iff]; decide,
     by first | decide | rfl⟩,
   ⟨by first | decide | rfl, by first | decide | rfl, by unfold Claims.RunsOk; decide, by unfold Claims.RunsOk; decide, by simp only [readable_iff]; decide⟩,
   ⟨by first | decide | rfl, by first | decide | rfl, by unfold Claims.RunsOk; decide, by unfold Claims.RunsOk; decide, by simp only [readable_iff]; decide,
     by first | decide | rfl⟩,
   ⟨by first | decide | rfl, by first | decide | rfl, by unfold Claims.RunsOk; decide, by unfold Claims.RunsOk; decide, by simp only [readable_iff]; decide,
     by first | decide | rfl⟩,
   ⟨by first | decide | rfl, by first | decide | rfl, by unfold Claims.RunsOk; decide, by unfold Claims.RunsOk; decide, by simp only [readable_iff]; decide⟩,
   ⟨by first | decide | rfl, by first | decide | rfl, by unfold Claims.RunsOk; decide, by unfold Claims.RunsOk; decide, by simp only [readable_iff]; decide⟩,
   ⟨by first | decide | rfl, by first | decide | rfl, by unfold Claims.RunsOk; decide, by unfold Claims.RunsOk; decide, by simp only [readable_iff]; decide,
     by first | decide | rfl⟩,
   ⟨by first | decide | rfl, by first | decide | rfl, by unfold Claims.RunsOk; decide, by unfold Claims.RunsOk; decide, by simp only [readable_iff]; decide,
     by first | decide | rfl⟩,
   ⟨by first | decide | rfl, by first | decide | rfl, by unfold Claims.RunsOk; decide, by unfold Claims.RunsOk; decide, by simp only [readable_iff]; decide,
     by first | decide | rfl⟩,
   ⟨by first | decide | rfl, by first | decide | rfl, by unfold Claims.RunsOk; decide, by unfold Claims.RunsOk; decide, by simp only [readable_iff]; decide,
     by first | decide | rfl⟩⟩

/-- VectorArithmetic: hypotheses that can be met, clause by clause. -/
theorem test_witness_VectorArithmetic :
    (arg59 = Claims.source cv arg56.w arg56.a.toNat ∧ arg63 = Claims.source cv arg56.w arg56.b.toNat ∧
      arg68 = Claims.source cv arg56.w (BitVec.toNat ext26.x0 / 2 ^ 24 % 32) ∧ Claims.RunsOk arg59 ∧ Claims.RunsOk arg63 ∧ Claims.RunsOk arg68 ∧
      (¬((Claims.Readable cv arg56.w arg56.a.toNat ∧ Claims.Readable cv arg56.w arg56.b.toNat ∧ arg63.len = arg59.len ∧ arg63.tag = arg59.tag) ∧
      arg59.tag ≤ 11)))
    ∧ (arg68 = Claims.source cv arg70.w arg70.a.toNat ∧ arg68 = Claims.source cv arg70.w arg70.b.toNat ∧
      arg68 = Claims.source cv arg70.w (BitVec.toNat ext26.x0 / 2 ^ 24 % 32) ∧ Claims.RunsOk arg68 ∧ Claims.RunsOk arg68 ∧ Claims.RunsOk arg68 ∧
      (¬(Claims.Readable cv arg70.w arg70.a.toNat ∧ arg68.tag ≤ 11)))
    ∧ (arg59 = Claims.source cv arg57.w arg57.a.toNat ∧ arg64 = Claims.source cv arg57.w arg57.b.toNat ∧
      arg68 = Claims.source cv arg57.w (BitVec.toNat ext27.x0 / 2 ^ 24 % 32) ∧ Claims.RunsOk arg59 ∧ Claims.RunsOk arg64 ∧ Claims.RunsOk arg68 ∧
      (arg57.b = 0 ∧ ext27.count = 2) ∧ (Claims.Readable cv arg57.w arg57.a.toNat ∧ tagInt arg59.tag = true) ∧
      (Claims.runCount (List.map (fun (i : Nat) => BitVec.ofNat 32 ((fun (n i : Nat) => (Claims.nth arg59 i * 2 ^ n % 2 ^ tagWidth arg59.tag, 0)) ext27.imm32.toNat i).fst) (List.range arg59.len)) ≤ Claims.limit arg57.w))
    ∧ (arg59 = Claims.source cv arg57.w arg57.a.toNat ∧ arg64 = Claims.source cv arg57.w arg57.b.toNat ∧
      arg68 = Claims.source cv arg57.w (BitVec.toNat ext27.x0 / 2 ^ 24 % 32) ∧ Claims.RunsOk arg59 ∧ Claims.RunsOk arg64 ∧ Claims.RunsOk arg68 ∧
      (arg57.b = 0 ∧ ext27.count = 2) ∧ (Claims.Readable cv arg57.w arg57.a.toNat ∧ tagInt arg59.tag = true) ∧
      (Claims.runCount (List.map (fun (i : Nat) => BitVec.ofNat 32 ((fun (n i : Nat) => (((fun (i : Nat) => tagIntVal arg59.tag (Claims.nth arg59 i)) i / 2 ^ n % 2 ^ tagWidth arg59.tag).toNat, 0)) ext27.imm32.toNat i).fst) (List.range arg59.len)) ≤ Claims.limit arg57.w))
    ∧ (arg63 = Claims.source cv arg71.w arg71.a.toNat ∧ arg64 = Claims.source cv arg71.w arg71.b.toNat ∧
      arg68 = Claims.source cv arg71.w (BitVec.toNat ext27.x0 / 2 ^ 24 % 32) ∧ Claims.RunsOk arg63 ∧ Claims.RunsOk arg64 ∧ Claims.RunsOk arg68 ∧
      (arg71.b = 0 ∧ ext27.count = 2) ∧ (¬(Claims.Readable cv arg71.w arg71.a.toNat ∧ tagInt arg63.tag = true)))
    ∧ (arg59 = Claims.source cv arg69.w arg69.a.toNat ∧ arg59 = Claims.source cv arg69.w arg69.b.toNat ∧
      arg68 = Claims.source cv arg69.w (BitVec.toNat ext26.x0 / 2 ^ 24 % 32) ∧ Claims.RunsOk arg59 ∧ Claims.RunsOk arg59 ∧ Claims.RunsOk arg68 ∧
      (¬(arg69.b = 0 ∧ ext26.count = 2)) ∧ ((Claims.Readable cv arg69.w arg69.a.toNat ∧ Claims.Readable cv arg69.w arg69.b.toNat ∧ arg59.len = arg59.len ∧
      arg59.tag = arg59.tag) ∧ tagInt arg59.tag = true) ∧
      (Claims.runCount (List.map (fun (i : Nat) => BitVec.ofNat 32 ((fun (i : Nat) => (fun (n i : Nat) => (Claims.nth arg59 i * 2 ^ n % 2 ^ tagWidth arg59.tag, 0)) (Claims.nth arg59 i) i) i).fst) (List.range arg59.len)) ≤ Claims.limit arg69.w))
    ∧ (arg59 = Claims.source cv arg69.w arg69.a.toNat ∧ arg59 = Claims.source cv arg69.w arg69.b.toNat ∧
      arg68 = Claims.source cv arg69.w (BitVec.toNat ext26.x0 / 2 ^ 24 % 32) ∧ Claims.RunsOk arg59 ∧ Claims.RunsOk arg59 ∧ Claims.RunsOk arg68 ∧
      (¬(arg69.b = 0 ∧ ext26.count = 2)) ∧ ((Claims.Readable cv arg69.w arg69.a.toNat ∧ Claims.Readable cv arg69.w arg69.b.toNat ∧ arg59.len = arg59.len ∧
      arg59.tag = arg59.tag) ∧ tagInt arg59.tag = true) ∧
      (Claims.runCount (List.map (fun (i : Nat) => BitVec.ofNat 32 ((fun (i : Nat) => (fun (n i : Nat) => (((fun (i : Nat) => tagIntVal arg59.tag (Claims.nth arg59 i)) i / 2 ^ n % 2 ^ tagWidth arg59.tag).toNat, 0)) (Claims.nth arg59 i) i) i).fst) (List.range arg59.len)) ≤ Claims.limit arg69.w))
    ∧ (arg59 = Claims.source cv arg55.w arg55.a.toNat ∧ arg60 = Claims.source cv arg55.w arg55.b.toNat ∧
      arg68 = Claims.source cv arg55.w (BitVec.toNat ext26.x0 / 2 ^ 24 % 32) ∧ Claims.RunsOk arg59 ∧ Claims.RunsOk arg60 ∧ Claims.RunsOk arg68 ∧
      ((Claims.Readable cv arg55.w arg55.a.toNat ∧ Claims.Readable cv arg55.w arg55.b.toNat ∧ arg60.len = arg59.len ∧ arg60.tag = arg59.tag) ∧
      arg59.tag ≤ 11) ∧
      (Claims.runCount (List.map (fun (i : Nat) => BitVec.ofNat 32 ((fun (i : Nat) => (Claims.least false arg59.tag (Claims.nth arg59 i) (Claims.nth arg60 i), 0)) i).fst) (List.range arg59.len)) ≤ Claims.limit arg55.w))
    ∧ (arg59 = Claims.source cv arg55.w arg55.a.toNat ∧ arg60 = Claims.source cv arg55.w arg55.b.toNat ∧
      arg68 = Claims.source cv arg55.w (BitVec.toNat ext26.x0 / 2 ^ 24 % 32) ∧ Claims.RunsOk arg59 ∧ Claims.RunsOk arg60 ∧ Claims.RunsOk arg68 ∧
      ((Claims.Readable cv arg55.w arg55.a.toNat ∧ Claims.Readable cv arg55.w arg55.b.toNat ∧ arg60.len = arg59.len ∧ arg60.tag = arg59.tag) ∧
      arg59.tag ≤ 11) ∧
      (Claims.runCount (List.map (fun (i : Nat) => BitVec.ofNat 32 ((fun (i : Nat) => (Claims.least true arg59.tag (Claims.nth arg59 i) (Claims.nth arg60 i), 0)) i).fst) (List.range arg59.len)) ≤ Claims.limit arg55.w))
    ∧ (arg59 = Claims.source cv arg55.w arg55.a.toNat ∧ arg60 = Claims.source cv arg55.w arg55.b.toNat ∧
      arg68 = Claims.source cv arg55.w (BitVec.toNat ext26.x0 / 2 ^ 24 % 32) ∧ Claims.RunsOk arg59 ∧ Claims.RunsOk arg60 ∧ Claims.RunsOk arg68 ∧
      (Claims.Readable cv arg55.w arg55.a.toNat ∧ Claims.Readable cv arg55.w arg55.b.toNat ∧ arg60.len = arg59.len ∧ arg60.tag = arg59.tag) ∧
      (Claims.runCount (List.map (fun (i : Nat) => BitVec.ofNat 32 ((fun (i : Nat) => ((Claims.nth arg59 i &&& Claims.nth arg60 i) % 2 ^ tagWidth arg59.tag, 0)) i).fst) (List.range arg59.len)) ≤ Claims.limit arg55.w))
    ∧ (arg59 = Claims.source cv arg55.w arg55.a.toNat ∧ arg60 = Claims.source cv arg55.w arg55.b.toNat ∧
      arg68 = Claims.source cv arg55.w (BitVec.toNat ext26.x0 / 2 ^ 24 % 32) ∧ Claims.RunsOk arg59 ∧ Claims.RunsOk arg60 ∧ Claims.RunsOk arg68 ∧
      (Claims.Readable cv arg55.w arg55.a.toNat ∧ Claims.Readable cv arg55.w arg55.b.toNat ∧ arg60.len = arg59.len ∧ arg60.tag = arg59.tag) ∧
      (Claims.runCount (List.map (fun (i : Nat) => BitVec.ofNat 32 ((fun (i : Nat) => ((Claims.nth arg59 i ||| Claims.nth arg60 i) % 2 ^ tagWidth arg59.tag, 0)) i).fst) (List.range arg59.len)) ≤ Claims.limit arg55.w))
    ∧ (arg59 = Claims.source cv arg55.w arg55.a.toNat ∧ arg60 = Claims.source cv arg55.w arg55.b.toNat ∧
      arg68 = Claims.source cv arg55.w (BitVec.toNat ext26.x0 / 2 ^ 24 % 32) ∧ Claims.RunsOk arg59 ∧ Claims.RunsOk arg60 ∧ Claims.RunsOk arg68 ∧
      (Claims.Readable cv arg55.w arg55.a.toNat ∧ Claims.Readable cv arg55.w arg55.b.toNat ∧ arg60.len = arg59.len ∧ arg60.tag = arg59.tag) ∧
      (Claims.runCount (List.map (fun (i : Nat) => BitVec.ofNat 32 ((fun (i : Nat) => ((Claims.nth arg59 i ^^^ Claims.nth arg60 i) % 2 ^ tagWidth arg59.tag, 0)) i).fst) (List.range arg59.len)) ≤ Claims.limit arg55.w))
    ∧ (arg59 = Claims.source cv arg55.w arg55.a.toNat ∧ arg60 = Claims.source cv arg55.w arg55.b.toNat ∧
      arg68 = Claims.source cv arg55.w (BitVec.toNat ext26.x0 / 2 ^ 24 % 32) ∧ Claims.RunsOk arg59 ∧ Claims.RunsOk arg60 ∧ Claims.RunsOk arg68 ∧
      Claims.Readable cv arg55.w arg55.a.toNat ∧
      (Claims.runCount (List.map (fun (i : Nat) => BitVec.ofNat 32 ((fun (i : Nat) => (2 ^ tagWidth arg59.tag - 1 - Claims.nth arg59 i % 2 ^ tagWidth arg59.tag, 0)) i).fst) (List.range arg59.len)) ≤ Claims.limit arg55.w))
    ∧ (arg59 = Claims.source cv arg55.w arg55.a.toNat ∧ arg60 = Claims.source cv arg55.w arg55.b.toNat ∧
      arg68 = Claims.source cv arg55.w (BitVec.toNat ext26.x0 / 2 ^ 24 % 32) ∧ Claims.RunsOk arg59 ∧ Claims.RunsOk arg60 ∧ Claims.RunsOk arg68 ∧
      ((Claims.Readable cv arg55.w arg55.a.toNat ∧ Claims.Readable cv arg55.w arg55.b.toNat ∧ arg60.len = arg59.len ∧ arg60.tag = arg59.tag) ∧
      Claims.Readable cv arg55.w (BitVec.toNat ext26.x0 / 2 ^ 24 % 32) ∧ arg68.tag = 12 ∧ arg68.len = arg59.len) ∧
      (Claims.runCount (List.map (fun (i : Nat) => BitVec.ofNat 32 ((fun (i : Nat) => (if Claims.nth arg68 i = 1 then Claims.nth arg59 i else Claims.nth arg60 i, 0)) i).fst) (List.range arg59.len)) ≤ Claims.limit arg55.w))
    ∧ (arg59 = Claims.source cv arg55.w arg55.a.toNat ∧ arg60 = Claims.source cv arg55.w arg55.b.toNat ∧
      arg59 = Claims.source cv arg55.w (BitVec.toNat (.one 0x1000000 : Ext).x0 / 2 ^ 24 % 32) ∧ Claims.RunsOk arg59 ∧ Claims.RunsOk arg60 ∧
      Claims.RunsOk arg59 ∧ (¬((Claims.Readable cv arg55.w arg55.a.toNat ∧ Claims.Readable cv arg55.w arg55.b.toNat ∧ arg60.len = arg59.len ∧
      arg60.tag = arg59.tag) ∧ Claims.Readable cv arg55.w (BitVec.toNat (.one 0x1000000 : Ext).x0 / 2 ^ 24 % 32) ∧ arg59.tag = 12 ∧
      arg59.len = arg59.len))) :=
  ⟨⟨by first | decide | rfl, by first | decide | rfl, by first | decide | rfl, by unfold Claims.RunsOk; decide, by unfold Claims.RunsOk; decide,
    by unfold Claims.RunsOk; decide, by simp only [readable_iff]; decide⟩,
   ⟨by first | decide | rfl, by first | decide | rfl, by first | decide | rfl, by unfold Claims.RunsOk; decide, by unfold Claims.RunsOk; decide,
     by unfold Claims.RunsOk; decide, by simp only [readable_iff]; decide⟩,
   ⟨by first | decide | rfl, by first | decide | rfl, by first | decide | rfl, by unfold Claims.RunsOk; decide, by unfold Claims.RunsOk; decide,
     by unfold Claims.RunsOk; decide, by first | decide | rfl, by simp only [readable_iff]; decide, by first | decide | rfl⟩,
   ⟨by first | decide | rfl, by first | decide | rfl, by first | decide | rfl, by unfold Claims.RunsOk; decide, by unfold Claims.RunsOk; decide,
     by unfold Claims.RunsOk; decide, by first | decide | rfl, by simp only [readable_iff]; decide, by first | decide | rfl⟩,
   ⟨by first | decide | rfl, by first | decide | rfl, by first | decide | rfl, by unfold Claims.RunsOk; decide, by unfold Claims.RunsOk; decide,
     by unfold Claims.RunsOk; decide, by first | decide | rfl, by simp only [readable_iff]; decide⟩,
   ⟨by first | decide | rfl, by first | decide | rfl, by first | decide | rfl, by unfold Claims.RunsOk; decide, by unfold Claims.RunsOk; decide,
     by unfold Claims.RunsOk; decide, by first | decide | rfl, by simp only [readable_iff]; decide, by first | decide | rfl⟩,
   ⟨by first | decide | rfl, by first | decide | rfl, by first | decide | rfl, by unfold Claims.RunsOk; decide, by unfold Claims.RunsOk; decide,
     by unfold Claims.RunsOk; decide, by first | decide | rfl, by simp only [readable_iff]; decide, by first | decide | rfl⟩,
   ⟨by first | decide | rfl, by first | decide | rfl, by first | decide | rfl, by unfold Claims.RunsOk; decide, by unfold Claims.RunsOk; decide,
     by unfold Claims.RunsOk; decide, by simp only [readable_iff]; decide, by first | decide | rfl⟩,
   ⟨by first | decide | rfl, by first | decide | rfl, by first | decide | rfl, by unfold Claims.RunsOk; decide, by unfold Claims.RunsOk; decide,
     by unfold Claims.RunsOk; decide, by simp only [readable_iff]; decide, by first | decide | rfl⟩,
   ⟨by first | decide | rfl, by first | decide | rfl, by first | decide | rfl, by unfold Claims.RunsOk; decide, by unfold Claims.RunsOk; decide,
     by unfold Claims.RunsOk; decide, by simp only [readable_iff]; decide, by first | decide | rfl⟩,
   ⟨by first | decide | rfl, by first | decide | rfl, by first | decide | rfl, by unfold Claims.RunsOk; decide, by unfold Claims.RunsOk; decide,
     by unfold Claims.RunsOk; decide, by simp only [readable_iff]; decide, by first | decide | rfl⟩,
   ⟨by first | decide | rfl, by first | decide | rfl, by first | decide | rfl, by unfold Claims.RunsOk; decide, by unfold Claims.RunsOk; decide,
     by unfold Claims.RunsOk; decide, by simp only [readable_iff]; decide, by first | decide | rfl⟩,
   ⟨by first | decide | rfl, by first | decide | rfl, by first | decide | rfl, by unfold Claims.RunsOk; decide, by unfold Claims.RunsOk; decide,
     by unfold Claims.RunsOk; decide, by simp only [readable_iff]; decide, by first | decide | rfl⟩,
   ⟨by first | decide | rfl, by first | decide | rfl, by first | decide | rfl, by unfold Claims.RunsOk; decide, by unfold Claims.RunsOk; decide,
     by unfold Claims.RunsOk; decide, by simp only [readable_iff]; decide, by first | decide | rfl⟩,
   ⟨by first | decide | rfl, by first | decide | rfl, by first | decide | rfl, by unfold Claims.RunsOk; decide, by unfold Claims.RunsOk; decide,
     by unfold Claims.RunsOk; decide, by simp only [readable_iff]; decide⟩⟩

/-- VectorValues: hypotheses that can be met, clause by clause. -/
theorem test_witness_VectorValues :
    (arg55.w = false ∧ arg58 = vget cv.v { } arg55.a.toNat ∧ arg72 = vget cv.v { } arg55.b.toNat ∧
      arg73 = vget cv.v { } (BitVec.toNat ext28.x0 / 2 ^ 24 % 32) ∧ Claims.RunsOk arg58 ∧ Claims.RunsOk arg72 ∧ Claims.RunsOk arg73 ∧ arg58.tag = 8 ∧
      arg72.tag = 8 ∧ arg58.len = arg72.len ∧ BitVec.getLsbD ext28.x0 13 = false ∧ vaddValue arg55 ext28 cv = Except.ok arg74)
    ∧ (arg55.w = false ∧ arg58 = vget cv.v { } arg55.a.toNat ∧ arg72 = vget cv.v { } arg55.b.toNat ∧
      arg73 = vget cv.v { } (BitVec.toNat ext28.x0 / 2 ^ 24 % 32) ∧ Claims.RunsOk arg58 ∧ Claims.RunsOk arg72 ∧ Claims.RunsOk arg73 ∧ arg58.tag = 8 ∧
      arg72.tag = 8 ∧ arg58.len = arg72.len ∧ BitVec.getLsbD ext28.x0 13 = false ∧ vsubValue arg55 ext28 cv = Except.ok arg75)
    ∧ (arg55.w = false ∧ arg58 = vget cv.v { } arg55.a.toNat ∧ arg72 = vget cv.v { } arg55.b.toNat ∧
      arg73 = vget cv.v { } (BitVec.toNat ext28.x0 / 2 ^ 24 % 32) ∧ Claims.RunsOk arg58 ∧ Claims.RunsOk arg72 ∧ Claims.RunsOk arg73 ∧ arg58.tag = 8 ∧
      arg72.tag = 8 ∧ arg58.len = arg72.len ∧ BitVec.getLsbD ext28.x0 13 = false ∧ vmulValue arg55 ext28 cv = Except.ok arg76)
    ∧ (arg55.w = false ∧ arg58 = vget cv.v { } arg55.a.toNat ∧ arg72 = vget cv.v { } arg55.b.toNat ∧
      arg73 = vget cv.v { } (BitVec.toNat ext28.x0 / 2 ^ 24 % 32) ∧ Claims.RunsOk arg58 ∧ Claims.RunsOk arg72 ∧ Claims.RunsOk arg73 ∧ arg58.tag = 8 ∧
      arg72.tag = 8 ∧ arg58.len = arg72.len ∧ vminValue arg55 cv = Except.ok (okOf (vminValue ⟨5,1,2,false⟩ cv) : VRes))
    ∧ (arg55.w = false ∧ arg58 = vget cv.v { } arg55.a.toNat ∧ arg72 = vget cv.v { } arg55.b.toNat ∧
      arg73 = vget cv.v { } (BitVec.toNat ext28.x0 / 2 ^ 24 % 32) ∧ Claims.RunsOk arg58 ∧ Claims.RunsOk arg72 ∧ Claims.RunsOk arg73 ∧ arg58.tag = 8 ∧
      arg72.tag = 8 ∧ arg58.len = arg72.len ∧ vmaxValue arg55 cv = Except.ok (okOf (vmaxValue ⟨5,1,2,false⟩ cv) : VRes))
    ∧ (arg55.w = false ∧ arg58 = vget cv.v { } arg55.a.toNat ∧ arg72 = vget cv.v { } arg55.b.toNat ∧
      arg73 = vget cv.v { } (BitVec.toNat ext28.x0 / 2 ^ 24 % 32) ∧ Claims.RunsOk arg58 ∧ Claims.RunsOk arg72 ∧ Claims.RunsOk arg73 ∧ arg58.tag = 8 ∧
      arg72.tag = 8 ∧ arg58.len = arg72.len ∧ vandValue arg55 cv = Except.ok (okOf (vandValue ⟨5,1,2,false⟩ cv) : VRes))
    ∧ (arg55.w = false ∧ arg58 = vget cv.v { } arg55.a.toNat ∧ arg72 = vget cv.v { } arg55.b.toNat ∧
      arg73 = vget cv.v { } (BitVec.toNat ext28.x0 / 2 ^ 24 % 32) ∧ Claims.RunsOk arg58 ∧ Claims.RunsOk arg72 ∧ Claims.RunsOk arg73 ∧ arg58.tag = 8 ∧
      arg72.tag = 8 ∧ arg58.len = arg72.len ∧ vorValue arg55 cv = Except.ok (okOf (vorValue ⟨5,1,2,false⟩ cv) : VRes))
    ∧ (arg55.w = false ∧ arg58 = vget cv.v { } arg55.a.toNat ∧ arg72 = vget cv.v { } arg55.b.toNat ∧
      arg73 = vget cv.v { } (BitVec.toNat ext28.x0 / 2 ^ 24 % 32) ∧ Claims.RunsOk arg58 ∧ Claims.RunsOk arg72 ∧ Claims.RunsOk arg73 ∧ arg58.tag = 8 ∧
      arg72.tag = 8 ∧ arg58.len = arg72.len ∧ vxorValue arg55 cv = Except.ok (okOf (vxorValue ⟨5,1,2,false⟩ cv) : VRes))
    ∧ (arg55.w = false ∧ arg58 = vget cv.v { } arg55.a.toNat ∧ arg72 = vget cv.v { } arg55.b.toNat ∧
      arg73 = vget cv.v { } (BitVec.toNat ext28.x0 / 2 ^ 24 % 32) ∧ Claims.RunsOk arg58 ∧ Claims.RunsOk arg72 ∧ Claims.RunsOk arg73 ∧ arg58.tag = 8 ∧
      arg72.tag = 8 ∧ arg58.len = arg72.len ∧ vnotValue arg55 cv = Except.ok (okOf (vnotValue ⟨5,1,2,false⟩ cv) : VRes))
    ∧ (arg55.w = false ∧ arg58 = vget cv.v { } arg55.a.toNat ∧ arg72 = vget cv.v { } arg55.b.toNat ∧
      arg73 = vget cv.v { } (BitVec.toNat ext28.x0 / 2 ^ 24 % 32) ∧ Claims.RunsOk arg58 ∧ Claims.RunsOk arg72 ∧ Claims.RunsOk arg73 ∧ arg58.tag = 8 ∧
      arg72.tag = 8 ∧ arg58.len = arg72.len ∧ vcmpValue arg55 ext28 cv = Except.ok arg77)
    ∧ (arg55.w = false ∧ arg58 = vget cv.v { } arg55.a.toNat ∧ arg72 = vget cv.v { } arg55.b.toNat ∧
      arg73 = vget cv.v { } (BitVec.toNat ext28.x0 / 2 ^ 24 % 32) ∧ Claims.RunsOk arg58 ∧ Claims.RunsOk arg72 ∧ Claims.RunsOk arg73 ∧ arg58.tag = 8 ∧
      arg72.tag = 8 ∧ arg58.len = arg72.len ∧ vselValue arg55 ext28 cv = Except.ok arg78) :=
  ⟨⟨by first | decide | rfl, by first | decide | rfl, by first | decide | rfl, by first | decide | rfl, by unfold Claims.RunsOk; decide,
    by unfold Claims.RunsOk; decide, by unfold Claims.RunsOk; decide, by first | decide | rfl, by first | decide | rfl, by first | decide | rfl,
    by first | decide | rfl, by first | decide | rfl⟩,
   ⟨by first | decide | rfl, by first | decide | rfl, by first | decide | rfl, by first | decide | rfl, by unfold Claims.RunsOk; decide,
     by unfold Claims.RunsOk; decide, by unfold Claims.RunsOk; decide, by first | decide | rfl, by first | decide | rfl, by first | decide | rfl,
     by first | decide | rfl, by first | decide | rfl⟩,
   ⟨by first | decide | rfl, by first | decide | rfl, by first | decide | rfl, by first | decide | rfl, by unfold Claims.RunsOk; decide,
     by unfold Claims.RunsOk; decide, by unfold Claims.RunsOk; decide, by first | decide | rfl, by first | decide | rfl, by first | decide | rfl,
     by first | decide | rfl, by first | decide | rfl⟩,
   ⟨by first | decide | rfl, by first | decide | rfl, by first | decide | rfl, by first | decide | rfl, by unfold Claims.RunsOk; decide,
     by unfold Claims.RunsOk; decide, by unfold Claims.RunsOk; decide, by first | decide | rfl, by first | decide | rfl, by first | decide | rfl,
     by first | decide | rfl⟩,
   ⟨by first | decide | rfl, by first | decide | rfl, by first | decide | rfl, by first | decide | rfl, by unfold Claims.RunsOk; decide,
     by unfold Claims.RunsOk; decide, by unfold Claims.RunsOk; decide, by first | decide | rfl, by first | decide | rfl, by first | decide | rfl,
     by first | decide | rfl⟩,
   ⟨by first | decide | rfl, by first | decide | rfl, by first | decide | rfl, by first | decide | rfl, by unfold Claims.RunsOk; decide,
     by unfold Claims.RunsOk; decide, by unfold Claims.RunsOk; decide, by first | decide | rfl, by first | decide | rfl, by first | decide | rfl,
     by first | decide | rfl⟩,
   ⟨by first | decide | rfl, by first | decide | rfl, by first | decide | rfl, by first | decide | rfl, by unfold Claims.RunsOk; decide,
     by unfold Claims.RunsOk; decide, by unfold Claims.RunsOk; decide, by first | decide | rfl, by first | decide | rfl, by first | decide | rfl,
     by first | decide | rfl⟩,
   ⟨by first | decide | rfl, by first | decide | rfl, by first | decide | rfl, by first | decide | rfl, by unfold Claims.RunsOk; decide,
     by unfold Claims.RunsOk; decide, by unfold Claims.RunsOk; decide, by first | decide | rfl, by first | decide | rfl, by first | decide | rfl,
     by first | decide | rfl⟩,
   ⟨by first | decide | rfl, by first | decide | rfl, by first | decide | rfl, by first | decide | rfl, by unfold Claims.RunsOk; decide,
     by unfold Claims.RunsOk; decide, by unfold Claims.RunsOk; decide, by first | decide | rfl, by first | decide | rfl, by first | decide | rfl,
     by first | decide | rfl⟩,
   ⟨by first | decide | rfl, by first | decide | rfl, by first | decide | rfl, by first | decide | rfl, by unfold Claims.RunsOk; decide,
     by unfold Claims.RunsOk; decide, by unfold Claims.RunsOk; decide, by first | decide | rfl, by first | decide | rfl, by first | decide | rfl,
     by first | decide | rfl⟩,
   ⟨by first | decide | rfl, by first | decide | rfl, by first | decide | rfl, by first | decide | rfl, by unfold Claims.RunsOk; decide,
     by unfold Claims.RunsOk; decide, by unfold Claims.RunsOk; decide, by first | decide | rfl, by first | decide | rfl, by first | decide | rfl,
     by first | decide | rfl⟩⟩

end W5

/-! ### Witnesses, part 6 -/

namespace W6

def ds (l : List (Nat × Nat × Nat)) : List Byte := l.flatMap fun p => leBytes p.1 p.2.1
def cx (d : List Byte) : Croft := { cm 4 with sp := ({} : Memory).writeN 128 d, abs := vset c0.abs 3 ⟨1,1,0⟩ }
def dg : List Byte := leBytes 8 (2^56+4096) ++ leBytes 8 (2^56+8192) ++ leBytes 4 10 ++ leBytes 2 4 ++ leBytes 1 0 ++ leBytes 1 0 ++ leBytes 1 0 ++ leBytes 1 (16+3) ++ leBytes 2 0 ++ leBytes 4 16 ++ leBytes 4 1024 ++ leBytes 4 3
def db : List Byte := leBytes 8 4096 ++ leBytes 8 (2^56+8192) ++ leBytes 4 10 ++ leBytes 2 4 ++ leBytes 1 0 ++ leBytes 1 0 ++ leBytes 1 0 ++ leBytes 1 0 ++ leBytes 2 0 ++ leBytes 4 16 ++ leBytes 4 1024 ++ leBytes 4 3 ++ leBytes 4 2048 ++ leBytes 4 2
def cg (b : BitVec 512) : Croft := { cm 5 with qg := [⟨1, some b⟩, ⟨2, none⟩] }
def cgd : Croft := { cg (4096 + 16 * 2 ^ 32) with gates := vset c0.gates 2 .down, rows := vset c0.rows 1 { st := .slow, lbase := 131072, v := 8 } }
def okOf (e : Except VErr VRes) : VRes := match e with | .ok r => r | _ => ⟨⟨99,[]⟩, none, 0⟩
theorem okOf_eq {e : Except VErr VRes} (h : (match e with | .ok _ => true | _ => false) = true) : e = .ok (okOf e) := by cases e <;> first | rfl | exact nomatch h
def cvf : Croft := { c0 with v := vset (vset (vset (vset c0.v 1 ⟨0, [⟨0x3FC00000, 2⟩, ⟨0xFF800000, 1⟩]⟩) 2 ⟨0, [⟨0x40000000, 3⟩]⟩) 3 ⟨0, [⟨0x7F7FFFFF, 1⟩, ⟨1, 2⟩]⟩) 4 ⟨0, [⟨0, 3⟩]⟩ }
def cvm : Croft := { c0 with v := vset (vset (vset c0.v 1 ⟨9, [⟨127, 1⟩, ⟨0x38, 32⟩]⟩) 2 ⟨6, [⟨5, 1⟩]⟩) 3 ⟨0, [⟨0x3F800000, 31⟩, ⟨0x43800000, 1⟩]⟩ }
def cvr : Croft := { c0 with v := vset (vset c0.v 1 ⟨9, (List.range 99).map fun i => ⟨BitVec.ofNat 32 (i + 1), 1⟩⟩) 2 ⟨0, (List.range 96).map fun i => ⟨BitVec.ofNat 32 (0x3F800000 + 0x200000 * (i % 7)), 1⟩⟩ }

def sta48 : State := st {cv with qv := vset c0.qv 3 [⟨1,some ⟨6,[⟨1,2⟩,⟨1,3⟩]⟩⟩]}
def cft36 : Croft := {cv with qv := vset c0.qv 3 [⟨1,some ⟨6,[⟨1,2⟩,⟨1,3⟩]⟩⟩]}
def ext29 : Ext := .two 0 1
def ext30 : Ext := .two 0 64
def sta49 : State := st {cm 1 with records := vset c0.records 1 0x1000}
def cft37 : Croft := {cm 1 with records := vset c0.records 1 0x1000}
def arg79 : Tok := ⟨0,1⟩
def arg80 : VF := ⟨0,1,0,false⟩
def cft38 : Croft := {cv with v := vset c0.v 1 ⟨8,[⟨3,64⟩]⟩}
def sta50 : State := st {cv with v := vset c0.v 1 ⟨0,[⟨3,60⟩,⟨2,4⟩]⟩}
def cft39 : Croft := {cv with v := vset c0.v 1 ⟨0,[⟨3,60⟩,⟨2,4⟩]⟩}
def arg81 : XF := ⟨6,1⟩
def cft40 : Croft := cx dg
def arg82 : XF := ⟨0,1⟩
def cft41 : Croft := cg 77
def arg83 : List (Slot (BitVec 512)) := [⟨2,none⟩]
def ins0 : Instr := .gshort ⟨0,1⟩ ⟨6,true,15⟩ .none
def arg84 : GF := ⟨6,true,15⟩
def sta51 : State := st {cg 77 with budget := some ⟨15,9,9,9,9,9⟩}
def cft42 : Croft := {cg 77 with budget := some ⟨15,9,9,9,9,9⟩}
def sta52 : State := st {cg 77 with budget := some ⟨14,9,9,9,9,9⟩}
def cft43 : Croft := {cg 77 with budget := some ⟨14,9,9,9,9,9⟩}
def arg85 : List SpAcc := []
-- conversions
def arg86 : VF := ⟨5,1,2,false⟩
def arg87 : VReg := Claims.source cvf false 1
def arg88 : VReg := Claims.source cvf false 2
def ext31 : Ext := .one 0x300000
def ext32 : Ext := .one 0x100000
def arg89 : VF := ⟨5,1,0,false⟩
def arg90 : VReg := Claims.source cvm false 1
def arg91 : VReg := Claims.source cvm false 2
def arg92 : VF := ⟨5,2,2,false⟩
def arg93 : VF := ⟨5,1,3,false⟩
def arg94 : VReg := Claims.source cvr false 1
def arg95 : List (FV × Bool) := List.replicate 31 (.num true 3 (-2), true) ++ [(.num false 1 120, false)]

/-- VectorQueuesAndTiles: hypotheses that can be met, clause by clause. -/
theorem test_witness_VectorQueuesAndTiles :
    (Ready (Instr.vpop t0 (⟨5,3,0,false⟩ : VF) Ext.none) t0 sta48 cft36 ∧ cft36.popping (⟨5,3,0,false⟩ : VF).a.toNat = false ∧
      vget cft36.qv [] (⟨5,3,0,false⟩ : VF).a.toNat = { id := 1, val := some (⟨6,[⟨1,2⟩,⟨1,3⟩]⟩ : VReg) } :: ([] : List (Slot VReg)))
    ∧ (Ready (Instr.vpush t0 (⟨0,2,0,false⟩ : VF) ext29) t0 (st cv : State) cv ∧ cv.vpush = none)
    ∧ (Ready (Instr.vpush t0 (⟨0,5,0,false⟩ : VF) Ext.none) t0 (st cv : State) cv ∧ cv.vpush = none)
    ∧ (Ready (Instr.vrda t0 (⟨7,0,0,false⟩ : VF) ext30) t0 sta49 cft37 ∧ cft37.heldTile (ext30.imm32.toNat / 64 % 16) = false)
    ∧ (Ready (Instr.vrda t0 (⟨7,0,0,false⟩ : VF) (.two 0 1023 : Ext)) t0 (st (cm 1) : State) (cm 1 : Croft) ∧
      (cm 1 : Croft).heldTile ((.two 0 1023 : Ext).imm32.toNat / 64 % 16) = false)
    ∧ (Ready (Instr.vwra arg79 arg80 (.two 0 2047 : Ext)) arg79 (st {cv with v := vset c0.v 1 ⟨8,[⟨3,64⟩]⟩} : State) cft38 ∧
      cft38.heldTile ((.two 0 2047 : Ext).imm32.toNat / 64 % 16) = false ∧ (vget cft38.v { } arg80.a.toNat).len = 64 ∧
      ((vget cft38.v { } arg80.a.toNat).tag = 0 ∨ (vget cft38.v { } arg80.a.toNat).tag = 8 ∨ (vget cft38.v { } arg80.a.toNat).tag = 11))
    ∧ (Ready (Instr.vwra arg79 arg80 ext30) arg79 sta50 cft39 ∧ cft39.heldTile (ext30.imm32.toNat / 64 % 16) = false ∧
      (vget cft39.v { } arg80.a.toNat).len = 64 ∧
      ((vget cft39.v { } arg80.a.toNat).tag = 0 ∨ (vget cft39.v { } arg80.a.toNat).tag = 8 ∨ (vget cft39.v { } arg80.a.toNat).tag = 11)) :=
  ⟨⟨⟨rfl, by decide, by decide, by decide, by rfl⟩, by first | decide | rfl, by first | decide | rfl⟩,
   ⟨⟨rfl, by decide, by decide, by decide, by rfl⟩, by first | decide | rfl⟩,
   ⟨⟨rfl, by decide, by decide, by decide, by rfl⟩, by first | decide | rfl⟩,
   ⟨⟨rfl, by decide, by decide, by decide, by rfl⟩, by first | decide | rfl⟩,
   ⟨⟨rfl, by decide, by decide, by decide, by rfl⟩, by first | decide | rfl⟩,
   ⟨⟨rfl, by decide, by decide, by decide, by rfl⟩, by first | decide | rfl, by first | decide | rfl, by first | decide | rfl⟩,
   ⟨⟨rfl, by decide, by decide, by decide, by rfl⟩, by first | decide | rfl, by first | decide | rfl, by first | decide | rfl⟩⟩

/-- IndexAccepted: hypotheses that can be met, clause by clause. -/
theorem test_witness_IndexAccepted :
    (Claims.index (.xgath ⟨0,1⟩ ⟨6,1⟩ .none : Instr) = some (arg79, arg81, 0) ∧ Ready (.xgath ⟨0,1⟩ ⟨6,1⟩ .none : Instr) arg79 (st (cx dg) : State) cft40 ∧
      Claims.SpOk cft40 Eng.X (128 * arg81.desc.toNat) 64 false ∧ ixFieldsOk 0 (BitVec.ofNat 512 (cft40.sp.le (128 * arg81.desc.toNat) 64)) = true ∧
      (BitVec.ofNat 64 (Claims.descField (BitVec.ofNat 512 (cft40.sp.le (128 * arg81.desc.toNat) 64)) 0 8)).toNat % 4 = 0 ∧
      (BitVec.ofNat 64 (Claims.descField (BitVec.ofNat 512 (cft40.sp.le (128 * arg81.desc.toNat) 64)) 8 8)).toNat % 4 = 0 ∧
      Claims.descField (BitVec.ofNat 512 (cft40.sp.le (128 * arg81.desc.toNat) 64)) 32 4 % 4 = 0 ∧
      Claims.descField (BitVec.ofNat 512 (cft40.sp.le (128 * arg81.desc.toNat) 64)) 40 4 % 4 = 0 ∧
      (Claims.Area cft40 (BitVec.ofNat 64 (Claims.descField (BitVec.ofNat 512 (cft40.sp.le (128 * arg81.desc.toNat) 64)) 0 8)) (Claims.descField (BitVec.ofNat 512 (cft40.sp.le (128 * arg81.desc.toNat) 64)) 16 4 * (4 * Claims.descField (BitVec.ofNat 512 (cft40.sp.le (128 * arg81.desc.toNat) 64)) 20 2)) (decide (0 = 1 ∨ 0 = 2))) ∧
      (Claims.Area cft40 (BitVec.ofNat 64 (Claims.descField (BitVec.ofNat 512 (cft40.sp.le (128 * arg81.desc.toNat) 64)) 8 8)) (if (if 0 = 3 then Claims.descField (BitVec.ofNat 512 (cft40.sp.le (128 * arg81.desc.toNat) 64)) 44 4 else Claims.descField (BitVec.ofNat 512 (cft40.sp.le (128 * arg81.desc.toNat) 64)) 36 4) = 0 then 0 else ((if 0 = 3 then Claims.descField (BitVec.ofNat 512 (cft40.sp.le (128 * arg81.desc.toNat) 64)) 44 4 else Claims.descField (BitVec.ofNat 512 (cft40.sp.le (128 * arg81.desc.toNat) 64)) 36 4) - 1) * Claims.descField (BitVec.ofNat 512 (cft40.sp.le (128 * arg81.desc.toNat) 64)) 28 4 + 4 * Claims.descField (BitVec.ofNat 512 (cft40.sp.le (128 * arg81.desc.toNat) 64)) 20 2) (decide (0 = 0 ∨ 0 = 3))) ∧
      Claims.SpOk cft40 Eng.X (Claims.descField (BitVec.ofNat 512 (cft40.sp.le (128 * arg81.desc.toNat) 64)) 32 4) (4 * Claims.descField (BitVec.ofNat 512 (cft40.sp.le (128 * arg81.desc.toNat) 64)) 36 4) false ∧
      (0 = 3 → Claims.SpOk cft40 Eng.X (Claims.descField (BitVec.ofNat 512 (cft40.sp.le (128 * arg81.desc.toNat) 64)) 40 4) (4 * ((if 0 = 3 then Claims.descField (BitVec.ofNat 512 (cft40.sp.le (128 * arg81.desc.toNat) 64)) 44 4 else Claims.descField (BitVec.ofNat 512 (cft40.sp.le (128 * arg81.desc.toNat) 64)) 36 4) + 1)) false ∧
      offsOk (Claims.descField (BitVec.ofNat 512 (cft40.sp.le (128 * arg81.desc.toNat) 64)) 36 4) (cft40.n32 (Claims.descField (BitVec.ofNat 512 (cft40.sp.le (128 * arg81.desc.toNat) 64)) 40 4) ((if 0 = 3 then Claims.descField (BitVec.ofNat 512 (cft40.sp.le (128 * arg81.desc.toNat) 64)) 44 4 else Claims.descField (BitVec.ofNat 512 (cft40.sp.le (128 * arg81.desc.toNat) 64)) 36 4) + 1)) = true) ∧
      (Claims.descField (BitVec.ofNat 512 (cft40.sp.le (128 * arg81.desc.toNat) 64)) 25 1 / 16 % 2 = 1 → (vget cft40.abs { } (Claims.descField (BitVec.ofNat 512 (cft40.sp.le (128 * arg81.desc.toNat) 64)) 25 1 % 16)).ini ≠ 0) ∧
      (arg81.arv = 0 ∨ vget cft40.arv 0 (arg81.arv.toNat - 1) + vget cft40.arvRes 0 (arg81.arv.toNat - 1) < 8))
    ∧ (Claims.index (.xscat ⟨0,1⟩ ⟨0,1⟩ .none : Instr) = some (arg79, arg82, 1) ∧ Ready (.xscat ⟨0,1⟩ ⟨0,1⟩ .none : Instr) arg79 (st (cx dg) : State) cft40 ∧
      Claims.SpOk cft40 Eng.X (128 * arg82.desc.toNat) 64 false ∧ ixFieldsOk 1 (BitVec.ofNat 512 (cft40.sp.le (128 * arg82.desc.toNat) 64)) = true ∧
      (BitVec.ofNat 64 (Claims.descField (BitVec.ofNat 512 (cft40.sp.le (128 * arg82.desc.toNat) 64)) 0 8)).toNat % 4 = 0 ∧
      (BitVec.ofNat 64 (Claims.descField (BitVec.ofNat 512 (cft40.sp.le (128 * arg82.desc.toNat) 64)) 8 8)).toNat % 4 = 0 ∧
      Claims.descField (BitVec.ofNat 512 (cft40.sp.le (128 * arg82.desc.toNat) 64)) 32 4 % 4 = 0 ∧
      Claims.descField (BitVec.ofNat 512 (cft40.sp.le (128 * arg82.desc.toNat) 64)) 40 4 % 4 = 0 ∧
      (Claims.Area cft40 (BitVec.ofNat 64 (Claims.descField (BitVec.ofNat 512 (cft40.sp.le (128 * arg82.desc.toNat) 64)) 0 8)) (Claims.descField (BitVec.ofNat 512 (cft40.sp.le (128 * arg82.desc.toNat) 64)) 16 4 * (4 * Claims.descField (BitVec.ofNat 512 (cft40.sp.le (128 * arg82.desc.toNat) 64)) 20 2)) (decide (1 = 1 ∨ 1 = 2))) ∧
      (Claims.Area cft40 (BitVec.ofNat 64 (Claims.descField (BitVec.ofNat 512 (cft40.sp.le (128 * arg82.desc.toNat) 64)) 8 8)) (if (if 1 = 3 then Claims.descField (BitVec.ofNat 512 (cft40.sp.le (128 * arg82.desc.toNat) 64)) 44 4 else Claims.descField (BitVec.ofNat 512 (cft40.sp.le (128 * arg82.desc.toNat) 64)) 36 4) = 0 then 0 else ((if 1 = 3 then Claims.descField (BitVec.ofNat 512 (cft40.sp.le (128 * arg82.desc.toNat) 64)) 44 4 else Claims.descField (BitVec.ofNat 512 (cft40.sp.le (128 * arg82.desc.toNat) 64)) 36 4) - 1) * Claims.descField (BitVec.ofNat 512 (cft40.sp.le (128 * arg82.desc.toNat) 64)) 28 4 + 4 * Claims.descField (BitVec.ofNat 512 (cft40.sp.le (128 * arg82.desc.toNat) 64)) 20 2) (decide (1 = 0 ∨ 1 = 3))) ∧
      Claims.SpOk cft40 Eng.X (Claims.descField (BitVec.ofNat 512 (cft40.sp.le (128 * arg82.desc.toNat) 64)) 32 4) (4 * Claims.descField (BitVec.ofNat 512 (cft40.sp.le (128 * arg82.desc.toNat) 64)) 36 4) false ∧
      (1 = 3 → Claims.SpOk cft40 Eng.X (Claims.descField (BitVec.ofNat 512 (cft40.sp.le (128 * arg82.desc.toNat) 64)) 40 4) (4 * ((if 1 = 3 then Claims.descField (BitVec.ofNat 512 (cft40.sp.le (128 * arg82.desc.toNat) 64)) 44 4 else Claims.descField (BitVec.ofNat 512 (cft40.sp.le (128 * arg82.desc.toNat) 64)) 36 4) + 1)) false ∧
      offsOk (Claims.descField (BitVec.ofNat 512 (cft40.sp.le (128 * arg82.desc.toNat) 64)) 36 4) (cft40.n32 (Claims.descField (BitVec.ofNat 512 (cft40.sp.le (128 * arg82.desc.toNat) 64)) 40 4) ((if 1 = 3 then Claims.descField (BitVec.ofNat 512 (cft40.sp.le (128 * arg82.desc.toNat) 64)) 44 4 else Claims.descField (BitVec.ofNat 512 (cft40.sp.le (128 * arg82.desc.toNat) 64)) 36 4) + 1)) = true) ∧
      (Claims.descField (BitVec.ofNat 512 (cft40.sp.le (128 * arg82.desc.toNat) 64)) 25 1 / 16 % 2 = 1 → (vget cft40.abs { } (Claims.descField (BitVec.ofNat 512 (cft40.sp.le (128 * arg82.desc.toNat) 64)) 25 1 % 16)).ini ≠ 0) ∧
      (arg82.arv = 0 ∨ vget cft40.arv 0 (arg82.arv.toNat - 1) + vget cft40.arvRes 0 (arg82.arv.toNat - 1) < 8)) :=
  ⟨⟨by first | decide | rfl, ⟨rfl, by decide, by decide, by decide, by rfl⟩, spOk_of (by decide), by first | decide | rfl, by first | decide | rfl,
    by first | decide | rfl, by first | decide | rfl, by first | decide | rfl, .inr ⟨_, rfl, spOk_of (by decide)⟩, .inr ⟨_, rfl, spOk_of (by decide)⟩,
    spOk_of (by decide), (fun h => absurd h (by decide)), by first | decide | rfl, by first | decide | rfl⟩,
   ⟨by first | decide | rfl, ⟨rfl, by decide, by decide, by decide, by rfl⟩, spOk_of (by decide), by first | decide | rfl, by first | decide | rfl,
     by first | decide | rfl, by first | decide | rfl, by first | decide | rfl, .inr ⟨_, rfl, spOk_of (by decide)⟩, .inr ⟨_, rfl, spOk_of (by decide)⟩,
     spOk_of (by decide), (fun h => absurd h (by decide)), by first | decide | rfl, by first | decide | rfl⟩⟩

/-- GenerationAccepted: hypotheses that can be met, clause by clause. -/
theorem test_witness_GenerationAccepted :
    (Claims.generation (.gseed ⟨0,1⟩ ⟨6,true,0⟩ .none : Instr) = some (arg79, (⟨6,true,0⟩ : GF), Ext.none, 0) ∧
      Ready (.gseed ⟨0,1⟩ ⟨6,true,0⟩ .none : Instr) arg79 (st (cg 77) : State) cft41 ∧ cft41.genq.length < 8 ∧
      ((⟨6,true,0⟩ : GF).arv = 0 ∨ vget cft41.arv 0 ((⟨6,true,0⟩ : GF).arv.toNat - 1) + vget cft41.arvRes 0 ((⟨6,true,0⟩ : GF).arv.toNat - 1) < 8) ∧
      (0 ≠ 7 → cft41.qg = { id := 1, val := some 77 } :: arg83) ∧ (0 = 7 → 77 = 0 ∧ arg83 = cft41.qg))
    ∧ (Claims.generation ins0 = some (arg79, arg84, Ext.none, 1) ∧ Ready ins0 arg79 sta51 cft42 ∧ cft42.genq.length < 8 ∧
      (arg84.arv = 0 ∨ vget cft42.arv 0 (arg84.arv.toNat - 1) + vget cft42.arvRes 0 (arg84.arv.toNat - 1) < 8) ∧
      (1 ≠ 7 → cft42.qg = { id := 1, val := some 77 } :: arg83) ∧ (1 = 7 → 77 = 0 ∧ arg83 = cft42.qg))
    ∧ (Claims.generation ins0 = some (arg79, arg84, Ext.none, 1) ∧ Ready ins0 arg79 sta52 cft43 ∧ cft43.genq.length < 8 ∧
      (arg84.arv = 0 ∨ vget cft43.arv 0 (arg84.arv.toNat - 1) + vget cft43.arvRes 0 (arg84.arv.toNat - 1) < 8) ∧
      (1 ≠ 7 → cft43.qg = { id := 1, val := some 77 } :: arg83) ∧ (1 = 7 → 77 = 0 ∧ arg83 = cft43.qg))
    ∧ (Claims.generation (.gslow ⟨0,1⟩ ⟨0,true,1⟩ .none : Instr) = some (arg79, (⟨0,true,1⟩ : GF), Ext.none, 2) ∧
      Ready (.gslow ⟨0,1⟩ ⟨0,true,1⟩ .none : Instr) arg79 (st cgd : State) cgd ∧ cgd.genq.length < 8 ∧
      ((⟨0,true,1⟩ : GF).arv = 0 ∨ vget cgd.arv 0 ((⟨0,true,1⟩ : GF).arv.toNat - 1) + vget cgd.arvRes 0 ((⟨0,true,1⟩ : GF).arv.toNat - 1) < 8) ∧
      (2 ≠ 7 → cgd.qg = { id := 1, val := some (4096 + 16 * 2 ^ 32 : BitVec 512) } :: arg83) ∧ (2 = 7 → (4096 + 16 * 2 ^ 32 : BitVec 512) = 0 ∧
      arg83 = cgd.qg) ∧
      ((Claims.genAreas cgd 2 (4096 + 16 * 2 ^ 32 : BitVec 512) ++ if 2 = 2 then Claims.slowAreas cgd (⟨0,true,1⟩ : GF).k.toNat else []) = ([⟨4096,128,true⟩] : List SpAcc) ++ (⟨131072,32,false⟩ : SpAcc) :: arg85) ∧
      (∀ (x : SpAcc), x ∈ ([⟨4096,128,true⟩] : List SpAcc) → (fun (r : SpAcc) => ∀ (y : Nat), r.a ≤ y → y < r.a + r.n → y < 2 ^ 21 → cgd.gateUp (y / 65536) = true) x) ∧
      (¬(fun (r : SpAcc) => ∀ (y : Nat), r.a ≤ y → y < r.a + r.n → y < 2 ^ 21 → cgd.gateUp (y / 65536) = true) (⟨131072,32,false⟩ : SpAcc))) :=
  ⟨⟨by first | decide | rfl, ⟨rfl, by decide, by decide, by decide, by rfl⟩, by first | decide | rfl, by first | decide | rfl, by first | decide | rfl,
    by first | decide | rfl⟩,
   ⟨by first | decide | rfl, ⟨rfl, by decide, by decide, by decide, by rfl⟩, by first | decide | rfl, by first | decide | rfl, by first | decide | rfl,
     by first | decide | rfl⟩,
   ⟨by first | decide | rfl, ⟨rfl, by decide, by decide, by decide, by rfl⟩, by first | decide | rfl, by first | decide | rfl, by first | decide | rfl,
     by first | decide | rfl⟩,
   ⟨by first | decide | rfl, ⟨rfl, by decide, by decide, by decide, by rfl⟩, by first | decide | rfl, by first | decide | rfl, by first | decide | rfl,
     by first | decide | rfl, by first | decide | rfl,
     List.forall_mem_singleton.2 fun y _ h2 _ => by rw [show y / 65536 = 0 from by have h3 : y < 4096 + 128 := h2; omega]; decide, (fun h => absurd (h 131072 (by decide) (by decide) (by decide)) (by decide))⟩⟩

/-- VectorConversions: hypotheses that can be met, clause by clause. -/
theorem test_witness_VectorConversions :
    (arg87 = Claims.source cvf arg86.w arg86.a.toNat ∧ arg88 = Claims.source cvf arg86.w arg86.b.toNat ∧ Claims.RunsOk arg87 ∧ Claims.RunsOk arg88 ∧
      Claims.Readable cvf arg86.w arg86.a.toNat ∧
      (Claims.runCount (List.map (fun (i : Nat) => BitVec.ofNat 32 ((fun (i : Nat) => Claims.converted arg87.tag (BitVec.toNat ext31.x0 / 2 ^ 20 % 16) (BitVec.toNat ext31.x0 / 2 ^ 17 % 8) (BitVec.getLsbD ext31.x0 13) (Claims.nth arg87 i)) i).fst) (List.range arg87.len)) ≤ Claims.limit arg86.w))
    ∧ (arg87 = Claims.source cvf arg86.w arg86.a.toNat ∧ arg88 = Claims.source cvf arg86.w arg86.b.toNat ∧ Claims.RunsOk arg87 ∧ Claims.RunsOk arg88 ∧
      BitVec.toNat ext32.x0 / 2 ^ 20 % 16 ∈ [1, 2, 3, 4, 6, 7, 9, 10] ∧
      (∀ (j : Nat), j < 32 / tagWidth (BitVec.toNat ext32.x0 / 2 ^ 20 % 16) → Claims.RunsOk (vget cvf.v { } (arg86.a.toNat + j))) ∧
      (∀ (j : Nat), j < 32 / tagWidth (BitVec.toNat ext32.x0 / 2 ^ 20 % 16) → (vget cvf.v { } (arg86.a.toNat + j)).tag = 0 ∧
      (vget cvf.v { } (arg86.a.toNat + j)).len = (vget cvf.v { } arg86.a.toNat).len) ∧
      (Claims.runCount (List.map (fun (i : Nat) => BitVec.ofNat 32 ((fun (i : Nat) => (List.foldr (fun (j n : Nat) => ((fun (j i : Nat) => Claims.converted 0 (BitVec.toNat ext32.x0 / 2 ^ 20 % 16) (BitVec.toNat ext32.x0 / 2 ^ 17 % 8) (BitVec.getLsbD ext32.x0 13) (Claims.nth (vget cvf.v { } (arg86.a.toNat + j)) i)) j i).fst + 2 ^ tagWidth (BitVec.toNat ext32.x0 / 2 ^ 20 % 16) * n) 0 (List.range (32 / tagWidth (BitVec.toNat ext32.x0 / 2 ^ 20 % 16))), List.foldl (fun (f : Flags) (j : Nat) => f ||| ((fun (j i : Nat) => Claims.converted 0 (BitVec.toNat ext32.x0 / 2 ^ 20 % 16) (BitVec.toNat ext32.x0 / 2 ^ 17 % 8) (BitVec.getLsbD ext32.x0 13) (Claims.nth (vget cvf.v { } (arg86.a.toNat + j)) i)) j i).snd) 0 (List.range (32 / tagWidth (BitVec.toNat ext32.x0 / 2 ^ 20 % 16))))) i).fst) (List.range (vget cvf.v { } arg86.a.toNat).len)) ≤ Claims.limit false)) :=
  ⟨⟨by first | decide | rfl, by first | decide | rfl, by unfold Claims.RunsOk; decide, by unfold Claims.RunsOk; decide, by simp only [readable_iff]; decide,
    by first | decide | rfl⟩,
   ⟨by first | decide | rfl, by first | decide | rfl, by unfold Claims.RunsOk; decide, by unfold Claims.RunsOk; decide, by first | decide | rfl,
     (fun j hj => by rcases (show j = 0 ∨ j = 1 from by have h : j < 2 := hj; omega) with rfl | rfl <;> (unfold Claims.RunsOk; decide)), (fun j hj => by rcases (show j = 0 ∨ j = 1 from by have h : j < 2 := hj; omega) with rfl | rfl <;> decide), by first | decide | rfl⟩⟩

/-- VectorReductions: hypotheses that can be met, clause by clause. -/
theorem test_witness_VectorReductions :
    (arg87 = Claims.source cvf arg89.w arg89.a.toNat ∧ Claims.RunsOk arg87 ∧ (.two 0 0 : Ext).imm32.toNat ≤ 5 ∧ (Claims.Readable cvf arg89.w arg89.a.toNat ∧
      ((.two 0 0 : Ext).imm32.toNat ≤ 2 ∨ 6 ≤ arg87.tag)) ∧
      (Claims.runCount (List.map (fun (i : Nat) => BitVec.ofNat 32 ((fun (x : Nat) => Claims.reduced (.two 0 0 : Ext).imm32.toNat arg87.tag (List.map BitVec.toNat (elems arg87.runs))) i).fst) (List.range 1)) ≤ Claims.limit arg89.w))
    ∧ (arg87 = Claims.source cvf arg89.w arg89.a.toNat ∧ Claims.RunsOk arg87 ∧ ext29.imm32.toNat ≤ 5 ∧ (Claims.Readable cvf arg89.w arg89.a.toNat ∧
      (ext29.imm32.toNat ≤ 2 ∨ 6 ≤ arg87.tag)) ∧
      (Claims.runCount (List.map (fun (i : Nat) => BitVec.ofNat 32 ((fun (i : Nat) => Claims.reduced ext29.imm32.toNat arg87.tag (List.take (i + 1) (List.map BitVec.toNat (elems arg87.runs)))) i).fst) (List.range arg87.len)) ≤ Claims.limit arg89.w))
    ∧ (arg87 = Claims.source cvf arg89.w arg89.a.toNat ∧ Claims.RunsOk arg87 ∧ (.two 0 5 : Ext).imm32.toNat ≤ 5 ∧
      (¬(Claims.Readable cvf arg89.w arg89.a.toNat ∧ ((.two 0 5 : Ext).imm32.toNat ≤ 2 ∨ 6 ≤ arg87.tag)))) :=
  ⟨⟨by first | decide | rfl, by unfold Claims.RunsOk; decide, by first | decide | rfl, by simp only [readable_iff]; decide, by first | decide | rfl⟩,
   ⟨by first | decide | rfl, by unfold Claims.RunsOk; decide, by first | decide | rfl, by simp only [readable_iff]; decide, by first | decide | rfl⟩,
   ⟨by first | decide | rfl, by unfold Claims.RunsOk; decide, by first | decide | rfl, by simp only [readable_iff]; decide⟩⟩

/-- VectorBlocks: hypotheses that can be met, clause by clause. -/
theorem test_witness_VectorBlocks :
    (arg90 = Claims.source cvm arg86.w arg86.a.toNat ∧ arg91 = Claims.source cvm arg86.w arg86.b.toNat ∧ Claims.RunsOk arg90 ∧ Claims.RunsOk arg91 ∧
      (Claims.Readable cvm arg86.w arg86.a.toNat ∧ arg90.tag = 9 ∧ arg90.len % (mxFmt (BitVec.toNat ext31.x0 / 2 ^ 20 % 16)).rowBytes = 0 ∧
      32 * (arg90.len / (mxFmt (BitVec.toNat ext31.x0 / 2 ^ 20 % 16)).rowBytes) ≤ 4096) ∧
      (Claims.runCount (List.map (fun (i : Nat) => BitVec.ofNat 32 ((fun (i : Nat) => rne32 (Claims.blockElem (mxFmt (BitVec.toNat ext31.x0 / 2 ^ 20 % 16)) (List.map BitVec.toNat (elems arg90.runs)) i)) i).fst) (List.range (32 * (arg90.len / (mxFmt (BitVec.toNat ext31.x0 / 2 ^ 20 % 16)).rowBytes)))) ≤ Claims.limit arg86.w))
    ∧ (arg91 = Claims.source cvm arg92.w arg92.a.toNat ∧ arg91 = Claims.source cvm arg92.w arg92.b.toNat ∧ Claims.RunsOk arg91 ∧ Claims.RunsOk arg91 ∧
      (¬(Claims.Readable cvm arg92.w arg92.a.toNat ∧ arg91.tag = 9 ∧ arg91.len % (mxFmt (BitVec.toNat ext31.x0 / 2 ^ 20 % 16)).rowBytes = 0 ∧
      32 * (arg91.len / (mxFmt (BitVec.toNat ext31.x0 / 2 ^ 20 % 16)).rowBytes) ≤ 4096)))
    ∧ (arg91 = Claims.source cvm arg92.w arg92.a.toNat ∧ arg91 = Claims.source cvm arg92.w arg92.b.toNat ∧ Claims.RunsOk arg91 ∧ Claims.RunsOk arg91 ∧
      (¬(Claims.Readable cvm arg92.w arg92.a.toNat ∧ Claims.Readable cvm arg92.w arg92.b.toNat ∧ arg91.tag ≤ 2 ∧ arg91.len % 32 = 0 ∧
      arg91.len / 32 * (mxFmt (BitVec.toNat (.two 0x300000 0x42000000 : Ext).x0 / 2 ^ 20 % 16)).rowBytes ≤ 4096)))
    ∧ (arg94 = Claims.source cvr arg93.w arg93.a.toNat ∧ (Claims.source cvr false 3 : VReg) = Claims.source cvr arg93.w arg93.b.toNat ∧ Claims.RunsOk arg94 ∧
      Claims.RunsOk (Claims.source cvr false 3 : VReg) ∧ (Claims.Readable cvr arg93.w arg93.a.toNat ∧ arg94.tag = 9 ∧
      arg94.len % (mxFmt (BitVec.toNat ext31.x0 / 2 ^ 20 % 16)).rowBytes = 0 ∧
      32 * (arg94.len / (mxFmt (BitVec.toNat ext31.x0 / 2 ^ 20 % 16)).rowBytes) ≤ 4096) ∧
      (Claims.limit arg93.w < Claims.runCount (List.map (fun (i : Nat) => BitVec.ofNat 32 ((fun (i : Nat) => rne32 (Claims.blockElem (mxFmt (BitVec.toNat ext31.x0 / 2 ^ 20 % 16)) (List.map BitVec.toNat (elems arg94.runs)) i)) i).fst) (List.range (32 * (arg94.len / (mxFmt (BitVec.toNat ext31.x0 / 2 ^ 20 % 16)).rowBytes))))))
    ∧ ((mxFmt 8 : OpFmt) ∈ [mxFmt 3, mxFmt 4, mxFmt 5, mxFmt 6, mxFmt 7, mxFmt 8] ∧ (List.replicate 32 (.nan, true) : List (FV × Bool)).length = 32 ∧
      (∃ (y : FV × Bool), y ∈ (List.replicate 32 (.nan, true) : List (FV × Bool)) ∧ y.fst.isFin = false))
    ∧ ((mxFmt 3 : OpFmt) ∈ [mxFmt 3, mxFmt 4, mxFmt 5, mxFmt 6, mxFmt 7, mxFmt 8] ∧ arg95.length = 32 ∧
      (∀ (y : FV × Bool), y ∈ arg95 → y.fst.isFin = true)) :=
  ⟨⟨by first | decide | rfl, by first | decide | rfl, by unfold Claims.RunsOk; decide, by unfold Claims.RunsOk; decide, by simp only [readable_iff]; decide,
    by first | decide | rfl⟩,
   ⟨by first | decide | rfl, by first | decide | rfl, by unfold Claims.RunsOk; decide, by unfold Claims.RunsOk; decide, by simp only [readable_iff]; decide⟩,
   ⟨by first | decide | rfl, by first | decide | rfl, by unfold Claims.RunsOk; decide, by unfold Claims.RunsOk; decide, by simp only [readable_iff]; decide⟩,
   ⟨by first | decide | rfl, by first | decide | rfl, by unfold Claims.RunsOk; decide, by unfold Claims.RunsOk; decide, by simp only [readable_iff]; decide,
     by first | decide | rfl⟩,
   ⟨by first | decide | rfl, by first | decide | rfl, by first | decide | rfl⟩,
   ⟨by first | decide | rfl, by first | decide | rfl, by first | decide | rfl⟩⟩

end W6

/-! ### Witnesses, part 7 -/

namespace W7

def cl (op : LandOp) : Croft := { cm 1 with lands := [⟨6,4,2,.A,0,op,.snap t0 ⟨0,0,0⟩ .none⟩, ⟨7,5,2,.A,0,.nothing,.snap t0 ⟨0,0,0⟩ .none⟩], abs := vset c0.abs 3 ⟨2,1,5⟩, qv := vset c0.qv 1 [⟨7,none⟩], qg := [⟨8,none⟩], qc := [⟨9,none⟩], live := {kind := .window}, zclear := [(1,true),(5,true)] }
def pl (op : LandOp) : Pending := ⟨6,4,2,.A,0,op,.snap t0 ⟨0,0,0⟩ .none⟩
def rs : List Pending := [⟨7,5,2,.A,0,.nothing,.snap t0 ⟨0,0,0⟩ .none⟩]
def getD' (c : Option Croft) : Croft := c.getD c0
theorem some_getD' {c : Option Croft} (h : c.isSome = true) : c = some (getD' c) := by cases c <;> first | rfl | exact nomatch h
def lop (op : LandOp) : Croft := getD' (Claims.landed {cl op with lands := rs} op)
def clf (p : Pending) : Croft := { cm 1 with lands := [p] ++ rs }
def stepOf (s : State) : State := match exec (.resultLanding 0) s with | .next t => t | _ => s

def sta53 : State := st (cl (.nothing))
def pen0 : Pending := pl (.nothing)
def sta54 : State := st (cl (.setS 3 7))
def pen1 : Pending := pl (.setS 3 7)
def sta55 : State := st (cl (.setB 3 7))
def pen2 : Pending := pl (.setB 3 7)
def sta56 : State := st (cl (.pushA 6))
def pen3 : Pending := pl (.pushA 6)
def sta57 : State := st (cl (.pushS 6))
def pen4 : Pending := pl (.pushS 6)
def sta58 : State := st (cl (.setCr 3 0x1FF))
def pen5 : Pending := pl (.setCr 3 0x1FF)
def sta59 : State := st (cl (.setCr 7 9))
def pen6 : Pending := pl (.setCr 7 9)
def sta60 : State := st (cl (.setCr 11 9))
def pen7 : Pending := pl (.setCr 11 9)
def sta61 : State := st (cl (.setV false 3 32 ⟨⟨8,[⟨5,2⟩]⟩,none,3⟩))
def pen8 : Pending := pl (.setV false 3 32 ⟨⟨8,[⟨5,2⟩]⟩,none,3⟩)
def cft44 : Croft := lop (.setV false 3 32 ⟨⟨8,[⟨5,2⟩]⟩,none,3⟩)
def sta62 : State := st (cl (.setV true 2 6 ⟨⟨8,(List.range 70).map fun k => ⟨BitVec.ofNat 32 k,1⟩⟩,some ⟨10,(List.range 70).map fun k => ⟨BitVec.ofNat 32 k,1⟩⟩,4⟩))
def pen9 : Pending := pl (.setV true 2 6 ⟨⟨8,(List.range 70).map fun k => ⟨BitVec.ofNat 32 k,1⟩⟩,some ⟨10,(List.range 70).map fun k => ⟨BitVec.ofNat 32 k,1⟩⟩,4⟩)
def cft45 : Croft := lop (.setV true 2 6 ⟨⟨8,(List.range 70).map fun k => ⟨BitVec.ofNat 32 k,1⟩⟩,some ⟨10,(List.range 70).map fun k => ⟨BitVec.ofNat 32 k,1⟩⟩,4⟩)
def sta63 : State := st (cl (.vpop 4 1 (some ⟨8,[⟨5,2⟩]⟩)))
def pen10 : Pending := pl (.vpop 4 1 (some ⟨8,[⟨5,2⟩]⟩))
def sta64 : State := st (cl (.fill 0 9 77))
def pen11 : Pending := pl (.fill 0 9 77)
def sta65 : State := st (cl (.fillV 1 7 ⟨8,[⟨5,2⟩]⟩))
def pen12 : Pending := pl (.fillV 1 7 ⟨8,[⟨5,2⟩]⟩)
def sta66 : State := st (cl (.fillG 8 5))
def pen13 : Pending := pl (.fillG 8 5)
def sta67 : State := st (cl (.abInit 2 4))
def pen14 : Pending := pl (.abInit 2 4)
def sta68 : State := st (cl (.abExp 3 5))
def pen15 : Pending := pl (.abExp 3 5)
def sta69 : State := st (cl (.abArv 3 4))
def pen16 : Pending := pl (.abArv 3 4)
def sta70 : State := st (cl (.abArv 3 1))
def pen17 : Pending := pl (.abArv 3 1)
def sta71 : State := st (cl (.shadow 5 3))
def pen18 : Pending := pl (.shadow 5 3)
def sta72 : State := st (cl (.armReplay 8))
def pen19 : Pending := pl (.armReplay 8)
def sta73 : State := st (cl (.zeroLive true))
def pen20 : Pending := pl (.zeroLive true)
def sta74 : State := st (cl (.zeroLive false))
def pen21 : Pending := pl (.zeroLive false)
def sta75 : State := st (cl (.pushR [4,5]))
def pen22 : Pending := pl (.pushR [4,5])
def sta76 : State := st (cl (.store .sp 1020 [1,2,3,0,5,6,7,8]))
def cft46 : Croft := {cl (.store .sp 1020 [1,2,3,0,5,6,7,8]) with lands := rs}
def sta77 : State := st (cl (.store .acm 16384 [1,2,3,0,5,6,7,8]))
def cft47 : Croft := {cl (.store .acm 16384 [1,2,3,0,5,6,7,8]) with lands := rs}
def sta78 : State := st (cl (.atomSp 64 8 0 0x2200000000000011 0x8000000000000003 (some 9)))
def pen23 : Pending := pl (.atomSp 64 8 0 0x2200000000000011 0x8000000000000003 (some 9))
def cft48 : Croft := {cl (.atomSp 64 8 0 0x2200000000000011 0x8000000000000003 (some 9)) with lands := rs}
def arg96 : Nat := (Claims.atomic 64 0 (((cm 1).sp).le 64 8) 0x2200000000000011 0x8000000000000003).getD 0
def sta79 : State := st (cl (.atomSp 72 4 10 0 0x3F800000 (some 9)))
def cft49 : Croft := {cl (.atomSp 72 4 10 0 0x3F800000 (some 9)) with lands := rs}
def arg97 : Nat × Flags := rne32 (FV.add (fp32.value (((cm 1).sp).le 72 4)) (fp32.value (0x3F800000 % 2 ^ 32)))
def sta80 : State := st (cl (.zflags 0 2 [1]))
def sta81 : State := st (cl (.gates 2 31 true))
def sta82 : State := st (cl (.tile 15 (List.replicate 4095 3 ++ [5]) 77 3))
def pen24 : Pending := pl (.tile 15 (List.replicate 4095 3 ++ [5]) 77 3)
def cft50 : Croft := {cl (.tile 15 (List.replicate 4095 3 ++ [5]) 77 3) with lands := rs}
def sta83 : State := st (cl (.zeroTile 1))
def sta84 : State := st (cl (.wrow 1 0 (some 8) (List.replicate 63 0xFFFFFFFF ++ [5])))
def pen25 : Pending := pl (.wrow 1 0 (some 8) (List.replicate 63 0xFFFFFFFF ++ [5]))
def cft51 : Croft := {cl (.wrow 1 0 (some 8) (List.replicate 63 0xFFFFFFFF ++ [5])) with lands := rs}
def sta85 : State := st (cl (.wrow 1 0 (some 0) (List.replicate 63 0x3F800000 ++ [5])))
def pen26 : Pending := pl (.wrow 1 0 (some 0) (List.replicate 63 0x3F800000 ++ [5]))
def cft52 : Croft := {cl (.wrow 1 0 (some 0) (List.replicate 63 0x3F800000 ++ [5])) with lands := rs}
def sta86 : State := st (cl (.map 640 (List.replicate 72 9) [4,5]))
def cft53 : Croft := {cl (.map 640 (List.replicate 72 9) [4,5]) with lands := rs}
def sta87 : State := st {cl (.vfault .lenmis) with handler := 2^16+40, lands := [pl (.vfault .lenmis)]}
def sta88 : State := st {cl (.vpop 1 0 none) with handler := 2^16+40, lands := [pl (.vpop 1 0 none)]}
def sta89 : State := st {cl (.abInit 15 0) with handler := 2^16+40, lands := [pl (.abInit 15 0)]}
def sta90 : State := st {cl (.abExp 2 1) with handler := 2^16+40, lands := [pl (.abExp 2 1)]}
def sta91 : State := st {cl (.abExp 3 (2^20-1)) with handler := 2^16+40, lands := [pl (.abExp 3 (2^20-1))]}
def sta92 : State := st {cl (.abArv 0 1) with handler := 2^16+40, lands := [pl (.abArv 0 1)]}
def sta93 : State := st (cl (.setS 1 2))
def pen27 : Pending := pl (.setS 1 2)

/-- ResultLandings: hypotheses that can be met, clause by clause. -/
theorem test_witness_ResultLandings :
    (sta53.power = true ∧ (sta53.croft 0).lands = pen0 :: rs ∧ pen0.due ≤ (sta53.croft 0).landLimit ∧
      (∀ (v : Word64), pen0.op = LandOp.pushS v → (sta53.croft 0).vpush = none) ∧
      Claims.landed (({ sta53.croft 0 with lands := rs } : Croft)) pen0.op = some (lop (.nothing) : Croft))
    ∧ (sta54.power = true ∧ (sta54.croft 0).lands = pen1 :: rs ∧ pen1.due ≤ (sta54.croft 0).landLimit ∧
      (∀ (v : Word64), pen1.op = LandOp.pushS v → (sta54.croft 0).vpush = none) ∧
      Claims.landed (({ sta54.croft 0 with lands := rs } : Croft)) pen1.op = some (lop (.setS 3 7) : Croft))
    ∧ (sta55.power = true ∧ (sta55.croft 0).lands = pen2 :: rs ∧ pen2.due ≤ (sta55.croft 0).landLimit ∧
      (∀ (v : Word64), pen2.op = LandOp.pushS v → (sta55.croft 0).vpush = none) ∧
      Claims.landed (({ sta55.croft 0 with lands := rs } : Croft)) pen2.op = some (lop (.setB 3 7) : Croft))
    ∧ (sta56.power = true ∧ (sta56.croft 0).lands = pen3 :: rs ∧ pen3.due ≤ (sta56.croft 0).landLimit ∧
      (∀ (v : Word64), pen3.op = LandOp.pushS v → (sta56.croft 0).vpush = none) ∧
      Claims.landed (({ sta56.croft 0 with lands := rs } : Croft)) pen3.op = some (lop (.pushA 6) : Croft))
    ∧ (sta57.power = true ∧ (sta57.croft 0).lands = pen4 :: rs ∧ pen4.due ≤ (sta57.croft 0).landLimit ∧
      (∀ (v : Word64), pen4.op = LandOp.pushS v → (sta57.croft 0).vpush = none) ∧
      Claims.landed (({ sta57.croft 0 with lands := rs } : Croft)) pen4.op = some (lop (.pushS 6) : Croft))
    ∧ (sta58.power = true ∧ (sta58.croft 0).lands = pen5 :: rs ∧ pen5.due ≤ (sta58.croft 0).landLimit ∧
      (∀ (v : Word64), pen5.op = LandOp.pushS v → (sta58.croft 0).vpush = none) ∧
      Claims.landed (({ sta58.croft 0 with lands := rs } : Croft)) pen5.op = some (lop (.setCr 3 0x1FF) : Croft))
    ∧ (sta59.power = true ∧ (sta59.croft 0).lands = pen6 :: rs ∧ pen6.due ≤ (sta59.croft 0).landLimit ∧
      (∀ (v : Word64), pen6.op = LandOp.pushS v → (sta59.croft 0).vpush = none) ∧
      Claims.landed (({ sta59.croft 0 with lands := rs } : Croft)) pen6.op = some (lop (.setCr 7 9) : Croft))
    ∧ (sta60.power = true ∧ (sta60.croft 0).lands = pen7 :: rs ∧ pen7.due ≤ (sta60.croft 0).landLimit ∧
      (∀ (v : Word64), pen7.op = LandOp.pushS v → (sta60.croft 0).vpush = none) ∧
      Claims.landed (({ sta60.croft 0 with lands := rs } : Croft)) pen7.op = some (lop (.setCr 11 9) : Croft))
    ∧ (sta61.power = true ∧ (sta61.croft 0).lands = pen8 :: rs ∧ pen8.due ≤ (sta61.croft 0).landLimit ∧
      (∀ (v : Word64), pen8.op = LandOp.pushS v → (sta61.croft 0).vpush = none) ∧
      Claims.landed (({ sta61.croft 0 with lands := rs } : Croft)) pen8.op = some cft44)
    ∧ (sta62.power = true ∧ (sta62.croft 0).lands = pen9 :: rs ∧ pen9.due ≤ (sta62.croft 0).landLimit ∧
      (∀ (v : Word64), pen9.op = LandOp.pushS v → (sta62.croft 0).vpush = none) ∧
      Claims.landed (({ sta62.croft 0 with lands := rs } : Croft)) pen9.op = some cft45)
    ∧ (sta63.power = true ∧ (sta63.croft 0).lands = pen10 :: rs ∧ pen10.due ≤ (sta63.croft 0).landLimit ∧
      (∀ (v : Word64), pen10.op = LandOp.pushS v → (sta63.croft 0).vpush = none) ∧
      Claims.landed (({ sta63.croft 0 with lands := rs } : Croft)) pen10.op = some (lop (.vpop 4 1 (some ⟨8,[⟨5,2⟩]⟩)) : Croft))
    ∧ (sta64.power = true ∧ (sta64.croft 0).lands = pen11 :: rs ∧ pen11.due ≤ (sta64.croft 0).landLimit ∧
      (∀ (v : Word64), pen11.op = LandOp.pushS v → (sta64.croft 0).vpush = none) ∧
      Claims.landed (({ sta64.croft 0 with lands := rs } : Croft)) pen11.op = some (lop (.fill 0 9 77) : Croft))
    ∧ (sta65.power = true ∧ (sta65.croft 0).lands = pen12 :: rs ∧ pen12.due ≤ (sta65.croft 0).landLimit ∧
      (∀ (v : Word64), pen12.op = LandOp.pushS v → (sta65.croft 0).vpush = none) ∧
      Claims.landed (({ sta65.croft 0 with lands := rs } : Croft)) pen12.op = some (lop (.fillV 1 7 ⟨8,[⟨5,2⟩]⟩) : Croft))
    ∧ (sta66.power = true ∧ (sta66.croft 0).lands = pen13 :: rs ∧ pen13.due ≤ (sta66.croft 0).landLimit ∧
      (∀ (v : Word64), pen13.op = LandOp.pushS v → (sta66.croft 0).vpush = none) ∧
      Claims.landed (({ sta66.croft 0 with lands := rs } : Croft)) pen13.op = some (lop (.fillG 8 5) : Croft))
    ∧ (sta67.power = true ∧ (sta67.croft 0).lands = pen14 :: rs ∧ pen14.due ≤ (sta67.croft 0).landLimit ∧
      (∀ (v : Word64), pen14.op = LandOp.pushS v → (sta67.croft 0).vpush = none) ∧
      Claims.landed (({ sta67.croft 0 with lands := rs } : Croft)) pen14.op = some (lop (.abInit 2 4) : Croft))
    ∧ (sta68.power = true ∧ (sta68.croft 0).lands = pen15 :: rs ∧ pen15.due ≤ (sta68.croft 0).landLimit ∧
      (∀ (v : Word64), pen15.op = LandOp.pushS v → (sta68.croft 0).vpush = none) ∧
      Claims.landed (({ sta68.croft 0 with lands := rs } : Croft)) pen15.op = some (lop (.abExp 3 5) : Croft))
    ∧ (sta69.power = true ∧ (sta69.croft 0).lands = pen16 :: rs ∧ pen16.due ≤ (sta69.croft 0).landLimit ∧
      (∀ (v : Word64), pen16.op = LandOp.pushS v → (sta69.croft 0).vpush = none) ∧
      Claims.landed (({ sta69.croft 0 with lands := rs } : Croft)) pen16.op = some (lop (.abArv 3 4) : Croft))
    ∧ (sta70.power = true ∧ (sta70.croft 0).lands = pen17 :: rs ∧ pen17.due ≤ (sta70.croft 0).landLimit ∧
      (∀ (v : Word64), pen17.op = LandOp.pushS v → (sta70.croft 0).vpush = none) ∧
      Claims.landed (({ sta70.croft 0 with lands := rs } : Croft)) pen17.op = some (lop (.abArv 3 1) : Croft))
    ∧ (sta71.power = true ∧ (sta71.croft 0).lands = pen18 :: rs ∧ pen18.due ≤ (sta71.croft 0).landLimit ∧
      (∀ (v : Word64), pen18.op = LandOp.pushS v → (sta71.croft 0).vpush = none) ∧
      Claims.landed (({ sta71.croft 0 with lands := rs } : Croft)) pen18.op = some (lop (.shadow 5 3) : Croft))
    ∧ (sta72.power = true ∧ (sta72.croft 0).lands = pen19 :: rs ∧ pen19.due ≤ (sta72.croft 0).landLimit ∧
      (∀ (v : Word64), pen19.op = LandOp.pushS v → (sta72.croft 0).vpush = none) ∧
      Claims.landed (({ sta72.croft 0 with lands := rs } : Croft)) pen19.op = some (lop (.armReplay 8) : Croft))
    ∧ (sta73.power = true ∧ (sta73.croft 0).lands = pen20 :: rs ∧ pen20.due ≤ (sta73.croft 0).landLimit ∧
      (∀ (v : Word64), pen20.op = LandOp.pushS v → (sta73.croft 0).vpush = none) ∧
      Claims.landed (({ sta73.croft 0 with lands := rs } : Croft)) pen20.op = some (lop (.zeroLive true) : Croft))
    ∧ (sta74.power = true ∧ (sta74.croft 0).lands = pen21 :: rs ∧ pen21.due ≤ (sta74.croft 0).landLimit ∧
      (∀ (v : Word64), pen21.op = LandOp.pushS v → (sta74.croft 0).vpush = none) ∧
      Claims.landed (({ sta74.croft 0 with lands := rs } : Croft)) pen21.op = some (lop (.zeroLive false) : Croft))
    ∧ (sta75.power = true ∧ (sta75.croft 0).lands = pen22 :: rs ∧ pen22.due ≤ (sta75.croft 0).landLimit ∧
      (∀ (v : Word64), pen22.op = LandOp.pushS v → (sta75.croft 0).vpush = none) ∧
      Claims.landed (({ sta75.croft 0 with lands := rs } : Croft)) pen22.op = some (lop (.pushR [4,5]) : Croft)) :=
  ⟨⟨by first | decide | rfl, by first | decide | rfl, by first | decide | rfl, (fun _ _ => by decide), some_getD' (by decide)⟩,
   ⟨by first | decide | rfl, by first | decide | rfl, by first | decide | rfl, (fun _ _ => by decide), some_getD' (by decide)⟩,
   ⟨by first | decide | rfl, by first | decide | rfl, by first | decide | rfl, (fun _ _ => by decide), some_getD' (by decide)⟩,
   ⟨by first | decide | rfl, by first | decide | rfl, by first | decide | rfl, (fun _ _ => by decide), some_getD' (by decide)⟩,
   ⟨by first | decide | rfl, by first | decide | rfl, by first | decide | rfl, (fun _ _ => by decide), some_getD' (by decide)⟩,
   ⟨by first | decide | rfl, by first | decide | rfl, by first | decide | rfl, (fun _ _ => by decide), some_getD' (by decide)⟩,
   ⟨by first | decide | rfl, by first | decide | rfl, by first | decide | rfl, (fun _ _ => by decide), some_getD' (by decide)⟩,
   ⟨by first | decide | rfl, by first | decide | rfl, by first | decide | rfl, (fun _ _ => by decide), some_getD' (by decide)⟩,
   ⟨by first | decide | rfl, by first | decide | rfl, by first | decide | rfl, (fun _ _ => by decide), some_getD' (by decide)⟩,
   ⟨by first | decide | rfl, by first | decide | rfl, by first | decide | rfl, (fun _ _ => by decide), some_getD' (by decide)⟩,
   ⟨by first | decide | rfl, by first | decide | rfl, by first | decide | rfl, (fun _ _ => by decide), some_getD' (by decide)⟩,
   ⟨by first | decide | rfl, by first | decide | rfl, by first | decide | rfl, (fun _ _ => by decide), some_getD' (by decide)⟩,
   ⟨by first | decide | rfl, by first | decide | rfl, by first | decide | rfl, (fun _ _ => by decide), some_getD' (by decide)⟩,
   ⟨by first | decide | rfl, by first | decide | rfl, by first | decide | rfl, (fun _ _ => by decide), some_getD' (by decide)⟩,
   ⟨by first | decide | rfl, by first | decide | rfl, by first | decide | rfl, (fun _ _ => by decide), some_getD' (by decide)⟩,
   ⟨by first | decide | rfl, by first | decide | rfl, by first | decide | rfl, (fun _ _ => by decide), some_getD' (by decide)⟩,
   ⟨by first | decide | rfl, by first | decide | rfl, by first | decide | rfl, (fun _ _ => by decide), some_getD' (by decide)⟩,
   ⟨by first | decide | rfl, by first | decide | rfl, by first | decide | rfl, (fun _ _ => by decide), some_getD' (by decide)⟩,
   ⟨by first | decide | rfl, by first | decide | rfl, by first | decide | rfl, (fun _ _ => by decide), some_getD' (by decide)⟩,
   ⟨by first | decide | rfl, by first | decide | rfl, by first | decide | rfl, (fun _ _ => by decide), some_getD' (by decide)⟩,
   ⟨by first | decide | rfl, by first | decide | rfl, by first | decide | rfl, (fun _ _ => by decide), some_getD' (by decide)⟩,
   ⟨by first | decide | rfl, by first | decide | rfl, by first | decide | rfl, (fun _ _ => by decide), some_getD' (by decide)⟩,
   ⟨by first | decide | rfl, by first | decide | rfl, by first | decide | rfl, (fun _ _ => by decide), some_getD' (by decide)⟩⟩

/-- MemoryLandings: hypotheses that can be met, clause by clause. -/
theorem test_witness_MemoryLandings :
    (sta76.power = true ∧ (sta76.croft 0).lands = (pl (.store .sp 1020 [1,2,3,0,5,6,7,8]) : Pending) :: rs ∧
      (pl (.store .sp 1020 [1,2,3,0,5,6,7,8]) : Pending).due ≤ (sta76.croft 0).landLimit ∧ cft46 = ({ sta76.croft 0 with lands := rs } : Croft) ∧
      Claims.LandingForm cft46 ∧ (pl (.store .sp 1020 [1,2,3,0,5,6,7,8]) : Pending).op = LandOp.store Space.sp 1020 ([1,2,3,0,5,6,7,8] : List Byte))
    ∧ (sta77.power = true ∧ (sta77.croft 0).lands = (pl (.store .acm 16384 [1,2,3,0,5,6,7,8]) : Pending) :: rs ∧
      (pl (.store .acm 16384 [1,2,3,0,5,6,7,8]) : Pending).due ≤ (sta77.croft 0).landLimit ∧ cft47 = ({ sta77.croft 0 with lands := rs } : Croft) ∧
      Claims.LandingForm cft47 ∧ (pl (.store .acm 16384 [1,2,3,0,5,6,7,8]) : Pending).op = LandOp.store Space.acm 16384 ([1,2,3,0,5,6,7,8] : List Byte))
    ∧ (sta78.power = true ∧ (sta78.croft 0).lands = pen23 :: rs ∧ pen23.due ≤ (sta78.croft 0).landLimit ∧
      cft48 = ({ sta78.croft 0 with lands := rs } : Croft) ∧ Claims.LandingForm cft48 ∧
      pen23.op = LandOp.atomSp 64 8 0 2449958197289549841 9223372036854775811 (some 9 : Option Nat) ∧
      Claims.atomic (8 * 8) 0 (cft48.sp.le 64 8) ((2449958197289549841 : Word64).toNat) ((9223372036854775811 : Word64).toNat) = some arg96)
    ∧ (sta79.power = true ∧ (sta79.croft 0).lands = (pl (.atomSp 72 4 10 0 0x3F800000 (some 9)) : Pending) :: rs ∧
      (pl (.atomSp 72 4 10 0 0x3F800000 (some 9)) : Pending).due ≤ (sta79.croft 0).landLimit ∧ cft49 = ({ sta79.croft 0 with lands := rs } : Croft) ∧
      Claims.LandingForm cft49 ∧ (pl (.atomSp 72 4 10 0 0x3F800000 (some 9)) : Pending).op = LandOp.atomSp 72 4 10 0 1065353216 (some 9 : Option Nat) ∧
      arg97 = rne32 ((fp32.value (cft49.sp.le 72 4)).add (fp32.value ((1065353216 : Word64).toNat % 2 ^ 32))))
    ∧ (sta80.power = true ∧ (sta80.croft 0).lands = (pl (.zflags 0 2 [1]) : Pending) :: rs ∧
      (pl (.zflags 0 2 [1]) : Pending).due ≤ (sta80.croft 0).landLimit ∧
      ({cl (.zflags 0 2 [1]) with lands := rs} : Croft) = ({ sta80.croft 0 with lands := rs } : Croft) ∧
      Claims.LandingForm ({cl (.zflags 0 2 [1]) with lands := rs} : Croft) ∧ (pl (.zflags 0 2 [1]) : Pending).op = LandOp.zflags 0 2 ([1] : List Nat))
    ∧ (sta81.power = true ∧ (sta81.croft 0).lands = (pl (.gates 2 31 true) : Pending) :: rs ∧
      (pl (.gates 2 31 true) : Pending).due ≤ (sta81.croft 0).landLimit ∧
      ({cl (.gates 2 31 true) with lands := rs} : Croft) = ({ sta81.croft 0 with lands := rs } : Croft) ∧
      Claims.LandingForm ({cl (.gates 2 31 true) with lands := rs} : Croft) ∧ (pl (.gates 2 31 true) : Pending).op = LandOp.gates 2 31 true)
    ∧ (sta82.power = true ∧ (sta82.croft 0).lands = pen24 :: rs ∧ pen24.due ≤ (sta82.croft 0).landLimit ∧
      cft50 = ({ sta82.croft 0 with lands := rs } : Croft) ∧ Claims.LandingForm cft50 ∧
      pen24.op = LandOp.tile 15 (List.replicate 4095 3 ++ [5] : List (BitVec 32)) 77 3 ∧ (List.replicate 4095 3 ++ [5] : List (BitVec 32)).length = 4096 ∧
      15 < 16)
    ∧ (sta83.power = true ∧ (sta83.croft 0).lands = (pl (.zeroTile 1) : Pending) :: rs ∧ (pl (.zeroTile 1) : Pending).due ≤ (sta83.croft 0).landLimit ∧
      ({cl (.zeroTile 1) with lands := rs} : Croft) = ({ sta83.croft 0 with lands := rs } : Croft) ∧
      Claims.LandingForm ({cl (.zeroTile 1) with lands := rs} : Croft) ∧ (pl (.zeroTile 1) : Pending).op = LandOp.zeroTile 1)
    ∧ (sta84.power = true ∧ (sta84.croft 0).lands = pen25 :: rs ∧ pen25.due ≤ (sta84.croft 0).landLimit ∧
      cft51 = ({ sta84.croft 0 with lands := rs } : Croft) ∧ Claims.LandingForm cft51 ∧
      pen25.op = LandOp.wrow 1 0 (some 8 : Option Nat) (List.replicate 63 0xFFFFFFFF ++ [5] : List (BitVec 32)) ∧
      (List.replicate 63 0xFFFFFFFF ++ [5] : List (BitVec 32)).length = 64 ∧ (some 8 : Option Nat) ≠ some 0)
    ∧ (sta85.power = true ∧ (sta85.croft 0).lands = pen26 :: rs ∧ pen26.due ≤ (sta85.croft 0).landLimit ∧
      cft52 = ({ sta85.croft 0 with lands := rs } : Croft) ∧ Claims.LandingForm cft52 ∧
      pen26.op = LandOp.wrow 1 0 (some 0) (List.replicate 63 0x3F800000 ++ [5] : List (BitVec 32)) ∧
      (List.replicate 63 0x3F800000 ++ [5] : List (BitVec 32)).length = 64)
    ∧ (sta86.power = true ∧ (sta86.croft 0).lands = (pl (.map 640 (List.replicate 72 9) [4,5]) : Pending) :: rs ∧
      (pl (.map 640 (List.replicate 72 9) [4,5]) : Pending).due ≤ (sta86.croft 0).landLimit ∧ cft53 = ({ sta86.croft 0 with lands := rs } : Croft) ∧
      Claims.LandingForm cft53 ∧
      (pl (.map 640 (List.replicate 72 9) [4,5]) : Pending).op = LandOp.map 640 (List.replicate 72 9 : List Byte) ([4,5] : List Word64)) :=
  ⟨⟨by first | decide | rfl, by first | decide | rfl, by first | decide | rfl, by first | decide | rfl, landingForm_of (by decide) (by decide) (by decide),
    by first | decide | rfl⟩,
   ⟨by first | decide | rfl, by first | decide | rfl, by first | decide | rfl, by first | decide | rfl, landingForm_of (by decide) (by decide) (by decide),
     by first | decide | rfl⟩,
   ⟨by first | decide | rfl, by first | decide | rfl, by first | decide | rfl, by first | decide | rfl, landingForm_of (by decide) (by decide) (by decide),
     by first | decide | rfl, by first | decide | rfl⟩,
   ⟨by first | decide | rfl, by first | decide | rfl, by first | decide | rfl, by first | decide | rfl, landingForm_of (by decide) (by decide) (by decide),
     by first | decide | rfl, by first | decide | rfl⟩,
   ⟨by first | decide | rfl, by first | decide | rfl, by first | decide | rfl, by first | decide | rfl, landingForm_of (by decide) (by decide) (by decide),
     by first | decide | rfl⟩,
   ⟨by first | decide | rfl, by first | decide | rfl, by first | decide | rfl, by first | decide | rfl, landingForm_of (by decide) (by decide) (by decide),
     by first | decide | rfl⟩,
   ⟨by first | decide | rfl, by first | decide | rfl, by first | decide | rfl, by first | decide | rfl, landingForm_of (by decide) (by decide) (by decide),
     by first | decide | rfl, by first | decide | rfl, by first | decide | rfl⟩,
   ⟨by first | decide | rfl, by first | decide | rfl, by first | decide | rfl, by first | decide | rfl, landingForm_of (by decide) (by decide) (by decide),
     by first | decide | rfl⟩,
   ⟨by first | decide | rfl, by first | decide | rfl, by first | decide | rfl, by first | decide | rfl, landingForm_of (by decide) (by decide) (by decide),
     by first | decide | rfl, by first | decide | rfl, by first | decide | rfl⟩,
   ⟨by first | decide | rfl, by first | decide | rfl, by first | decide | rfl, by first | decide | rfl, landingForm_of (by decide) (by decide) (by decide),
     by first | decide | rfl, by first | decide | rfl⟩,
   ⟨by first | decide | rfl, by first | decide | rfl, by first | decide | rfl, by first | decide | rfl, landingForm_of (by decide) (by decide) (by decide),
     by first | decide | rfl⟩⟩

/-- LandingFaults: hypotheses that can be met, clause by clause. -/
theorem test_witness_LandingFaults :
    (sta87.power = true ∧ (sta87.croft 0).lands = [(pl (.vfault .lenmis) : Pending)] ∧ (pl (.vfault .lenmis) : Pending).due ≤ (sta87.croft 0).atVc ∧
      (sta87.croft 0).mode = Mode.fixed ∧ Claims.Handles (sta87.croft 0) ∧
      Claims.landingFault (sta87.croft 0) (pl (.vfault .lenmis) : Pending).op = some ({code := .lenmis} : Flt) ∧ ({code := .lenmis} : Flt).code ≠ FCode.trap)
    ∧ (sta88.power = true ∧ (sta88.croft 0).lands = [(pl (.vpop 1 0 none) : Pending)] ∧ (pl (.vpop 1 0 none) : Pending).due ≤ (sta88.croft 0).atVc ∧
      (sta88.croft 0).mode = Mode.fixed ∧ Claims.Handles (sta88.croft 0) ∧
      Claims.landingFault (sta88.croft 0) (pl (.vpop 1 0 none) : Pending).op = some ({code := .runovf} : Flt) ∧ ({code := .runovf} : Flt).code ≠ FCode.trap)
    ∧ (sta89.power = true ∧ (sta89.croft 0).lands = [(pl (.abInit 15 0) : Pending)] ∧ (pl (.abInit 15 0) : Pending).due ≤ (sta89.croft 0).atVc ∧
      (sta89.croft 0).mode = Mode.fixed ∧ Claims.Handles (sta89.croft 0) ∧
      Claims.landingFault (sta89.croft 0) (pl (.abInit 15 0) : Pending).op = some ({code := .abovf, aux := 15} : Flt) ∧
      ({code := .abovf, aux := 15} : Flt).code ≠ FCode.trap)
    ∧ (sta90.power = true ∧ (sta90.croft 0).lands = [(pl (.abExp 2 1) : Pending)] ∧ (pl (.abExp 2 1) : Pending).due ≤ (sta90.croft 0).atVc ∧
      (sta90.croft 0).mode = Mode.fixed ∧ Claims.Handles (sta90.croft 0) ∧
      Claims.landingFault (sta90.croft 0) (pl (.abExp 2 1) : Pending).op = some ({code := .abovf, aux := 2} : Flt) ∧
      ({code := .abovf, aux := 2} : Flt).code ≠ FCode.trap)
    ∧ (sta91.power = true ∧ (sta91.croft 0).lands = [(pl (.abExp 3 (2^20-1)) : Pending)] ∧ (pl (.abExp 3 (2^20-1)) : Pending).due ≤ (sta91.croft 0).atVc ∧
      (sta91.croft 0).mode = Mode.fixed ∧ Claims.Handles (sta91.croft 0) ∧
      Claims.landingFault (sta91.croft 0) (pl (.abExp 3 (2^20-1)) : Pending).op = some ({code := .abovf, aux := 3} : Flt) ∧
      ({code := .abovf, aux := 3} : Flt).code ≠ FCode.trap)
    ∧ (sta92.power = true ∧ (sta92.croft 0).lands = [(pl (.abArv 0 1) : Pending)] ∧ (pl (.abArv 0 1) : Pending).due ≤ (sta92.croft 0).atVc ∧
      (sta92.croft 0).mode = Mode.fixed ∧ Claims.Handles (sta92.croft 0) ∧
      Claims.landingFault (sta92.croft 0) (pl (.abArv 0 1) : Pending).op = some ({code := .abovf, aux := 0} : Flt) ∧
      ({code := .abovf, aux := 0} : Flt).code ≠ FCode.trap) :=
  ⟨⟨by first | decide | rfl, by first | decide | rfl, by first | decide | rfl, by first | decide | rfl, ⟨by decide, by decide, by decide, by decide,
    by decide⟩, by first | decide | rfl, by first | decide | rfl⟩,
   ⟨by first | decide | rfl, by first | decide | rfl, by first | decide | rfl, by first | decide | rfl, ⟨by decide, by decide, by decide, by decide,
     by decide⟩, by first | decide | rfl, by first | decide | rfl⟩,
   ⟨by first | decide | rfl, by first | decide | rfl, by first | decide | rfl, by first | decide | rfl, ⟨by decide, by decide, by decide, by decide,
     by decide⟩, by first | decide | rfl, by first | decide | rfl⟩,
   ⟨by first | decide | rfl, by first | decide | rfl, by first | decide | rfl, by first | decide | rfl, ⟨by decide, by decide, by decide, by decide,
     by decide⟩, by first | decide | rfl, by first | decide | rfl⟩,
   ⟨by first | decide | rfl, by first | decide | rfl, by first | decide | rfl, by first | decide | rfl, ⟨by decide, by decide, by decide, by decide,
     by decide⟩, by first | decide | rfl, by first | decide | rfl⟩,
   ⟨by first | decide | rfl, by first | decide | rfl, by first | decide | rfl, by first | decide | rfl, ⟨by decide, by decide, by decide, by decide,
     by decide⟩, by first | decide | rfl, by first | decide | rfl⟩⟩

/-- LandingList: hypotheses that can be met, clause by clause. -/
theorem test_witness_LandingList :
    (List.Pairwise Claims.LandsBefore (cl (.setS 1 2) : Croft).lands)
    ∧ (Claims.LandingForm (sta93.croft 0) ∧ (sta93.croft 0).lands = pen27 :: rs ∧ pen27.due ≤ (sta93.croft 0).landLimit ∧
      (∀ (v : Word64), pen27.op = LandOp.pushS v → (sta93.croft 0).vpush = none) ∧ pen27.op ≠ LandOp.nest ∧
      Claims.landingFault (sta93.croft 0) pen27.op = none ∧ exec (Instr.resultLanding 0) sta93 = Host.Outcome.next (stepOf (st (cl (.setS 1 2))) : State)) :=
  ⟨.cons (fun q h => .inl (by rw [List.mem_singleton.mp h]; decide)) (.cons (fun q h => absurd h List.not_mem_nil) .nil),
   ⟨landingForm_of (by decide) (by decide) (by decide), by first | decide | rfl, by first | decide | rfl, (fun _ _ => by decide), by first | decide | rfl,
     by first | decide | rfl, by first | decide | rfl⟩⟩

end W7

/-! ### Witnesses, part 7b -/

namespace W7B

def pl (op : LandOp) : Pending := ⟨6,4,2,.A,0,op,.snap t0 ⟨0,0,0⟩ .none⟩
def rs : List Pending := [⟨7,5,2,.A,0,.nothing,.snap t0 ⟨0,0,0⟩ .none⟩]
def cz : Croft := { cm 1 with lands := [pl (.setS 3 7)] ++ rs }
def cz1 : Croft := {cz with freeze := {ecc := true}}
def cz2 : Croft := {cz with freeze := {svc := some (0,0,0,0)}, mode := .score}
def cz3 : Croft := {cz with freeze := {held := some ⟨.access 0,[0],[],0,0⟩}, frame := cr.frame, budget := some ⟨0,0,0,0,0,0⟩}
def cz4 : Croft := {cz with owner := none, draining := some ⟨0,0,.bad .illop 0⟩, zeroing := true}
def cz5 : Croft := {cz with nest := some {kind := .lowr 8, live := {}, fa := 0, fb := 0, abase := 0, bbase := 0, packed := false, chain := [], table := [], steps := 1, len := 1}, budget := some ⟨0,5,0,0,0,0⟩}
def cg2 : Croft := {cz with lands := [pl (.gates 0 7 true)], gates := vset (vset (vset c0.gates 1 .waking) 2 .falling) 3 .down}
def cg3 : Croft := {cz with lands := [pl (.gates 0 7 false)], gates := vset (vset (vset c0.gates 1 .waking) 2 .falling) 3 .down}

def sta94 : State := st cz1
def pen28 : Pending := pl (.setS 3 7)
def sta95 : State := st cz2
def sta96 : State := st cz3
def sta97 : State := st cz4
def sta98 : State := st cz5
def sta99 : State := {st cz5 with crofts := [(3,cz5)]}

/-- ResultLandings: hypotheses that can be met, clause by clause. -/
theorem test_witness_ResultLandings :
    (sta94.power = true ∧ (sta94.croft 0).lands = pen28 :: rs ∧ pen28.due ≤ (sta94.croft 0).landLimit ∧
      (∀ (v : Word64), pen28.op = LandOp.pushS v → (sta94.croft 0).vpush = none) ∧
      Claims.landed (({ sta94.croft 0 with lands := rs } : Croft)) pen28.op = some ({cz1 with lands := rs, s := vset c0.s 3 7} : Croft))
    ∧ (sta95.power = true ∧ (sta95.croft 0).lands = pen28 :: rs ∧ pen28.due ≤ (sta95.croft 0).landLimit ∧
      (∀ (v : Word64), pen28.op = LandOp.pushS v → (sta95.croft 0).vpush = none) ∧
      Claims.landed (({ sta95.croft 0 with lands := rs } : Croft)) pen28.op = some ({cz2 with lands := rs, s := vset c0.s 3 7} : Croft))
    ∧ (sta96.power = true ∧ (sta96.croft 0).lands = pen28 :: rs ∧ pen28.due ≤ (sta96.croft 0).landLimit ∧
      (∀ (v : Word64), pen28.op = LandOp.pushS v → (sta96.croft 0).vpush = none) ∧
      Claims.landed (({ sta96.croft 0 with lands := rs } : Croft)) pen28.op = some ({cz3 with lands := rs, s := vset c0.s 3 7} : Croft))
    ∧ (sta97.power = true ∧ (sta97.croft 0).lands = pen28 :: rs ∧ pen28.due ≤ (sta97.croft 0).landLimit ∧
      (∀ (v : Word64), pen28.op = LandOp.pushS v → (sta97.croft 0).vpush = none) ∧
      Claims.landed (({ sta97.croft 0 with lands := rs } : Croft)) pen28.op = some ({cz4 with lands := rs, s := vset c0.s 3 7} : Croft))
    ∧ (sta98.power = true ∧ (sta98.croft 0).lands = pen28 :: rs ∧ pen28.due ≤ (sta98.croft 0).landLimit ∧
      (∀ (v : Word64), pen28.op = LandOp.pushS v → (sta98.croft 0).vpush = none) ∧
      Claims.landed (({ sta98.croft 0 with lands := rs } : Croft)) pen28.op = some ({cz5 with lands := rs, s := vset c0.s 3 7} : Croft))
    ∧ (sta99.power = true ∧ (sta99.croft 3).lands = pen28 :: rs ∧ pen28.due ≤ (sta99.croft 3).landLimit ∧
      (∀ (v : Word64), pen28.op = LandOp.pushS v → (sta99.croft 3).vpush = none) ∧
      Claims.landed (({ sta99.croft 3 with lands := rs } : Croft)) pen28.op = some ({cz5 with lands := rs, s := vset c0.s 3 7} : Croft)) :=
  ⟨⟨by first | decide | rfl, by first | decide | rfl, by first | decide | rfl, (fun _ _ => by decide), by first | decide | rfl⟩,
   ⟨by first | decide | rfl, by first | decide | rfl, by first | decide | rfl, (fun _ _ => by decide), by first | decide | rfl⟩,
   ⟨by first | decide | rfl, by first | decide | rfl, by first | decide | rfl, (fun _ _ => by decide), by first | decide | rfl⟩,
   ⟨by first | decide | rfl, by first | decide | rfl, by first | decide | rfl, (fun _ _ => by decide), by first | decide | rfl⟩,
   ⟨by first | decide | rfl, by first | decide | rfl, by first | decide | rfl, (fun _ _ => by decide), by first | decide | rfl⟩,
   ⟨by first | decide | rfl, by first | decide | rfl, by first | decide | rfl, (fun _ _ => by decide), by first | decide | rfl⟩⟩

end W7B

/-! ### Witnesses, part 8 -/

namespace W8

def s0 : State := {st c0 with seqs := [(0,5),(128,6)], opKeys := [[1],[2]]}
def s0k : State := {s0 with opKeys := []}
def mA (op seq : Nat) (p : List Byte) := msg none op seq p
def mO (op seq : Nat) (p : List Byte) := msg (some 0) op seq p
def fl : List Byte := [9,0,0,0,0,0,0,0]
def ok1 : List Byte := List.replicate 32 3 ++ [1] ++ List.replicate 7 0
def ok0 : List Byte := List.replicate 32 3 ++ [0] ++ List.replicate 7 0
def rv : List Byte := [0,0,0,0,0,0,0,0]
def sr : State := { s0 with saved := [(0,⟨0,1,c0,[]⟩),(1,⟨1,2,c0,[]⟩)], spilled := [⟨0,[(0,0)],[],[]⟩,⟨1,[(8192,0)],[],[3]⟩], launches := [lch, {lch with num := 8, owner := 1}], owners := [(0,{crofts := [0]}),(1,{crofts := [4]})] }
def img : List Byte := [0x53, 0x49, 0x4C, 0x31] ++ leBytes 4 3 ++ leBytes 4 0x100 ++ List.replicate 0xF4 0
def adm : List Byte := [5] ++ List.replicate 7 0 ++ ([2] ++ List.replicate 127 0) ++ leBytes 8 8192 ++ leBytes 4 3 ++ List.replicate 60 0 ++ leBytes 8 0 ++ leBytes 8 0 ++ List.replicate 0x98 0 ++ List.replicate 8 0
def adm2 (o c sp r0 r1 tag : Nat) : List Byte := leBytes 1 o ++ List.replicate 7 0 ++ (leBytes 128 c) ++ leBytes 8 sp ++ leBytes 4 r0 ++ leBytes 4 r1 ++ List.replicate 56 0 ++ leBytes 8 0 ++ leBytes 8 0 ++ List.replicate (0x168-0xE0) 0 ++ leBytes 16 tag ++ List.replicate 8 0
def s1 : State := {s0 with owners := [(0,{crofts := [0], space := 2^40}),(7,{crofts := [3], space := 2^40-8192, res := vset ({}:Owner).res 1 (2^29-4)})]}

def msg0 : Msg := mO 0x20 4 (List.replicate 32 1)
def msg1 : Msg := mA 5 7 (List.replicate 8 0 ++ sg)
def msg2 : Msg := ⟨some 0, (mO 0x20 5 (List.replicate 32 1)).bytes ++ [0]⟩
def ins1 : Instr := .quote ⟨some 0, (mO 0x20 5 (List.replicate 32 1)).bytes ++ [0]⟩
def msg3 : Msg := mO 1 5 (List.replicate 32 1)
def msg4 : Msg := mA 0x32 6 (List.replicate 8 1)
def msg5 : Msg := mA 1 6 (List.replicate 8 1 ++ sg)
def ins2 : Instr := .admission (mA 1 6 (List.replicate 8 1 ++ sg))
def msg6 : Msg := mA 0x21 6 sg
def sta100 : State := {s0 with opKeys := [[1],List.replicate 32 3]}
def msg7 : Msg := mA 3 6 (ok0 ++ sg)
def msg8 : Msg := mA 4 6 (img ++ sg)
def arg98 : List Byte := adm2 5 1 8192 3 0 0
def arg99 : List Byte := adm2 5 4 16384 0 0 0
def arg100 : List Byte := adm2 5 4 8192 0 5 0

/-- RequestsRefused: hypotheses that can be met, clause by clause. -/
theorem test_witness_RequestsRefused :
    (((.quote (mO 0x20 4 (List.replicate 32 1)) : Instr), 32, From.owner) ∈ Claims.requests msg0 ∧ s0.power = true ∧ s0.boot = Boot.running ∧
      (∀ (o : Nat), msg0.fn = some o → (s0.owners.find o).isSome = true) ∧ 32 ≤ msg0.bytes.length ∧ Claims.field msg0.bytes 0 2 = 21338 ∧
      (Claims.field msg0.bytes 4 2 = 32 ∨ ∀ (r : Instr × Nat × From), r ∈ Claims.requests msg0 → Claims.field msg0.bytes 4 2 ≠ r.snd.fst) ∧
      Claims.field msg0.bytes 24 8 ≠ s0.seqs.get 0 (Claims.endpointOf msg0.fn))
    ∧ (((.floor (mA 5 7 (List.replicate 8 0 ++ sg)) : Instr), 5, From.operator) ∈ Claims.requests msg1 ∧ s0.power = true ∧ s0.boot = Boot.running ∧
      (∀ (o : Nat), msg1.fn = some o → (s0.owners.find o).isSome = true) ∧ 32 ≤ msg1.bytes.length ∧ Claims.field msg1.bytes 0 2 = 21338 ∧
      (Claims.field msg1.bytes 4 2 = 5 ∨ ∀ (r : Instr × Nat × From), r ∈ Claims.requests msg1 → Claims.field msg1.bytes 4 2 ≠ r.snd.fst) ∧
      Claims.field msg1.bytes 24 8 ≠ s0.seqs.get 0 (Claims.endpointOf msg1.fn))
    ∧ ((ins1, 32, From.owner) ∈ Claims.requests msg2 ∧ s0.power = true ∧ s0.boot = Boot.running ∧
      (∀ (o : Nat), msg2.fn = some o → (s0.owners.find o).isSome = true) ∧ 32 ≤ msg2.bytes.length ∧ Claims.field msg2.bytes 0 2 = 21338 ∧
      (Claims.field msg2.bytes 4 2 = 32 ∨ ∀ (r : Instr × Nat × From), r ∈ Claims.requests msg2 → Claims.field msg2.bytes 4 2 ≠ r.snd.fst) ∧
      Claims.field msg2.bytes 24 8 = s0.seqs.get 0 (Claims.endpointOf msg2.fn) ∧ (¬Claims.Header msg2 32))
    ∧ (((.admission (mO 1 5 (List.replicate 32 1)) : Instr), 1, From.operator) ∈ Claims.requests msg3 ∧ s0.power = true ∧ s0.boot = Boot.running ∧
      (∀ (o : Nat), msg3.fn = some o → (s0.owners.find o).isSome = true) ∧ 32 ≤ msg3.bytes.length ∧ Claims.field msg3.bytes 0 2 = 21338 ∧
      (Claims.field msg3.bytes 4 2 = 1 ∨ ∀ (r : Instr × Nat × From), r ∈ Claims.requests msg3 → Claims.field msg3.bytes 4 2 ≠ r.snd.fst) ∧
      Claims.Arrives s0 msg3 1 ∧ (From.operator = From.operator ∧ msg3.fn ≠ none ∨ From.operator = From.owner ∧ msg3.fn = none))
    ∧ (((.drop (mA 0x32 6 (List.replicate 8 1)) : Instr), 50, From.owner) ∈ Claims.requests msg4 ∧ s0.power = true ∧ s0.boot = Boot.running ∧
      (∀ (o : Nat), msg4.fn = some o → (s0.owners.find o).isSome = true) ∧ 32 ≤ msg4.bytes.length ∧ Claims.field msg4.bytes 0 2 = 21338 ∧
      (Claims.field msg4.bytes 4 2 = 50 ∨ ∀ (r : Instr × Nat × From), r ∈ Claims.requests msg4 → Claims.field msg4.bytes 4 2 ≠ r.snd.fst) ∧
      Claims.Arrives s0 msg4 50 ∧ (From.owner = From.operator ∧ msg4.fn ≠ none ∨ From.owner = From.owner ∧ msg4.fn = none))
    ∧ ((ins2, 1, From.operator) ∈ Claims.requests msg5 ∧ s0k.power = true ∧ s0k.boot = Boot.running ∧
      (∀ (o : Nat), msg5.fn = some o → (s0k.owners.find o).isSome = true) ∧ 32 ≤ msg5.bytes.length ∧ Claims.field msg5.bytes 0 2 = 21338 ∧
      (Claims.field msg5.bytes 4 2 = 1 ∨ ∀ (r : Instr × Nat × From), r ∈ Claims.requests msg5 → Claims.field msg5.bytes 4 2 ≠ r.snd.fst) ∧
      Claims.Arrives s0k msg5 1 ∧ msg5.fn = none ∧ List.drop 32 msg5.bytes = (List.replicate 8 1 : List Byte) ++ sg ∧ sg.length = 64 ∧
      Claims.signed s0k msg5 sg = false)
    ∧ (((.cert (mA 0x21 6 sg) : Instr), 33, From.both) ∈ Claims.requests msg6 ∧ s0k.power = true ∧ s0k.boot = Boot.running ∧
      (∀ (o : Nat), msg6.fn = some o → (s0k.owners.find o).isSome = true) ∧ 32 ≤ msg6.bytes.length ∧ Claims.field msg6.bytes 0 2 = 21338 ∧
      (Claims.field msg6.bytes 4 2 = 33 ∨ ∀ (r : Instr × Nat × From), r ∈ Claims.requests msg6 → Claims.field msg6.bytes 4 2 ≠ r.snd.fst) ∧
      Claims.Arrives s0k msg6 33 ∧ msg6.fn = none ∧ List.drop 32 msg6.bytes = ([] : List Byte) ++ sg ∧ sg.length = 64 ∧ Claims.signed s0k msg6 sg = false) :=
  ⟨⟨by first | decide | rfl, by first | decide | rfl, by first | decide | rfl, by first | decide | rfl, by first | decide | rfl, by first | decide | rfl,
    by first | decide | rfl, by first | decide | rfl⟩,
   ⟨by first | decide | rfl, by first | decide | rfl, by first | decide | rfl, by first | decide | rfl, by first | decide | rfl, by first | decide | rfl,
     by first | decide | rfl, by first | decide | rfl⟩,
   ⟨by first | decide | rfl, by first | decide | rfl, by first | decide | rfl, by first | decide | rfl, by first | decide | rfl, by first | decide | rfl,
     by first | decide | rfl, by first | decide | rfl, (fun h => absurd h.length.1 (by decide))⟩,
   ⟨by first | decide | rfl, by first | decide | rfl, by first | decide | rfl, by first | decide | rfl, by first | decide | rfl, by first | decide | rfl,
     by first | decide | rfl, arrives_of (by decide), by first | decide | rfl⟩,
   ⟨by first | decide | rfl, by first | decide | rfl, by first | decide | rfl, by first | decide | rfl, by first | decide | rfl, by first | decide | rfl,
     by first | decide | rfl, arrives_of (by decide), by first | decide | rfl⟩,
   ⟨by first | decide | rfl, by first | decide | rfl, by first | decide | rfl, by first | decide | rfl, by first | decide | rfl, by first | decide | rfl,
     by first | decide | rfl, arrives_of (by decide), by first | decide | rfl, by first | decide | rfl, by first | decide | rfl, by first | decide | rfl⟩,
   ⟨by first | decide | rfl, by first | decide | rfl, by first | decide | rfl, by first | decide | rfl, by first | decide | rfl, by first | decide | rfl,
     by first | decide | rfl, arrives_of (by decide), by first | decide | rfl, by first | decide | rfl, by first | decide | rfl, by first | decide | rfl⟩⟩

/-- ManagementRequests: hypotheses that can be met, clause by clause. -/
theorem test_witness_ManagementRequests :
    ((mA 5 6 (fl ++ sg) : Msg).fn = none ∧ List.drop 32 (mA 5 6 (fl ++ sg) : Msg).bytes = fl ++ sg ∧ sg.length = 64 ∧
      Claims.Arrives s0 (mA 5 6 (fl ++ sg) : Msg) 5 ∧ fl.length = 8 ∧ Claims.field fl 4 4 = 0)
    ∧ ((mA 3 6 (ok1 ++ sg) : Msg).fn = none ∧ List.drop 32 (mA 3 6 (ok1 ++ sg) : Msg).bytes = ok1 ++ sg ∧ sg.length = 64 ∧
      Claims.Arrives s0 (mA 3 6 (ok1 ++ sg) : Msg) 3 ∧ ok1.length = 40 ∧ Claims.field ok1 33 7 = 0 ∧ Claims.field ok1 32 1 = 1)
    ∧ (msg7.fn = none ∧ List.drop 32 msg7.bytes = ok0 ++ sg ∧ sg.length = 64 ∧ Claims.Arrives sta100 msg7 3 ∧ ok0.length = 40 ∧ Claims.field ok0 33 7 = 0 ∧
      Claims.field ok0 32 1 = 0 ∧ List.take 32 ok0 ∈ sta100.opKeys ∧ (∃ (k : List Byte), k ∈ sta100.opKeys ∧ k ≠ List.take 32 ok0))
    ∧ (msg7.fn = none ∧ List.drop 32 msg7.bytes = ok0 ++ sg ∧ sg.length = 64 ∧ Claims.Arrives ({s0 with opKeys := [List.replicate 32 3]} : State) msg7 3 ∧
      ok0.length = 40 ∧ Claims.field ok0 33 7 = 0 ∧ Claims.field ok0 32 1 = 0 ∧
      (∀ (k : List Byte), k ∈ ({s0 with opKeys := [List.replicate 32 3]} : State).opKeys → k = List.take 32 ok0))
    ∧ (msg6.fn = none ∧ List.drop 32 msg6.bytes = ([] : List Byte) ++ sg ∧ sg.length = 64 ∧ Claims.Arrives s0 msg6 33 ∧ ([] : List Byte) = [])
    ∧ ((mA 2 6 (rv ++ sg) : Msg).fn = none ∧ List.drop 32 (mA 2 6 (rv ++ sg) : Msg).bytes = rv ++ sg ∧ sg.length = 64 ∧
      Claims.Arrives sr (mA 2 6 (rv ++ sg) : Msg) 2 ∧ rv.length = 8 ∧ 0 < 128 ∧ Claims.field rv 0 1 = 0 ∧ Claims.field rv 1 7 = 0 ∧
      sr.owners.find 0 = some ({crofts := [0]} : Owner))
    ∧ (msg8.fn = none ∧ List.drop 32 msg8.bytes = img ++ sg ∧ sg.length = 64 ∧ Claims.Arrives s0 msg8 4 ∧ imageOk img = true)
    ∧ (msg8.fn = none ∧ List.drop 32 msg8.bytes = img ++ sg ∧ sg.length = 64 ∧ Claims.Arrives ({s0 with minVer := 4} : State) msg8 4 ∧ imageOk img = true)
    ∧ ((mA 1 6 (adm ++ sg) : Msg).fn = none ∧ List.drop 32 (mA 1 6 (adm ++ sg) : Msg).bytes = adm ++ sg ∧ sg.length = 64 ∧
      Claims.Arrives s0 (mA 1 6 (adm ++ sg) : Msg) 1 ∧ admOk adm = true ∧ 5 < 128 ∧ s0.owners.find 5 = none ∧ s0.hot = false ∧
      (Claims.field adm 0 1 = 5 ∨ Claims.field adm 0 1 = 255 ∧ ∀ (q : Nat), q < 5 → s0.owners.find q ≠ none) ∧
      (∀ (n : Nat), n ∈ admCrofts adm → (s0.croft n).owner = none) ∧
      (s0.lanesFor (linksOf (admCrofts adm) (List.filter (fun (st : Nat) => decide (0 < Claims.field adm (144 + 4 * st) 4)) (List.range 16))) = true) ∧
      (List.foldl (fun (n : Nat) (w : Nat × Owner) => n + w.snd.space) 0 s0.owners + Claims.field adm 136 8 ≤ 2 ^ 41) ∧
      (∀ (st : Nat), st < 16 → Claims.field adm (144 + 4 * st) 4 + List.foldl (fun (n : Nat) (w : Nat × Owner) => n + vget w.snd.res 0 st) 0 s0.owners ≤ 2 ^ 29)) :=
  ⟨⟨by first | decide | rfl, by first | decide | rfl, by first | decide | rfl, arrives_of (by decide), by first | decide | rfl, by first | decide | rfl⟩,
   ⟨by first | decide | rfl, by first | decide | rfl, by first | decide | rfl, arrives_of (by decide), by first | decide | rfl, by first | decide | rfl,
     by first | decide | rfl⟩,
   ⟨by first | decide | rfl, by first | decide | rfl, by first | decide | rfl, arrives_of (by decide), by first | decide | rfl, by first | decide | rfl,
     by first | decide | rfl, by first | decide | rfl, by first | decide | rfl⟩,
   ⟨by first | decide | rfl, by first | decide | rfl, by first | decide | rfl, arrives_of (by decide), by first | decide | rfl, by first | decide | rfl,
     by first | decide | rfl, by first | decide | rfl⟩,
   ⟨by first | decide | rfl, by first | decide | rfl, by first | decide | rfl, arrives_of (by decide), by first | decide | rfl⟩,
   ⟨by first | decide | rfl, by first | decide | rfl, by first | decide | rfl, arrives_of (by decide), by first | decide | rfl, by first | decide | rfl,
     by first | decide | rfl, by first | decide | rfl, by first | decide | rfl⟩,
   ⟨by first | decide | rfl, by first | decide | rfl, by first | decide | rfl, arrives_of (by decide), by first | decide | rfl⟩,
   ⟨by first | decide | rfl, by first | decide | rfl, by first | decide | rfl, arrives_of (by decide), by first | decide | rfl⟩,
   ⟨by first | decide | rfl, by first | decide | rfl, by first | decide | rfl, arrives_of (by decide), by first | decide | rfl, by first | decide | rfl,
     by first | decide | rfl, by first | decide | rfl, by first | decide | rfl, by first | decide | rfl, by first | decide | rfl, by first | decide | rfl,
     by first | decide | rfl⟩⟩

/-- AdmissionsRefused: hypotheses that can be met, clause by clause. -/
theorem test_witness_AdmissionsRefused :
    ((mA 1 6 (adm2 5 2 8193 3 0 0 ++ sg) : Msg).fn = none ∧
      List.drop 32 (mA 1 6 (adm2 5 2 8193 3 0 0 ++ sg) : Msg).bytes = (adm2 5 2 8193 3 0 0 : List Byte) ++ sg ∧ sg.length = 64 ∧
      Claims.Arrives s0 (mA 1 6 (adm2 5 2 8193 3 0 0 ++ sg) : Msg) 1 ∧ admOk (adm2 5 2 8193 3 0 0 : List Byte) = false)
    ∧ ((mA 1 6 (adm2 0 2 8192 3 0 0 ++ sg) : Msg).fn = none ∧
      List.drop 32 (mA 1 6 (adm2 0 2 8192 3 0 0 ++ sg) : Msg).bytes = (adm2 0 2 8192 3 0 0 : List Byte) ++ sg ∧ sg.length = 64 ∧
      Claims.Arrives s1 (mA 1 6 (adm2 0 2 8192 3 0 0 ++ sg) : Msg) 1 ∧ admOk (adm2 0 2 8192 3 0 0 : List Byte) = true ∧
      (s1.hot = true ∨ (Claims.field (adm2 0 2 8192 3 0 0 : List Byte) 0 1 = 255 ∧
      ∀ (q : Nat), q < 128 → s1.owners.find q ≠ none) ∨ Claims.field (adm2 0 2 8192 3 0 0 : List Byte) 0 1 < 128 ∧
      s1.owners.find (Claims.field (adm2 0 2 8192 3 0 0 : List Byte) 0 1) ≠ none))
    ∧ ((mA 1 6 (adm2 5 1 8192 3 0 0 ++ sg) : Msg).fn = none ∧ List.drop 32 (mA 1 6 (adm2 5 1 8192 3 0 0 ++ sg) : Msg).bytes = arg98 ++ sg ∧ sg.length = 64 ∧
      Claims.Arrives s1 (mA 1 6 (adm2 5 1 8192 3 0 0 ++ sg) : Msg) 1 ∧ admOk arg98 = true ∧ s1.hot = false ∧ (¬((Claims.field arg98 0 1 = 255 ∧
      ∀ (q : Nat), q < 128 → s1.owners.find q ≠ none) ∨ Claims.field arg98 0 1 < 128 ∧ s1.owners.find (Claims.field arg98 0 1) ≠ none)) ∧
      ((∃ (n : Nat), n ∈ admCrofts arg98 ∧
      (s1.croft n).owner ≠ none) ∨ s1.lanesFor (linksOf (admCrofts arg98) (List.filter (fun (st : Nat) => decide (0 < Claims.field arg98 (144 + 4 * st) 4)) (List.range 16))) = false))
    ∧ ((mA 1 6 (adm2 5 4 16384 0 0 0 ++ sg) : Msg).fn = none ∧ List.drop 32 (mA 1 6 (adm2 5 4 16384 0 0 0 ++ sg) : Msg).bytes = arg99 ++ sg ∧ sg.length = 64 ∧
      Claims.Arrives s1 (mA 1 6 (adm2 5 4 16384 0 0 0 ++ sg) : Msg) 1 ∧ admOk arg99 = true ∧ s1.hot = false ∧ (¬((Claims.field arg99 0 1 = 255 ∧
      ∀ (q : Nat), q < 128 → s1.owners.find q ≠ none) ∨ Claims.field arg99 0 1 < 128 ∧ s1.owners.find (Claims.field arg99 0 1) ≠ none)) ∧
      (¬∃ (n : Nat), n ∈ admCrofts arg99 ∧ (s1.croft n).owner ≠ none) ∧
      (s1.lanesFor (linksOf (admCrofts arg99) (List.filter (fun (st : Nat) => decide (0 < Claims.field arg99 (144 + 4 * st) 4)) (List.range 16))) = true) ∧
      (2 ^ 41 < (List.map (fun (w : Nat × Owner) => w.snd.space) s1.owners).sum + Claims.field arg99 136 8))
    ∧ ((mA 1 6 (adm2 5 4 8192 0 5 0 ++ sg) : Msg).fn = none ∧ List.drop 32 (mA 1 6 (adm2 5 4 8192 0 5 0 ++ sg) : Msg).bytes = arg100 ++ sg ∧ sg.length = 64 ∧
      Claims.Arrives s1 (mA 1 6 (adm2 5 4 8192 0 5 0 ++ sg) : Msg) 1 ∧ admOk arg100 = true ∧ s1.hot = false ∧ (¬((Claims.field arg100 0 1 = 255 ∧
      ∀ (q : Nat), q < 128 → s1.owners.find q ≠ none) ∨ Claims.field arg100 0 1 < 128 ∧ s1.owners.find (Claims.field arg100 0 1) ≠ none)) ∧
      (¬∃ (n : Nat), n ∈ admCrofts arg100 ∧ (s1.croft n).owner ≠ none) ∧
      (s1.lanesFor (linksOf (admCrofts arg100) (List.filter (fun (st : Nat) => decide (0 < Claims.field arg100 (144 + 4 * st) 4)) (List.range 16))) = true) ∧
      (¬2 ^ 41 < (List.map (fun (w : Nat × Owner) => w.snd.space) s1.owners).sum + Claims.field arg100 136 8) ∧ 1 < 16 ∧
      ((fun (st : Nat) => 2 ^ 29 < Claims.field arg100 (144 + 4 * st) 4 + (List.map (fun (w : Nat × Owner) => vget w.snd.res 0 st) s1.owners).sum) 1) ∧
      (∀ (k : Nat), k < 1 → ¬(fun (st : Nat) => 2 ^ 29 < Claims.field arg100 (144 + 4 * st) 4 + (List.map (fun (w : Nat × Owner) => vget w.snd.res 0 st) s1.owners).sum) k)) :=
  ⟨⟨by first | decide | rfl, by first | decide | rfl, by first | decide | rfl, arrives_of (by decide), by first | decide | rfl⟩,
   ⟨by first | decide | rfl, by first | decide | rfl, by first | decide | rfl, arrives_of (by decide), by first | decide | rfl, by first | decide | rfl⟩,
   ⟨by first | decide | rfl, by first | decide | rfl, by first | decide | rfl, arrives_of (by decide), by first | decide | rfl, by first | decide | rfl,
     by first | decide | rfl, by first | decide | rfl⟩,
   ⟨by first | decide | rfl, by first | decide | rfl, by first | decide | rfl, arrives_of (by decide), by first | decide | rfl, by first | decide | rfl,
     by first | decide | rfl, by first | decide | rfl, by first | decide | rfl, by first | decide | rfl⟩,
   ⟨by first | decide | rfl, by first | decide | rfl, by first | decide | rfl, arrives_of (by decide), by first | decide | rfl, by first | decide | rfl,
     by first | decide | rfl, by first | decide | rfl, by first | decide | rfl, by first | decide | rfl, by first | decide | rfl, by first | decide | rfl,
     by first | decide | rfl⟩⟩

end W8

/-! ### Witnesses, part 9 -/

namespace W9

def ow : Owner := { crofts := [0], overlays := [(7,⟨{handle := 7, len := 3},[1,0,0,0x20]⟩),(9,⟨{},[]⟩)], objects := [([1],[7]),([2],[9])], queue := [7], fields := [([0x61],[0,0,0,0,0,0,7,0])], grammars := [(3,⟨4,0,[[(0,3,0)]]⟩),(4,⟨4,0,[[(0,3,0)]]⟩)], contexts := [(5,⟨3,some 0⟩)] }
def s0 : State := {st c0 with seqs := [(0,5)], owners := [(0,ow)], nextHandle := 11, launches := [{lch with handle := 9}] }
def mO (op : Nat) (p : List Byte) := msg (some 0) op 5 p
def g : List Byte := leBytes 4 1 ++ leBytes 4 4 ++ leBytes 4 0 ++ leBytes 4 1 ++ leBytes 4 0 ++ leBytes 4 1 ++ leBytes 4 0 ++ leBytes 4 3 ++ leBytes 4 0
/-- An object of one overlay of two words (R86 to R92). -/
def obj : List Byte := [0x46, 0x59, 0x4F, 0x31] ++ leBytes 2 1 ++ leBytes 2 1 ++ leBytes 4 2 ++ leBytes 4 64 ++ List.replicate 48 0
  ++ (leBytes 4 0 ++ [1, 0, 0, 0] ++ leBytes 8 0 ++ leBytes 4 128 ++ leBytes 4 8 ++ leBytes 4 0 ++ leBytes 4 0)
  ++ (leBytes 4 0 ++ [2, 0, 0, 0] ++ leBytes 8 0 ++ leBytes 4 136 ++ leBytes 4 296 ++ leBytes 4 0 ++ leBytes 4 0)
  ++ leBytes 4 0x20000000 ++ leBytes 4 0x20000000 ++ List.replicate 296 0

def arg101 : List Byte := [7,0,0,0,0,0,0,0]
def arg102 : List Byte := [9,0,0,0,0,0,0,0]
def arg103 : List Byte := [3,0,0,0,0,0,0,0]
def msg9 : Msg := mO 0x10 obj

/-- OwnerRequests: hypotheses that can be met, clause by clause. -/
theorem test_witness_OwnerRequests :
    ((mO 0x20 (List.replicate 32 1) : Msg).fn = some 0 ∧ s0.owners.find 0 = some ow ∧
      (List.replicate 32 1 : List Byte) = List.drop 32 (mO 0x20 (List.replicate 32 1) : Msg).bytes ∧
      Claims.Arrives s0 (mO 0x20 (List.replicate 32 1) : Msg) 32 ∧ (List.replicate 32 1 : List Byte).length = 32)
    ∧ ((mO 0x21 [] : Msg).fn = some 0 ∧ s0.owners.find 0 = some ow ∧ ([] : List Byte) = List.drop 32 (mO 0x21 [] : Msg).bytes ∧
      Claims.Arrives s0 (mO 0x21 [] : Msg) 33 ∧ ([] : List Byte) = [])
    ∧ ((mO 0x12 [7,0,0,0,0,0,0,0] : Msg).fn = some 0 ∧ s0.owners.find 0 = some ow ∧ arg101 = List.drop 32 (mO 0x12 [7,0,0,0,0,0,0,0] : Msg).bytes ∧
      Claims.Arrives s0 (mO 0x12 [7,0,0,0,0,0,0,0] : Msg) 18 ∧ arg101.length = 8 ∧ Claims.field arg101 2 6 = 0 ∧
      (ow.overlays.find (Claims.field arg101 0 2)).isSome = true)
    ∧ ((mO 0x12 [9,0,0,0,0,0,0,0] : Msg).fn = some 0 ∧ s0.owners.find 0 = some ow ∧ arg102 = List.drop 32 (mO 0x12 [9,0,0,0,0,0,0,0] : Msg).bytes ∧
      Claims.Arrives s0 (mO 0x12 [9,0,0,0,0,0,0,0] : Msg) 18 ∧ arg102.length = 8 ∧ Claims.field arg102 2 6 = 0 ∧
      (ow.overlays.find (Claims.field arg102 0 2)).isSome = true)
    ∧ ((mO 0x30 [1] : Msg).fn = some 0 ∧ s0.owners.find 0 = some ow ∧ ([1] : List Byte) = List.drop 32 (mO 0x30 [1] : Msg).bytes ∧
      Claims.Arrives s0 (mO 0x30 [1] : Msg) 48)
    ∧ ((mO 0x30 g : Msg).fn = some 0 ∧ s0.owners.find 0 = some ow ∧ g = List.drop 32 (mO 0x30 g : Msg).bytes ∧ Claims.Arrives s0 (mO 0x30 g : Msg) 48)
    ∧ ((mO 0x31 [3,0,0,0,0,0,0,0] : Msg).fn = some 0 ∧ s0.owners.find 0 = some ow ∧ arg103 = List.drop 32 (mO 0x31 [3,0,0,0,0,0,0,0] : Msg).bytes ∧
      Claims.Arrives s0 (mO 0x31 [3,0,0,0,0,0,0,0] : Msg) 49 ∧ arg103.length = 8 ∧
      ow.grammars.find (Claims.field arg103 0 8) = some (⟨4,0,[[(0,3,0)]]⟩ : Grammar))
    ∧ ((mO 0x32 [5,0,0,0,0,0,0,0] : Msg).fn = some 0 ∧ s0.owners.find 0 = some ow ∧
      ([5,0,0,0,0,0,0,0] : List Byte) = List.drop 32 (mO 0x32 [5,0,0,0,0,0,0,0] : Msg).bytes ∧ Claims.Arrives s0 (mO 0x32 [5,0,0,0,0,0,0,0] : Msg) 50 ∧
      ([5,0,0,0,0,0,0,0] : List Byte).length = 8)
    ∧ ((mO 0x32 [4,0,0,0,0,0,0,0] : Msg).fn = some 0 ∧ s0.owners.find 0 = some ow ∧
      ([4,0,0,0,0,0,0,0] : List Byte) = List.drop 32 (mO 0x32 [4,0,0,0,0,0,0,0] : Msg).bytes ∧ Claims.Arrives s0 (mO 0x32 [4,0,0,0,0,0,0,0] : Msg) 50 ∧
      ([4,0,0,0,0,0,0,0] : List Byte).length = 8)
    ∧ ((mO 0x32 [3,0,0,0,0,0,0,0] : Msg).fn = some 0 ∧ s0.owners.find 0 = some ow ∧ arg103 = List.drop 32 (mO 0x32 [3,0,0,0,0,0,0,0] : Msg).bytes ∧
      Claims.Arrives s0 (mO 0x32 [3,0,0,0,0,0,0,0] : Msg) 50 ∧ arg103.length = 8)
    ∧ ((mO 0x10 [3,0,0,0,0,0,0,0] : Msg).fn = some 0 ∧ s0.owners.find 0 = some ow ∧ arg103 = List.drop 32 (mO 0x10 [3,0,0,0,0,0,0,0] : Msg).bytes ∧
      Claims.Arrives s0 (mO 0x10 [3,0,0,0,0,0,0,0] : Msg) 16)
    ∧ (msg9.fn = some 0 ∧ s0.owners.find 0 = some ow ∧ obj = List.drop 32 msg9.bytes ∧ Claims.Arrives s0 msg9 16)
    ∧ (msg9.fn = some 0 ∧ s0.owners.find 0 = some ow ∧ obj = List.drop 32 msg9.bytes ∧ Claims.Arrives s0 msg9 16 ∧
      (Claims.taken s0 msg9).loadCheck 0 ow obj = none) :=
  ⟨⟨by first | decide | rfl, by first | decide | rfl, by first | decide | rfl, arrives_of (by decide), by first | decide | rfl⟩,
   ⟨by first | decide | rfl, by first | decide | rfl, by first | decide | rfl, arrives_of (by decide), by first | decide | rfl⟩,
   ⟨by first | decide | rfl, by first | decide | rfl, by first | decide | rfl, arrives_of (by decide), by first | decide | rfl, by first | decide | rfl,
     by first | decide | rfl⟩,
   ⟨by first | decide | rfl, by first | decide | rfl, by first | decide | rfl, arrives_of (by decide), by first | decide | rfl, by first | decide | rfl,
     by first | decide | rfl⟩,
   ⟨by first | decide | rfl, by first | decide | rfl, by first | decide | rfl, arrives_of (by decide)⟩,
   ⟨by first | decide | rfl, by first | decide | rfl, by first | decide | rfl, arrives_of (by decide)⟩,
   ⟨by first | decide | rfl, by first | decide | rfl, by first | decide | rfl, arrives_of (by decide), by first | decide | rfl, by first | decide | rfl⟩,
   ⟨by first | decide | rfl, by first | decide | rfl, by first | decide | rfl, arrives_of (by decide), by first | decide | rfl⟩,
   ⟨by first | decide | rfl, by first | decide | rfl, by first | decide | rfl, arrives_of (by decide), by first | decide | rfl⟩,
   ⟨by first | decide | rfl, by first | decide | rfl, by first | decide | rfl, arrives_of (by decide), by first | decide | rfl⟩,
   ⟨by first | decide | rfl, by first | decide | rfl, by first | decide | rfl, arrives_of (by decide)⟩,
   ⟨by first | decide | rfl, by first | decide | rfl, by first | decide | rfl, arrives_of (by decide)⟩,
   ⟨by first | decide | rfl, by first | decide | rfl, by first | decide | rfl, arrives_of (by decide), by first | decide | rfl⟩⟩

end W9

/-! ### Witnesses, part 10 -/

namespace W10

def img : List Byte := [0x53, 0x49, 0x4C, 0x31] ++ leBytes 4 3 ++ leBytes 4 0x100 ++ List.replicate 0xF4 0
def lr : List Byte := [0,0,1,0,7,0,0x30,0] ++ leBytes 8 55 ++ (leBytes 2 1 ++ [0,0,0,0,0,0x40+0x40]) ++ List.replicate 8 0 ++ List.replicate 32 0
def lv (k c : Nat) : List Byte := leBytes 2 (c-1) ++ List.replicate 5 0 ++ [BitVec.ofNat 8 (k*64)]
def rec0 : List Byte := leBytes 2 0 ++ leBytes 2 1 ++ leBytes 2 0x3000 ++ leBytes 2 7 ++ leBytes 8 55 ++ lv 3 1 ++ lv 2 1 ++ lv 1 4 ++ lv 0 1 ++ lv 0 1 ++ lv 0 1
def ld : Loaded := ⟨{handle := 7, len := 1},[1,0,0,0x20]⟩
def ow : Owner := { crofts := [0], overlays := [(7,ld)], fields := [([0x61],rec0)] }
def s0 : State := {st c0 with seqs := [(0,5)], owners := [(0,ow)], nextLaunch := 11 }
def ml (p : List Byte) := msg (some 0) 0x11 5 p

def msg10 : Msg := ml [0x61,0,0,0,0,0,0,0]
def arg104 : List Byte := [0x61]
def sta101 : State := {s0 with owners := [(0,{ow with queue := List.range 16})]}
def arg105 : Owner := {ow with queue := List.range 16}
def sta102 : State := {s0 with owners := [(0,{ow with held := [(3,4)]})]}
def arg106 : Owner := {ow with held := [(3,4)]}
def sta103 : State := {s0 with owners := [(0,{ow with held := [(3,4)], queue := [1]})]}
def sta104 : State := {s0 with boot := .before, flash0 := img, flash1 := [1], minVer := 2}
def sta105 : State := {s0 with boot := .before, flash1 := img, flash0 := [1], minVer := 2}
def sta106 : State := {s0 with boot := .before, flash1 := img, flash0 := img, minVer := 4}

/-- Launches: hypotheses that can be met, clause by clause. -/
theorem test_witness_Launches :
    (s0.owners.find 0 = some ow ∧ msg10.fn = some 0 ∧ Claims.Arrives s0 msg10 17 ∧ launchName (List.drop 32 msg10.bytes) = some arg104 ∧
      (List.find? (fun (f : List Byte × List Byte) => f.fst == arg104) ow.fields = some (arg104, rec0)) ∧ ow.overlays.find (Claims.field rec0 6 2) = some ld ∧
      recOk rec0 = true ∧ recPlaced ow rec0 = true ∧ (hasBar (codeWords ld.code) = true → recCrowded ow rec0 = false))
    ∧ (s0.owners.find 0 = some ow ∧ (ml [0x62,0,0,0,0,0,0,0] : Msg).fn = some 0 ∧ Claims.Arrives s0 (ml [0x62,0,0,0,0,0,0,0] : Msg) 17 ∧
      launchName (List.drop 32 (ml [0x62,0,0,0,0,0,0,0] : Msg).bytes) = some ([0x62] : List Byte) ∧
      (List.find? (fun (f : List Byte × List Byte) => f.fst == ([0x62] : List Byte)) ow.fields = none))
    ∧ (sta101.owners.find 0 = some arg105 ∧ msg10.fn = some 0 ∧ Claims.Arrives sta101 msg10 17 ∧ launchName (List.drop 32 msg10.bytes) = some arg104 ∧
      (List.find? (fun (f : List Byte × List Byte) => f.fst == arg104) arg105.fields = some (arg104, rec0)) ∧
      arg105.overlays.find (Claims.field rec0 6 2) = some ld ∧ recOk rec0 = true ∧ recPlaced arg105 rec0 = true ∧
      (hasBar (codeWords ld.code) = true → recCrowded arg105 rec0 = false))
    ∧ (sta102.owners.find 0 = some arg106 ∧ msg10.fn = some 0 ∧ Claims.Arrives sta102 msg10 17 ∧ launchName (List.drop 32 msg10.bytes) = some arg104 ∧
      (List.find? (fun (f : List Byte × List Byte) => f.fst == arg104) arg106.fields = some (arg104, rec0)) ∧
      arg106.overlays.find (Claims.field rec0 6 2) = some ld ∧ recOk rec0 = true ∧ recPlaced arg106 rec0 = true ∧
      (hasBar (codeWords ld.code) = true → recCrowded arg106 rec0 = false))
    ∧ (sta103.owners.find 0 = some ({ow with held := [(3,4)], queue := [1]} : Owner) ∧ sta103.power = true ∧
      ({ow with held := [(3,4)], queue := [1]} : Owner).held = (3, 4) :: ([] : List (Nat × Word64)) ∧
      ({ow with held := [(3,4)], queue := [1]} : Owner).queue.length < 16) :=
  ⟨⟨by first | decide | rfl, by first | decide | rfl, arrives_of (by decide), by first | decide | rfl, by first | decide | rfl, by first | decide | rfl,
    by first | decide | rfl, by first | decide | rfl, by first | decide | rfl⟩,
   ⟨by first | decide | rfl, by first | decide | rfl, arrives_of (by decide), by first | decide | rfl, by first | decide | rfl⟩,
   ⟨by first | decide | rfl, by first | decide | rfl, arrives_of (by decide), by first | decide | rfl, by first | decide | rfl, by first | decide | rfl,
     by first | decide | rfl, by first | decide | rfl, by first | decide | rfl⟩,
   ⟨by first | decide | rfl, by first | decide | rfl, arrives_of (by decide), by first | decide | rfl, by first | decide | rfl, by first | decide | rfl,
     by first | decide | rfl, by first | decide | rfl, by first | decide | rfl⟩,
   ⟨by first | decide | rfl, by first | decide | rfl, by first | decide | rfl, by first | decide | rfl⟩⟩

/-- PlatformEvents: hypotheses that can be met, clause by clause. -/
theorem test_witness_PlatformEvents :
    (({s0 with power := false} : State).power = false)
    ∧ (sta104.power = true ∧ sta104.boot = Boot.before)
    ∧ (sta105.power = true ∧ sta105.boot = Boot.before)
    ∧ (sta106.power = true ∧ sta106.boot = Boot.before)
    ∧ (s0.power = true)
    ∧ (s0.power = true)
    ∧ (s0.power = true)
    ∧ (s0.power = true ∧ s0.boot = Boot.running)
    ∧ (s0.power = true) :=
  ⟨by first | decide | rfl,
   ⟨by first | decide | rfl, by first | decide | rfl⟩,
   ⟨by first | decide | rfl, by first | decide | rfl⟩,
   ⟨by first | decide | rfl, by first | decide | rfl⟩,
   by first | decide | rfl,
   by first | decide | rfl,
   by first | decide | rfl,
   ⟨by first | decide | rfl, by first | decide | rfl⟩,
   by first | decide | rfl⟩

end W10

/-! ### Witnesses, part 11 -/

namespace W11

def L1 : Launch := { num := 7, owner := 0, handle := 1, rank := 3, dies := 1, arg := 77, levels := fur.levels, left := [(0,8)], parts := 8 }
def L2 : Launch := { num := 9, owner := 1, handle := 1, rank := 3, dies := 1, arg := 77, levels := fur.levels, left := [(0,8)], parts := 8 }
def L3 : Launch := { num := 10, owner := 1, handle := 1, rank := 2, dies := 1, arg := 77, levels := fur.levels, left := [(0,8)], parts := 8 }
def cfree (o n : Nat) : Croft := { c0 with owner := some o, furrow := none, lastLaunch := n, split := {stopped := true}, overlay := {c0.overlay with hedge := [2^32+2*2^16+7]} }
def sf : State := { State.reset with boot := .running, crofts := [(0,cfree 0 7),(1,cfree 1 7)], owners := [(0,{crofts := [0], queue := [7]}),(1,{crofts := [1], queue := [9,10]})], launches := [L1,L2,L3] }
def lov : Loaded := ⟨{handle := 1, len := 2, entry := 1, mode := .score, trailer := 0x3f},[1,0,0,0x20,2,0,0,0x20]⟩
def csw : Croft := { c0 with furrow := none, nextFur := some fur, overlay := {c0.overlay with trailer := 0x3f}, imem := [(3,5),(9,9)] }
def ssw : State := {st csw with owners := [(0,{crofts := [0], overlays := [(1,lov)]})]}
def im (ws : List Word32) : Memory := ({} : Memory).writeN 0 (ws.flatMap bytesOfWord)
def csp (pc : Nat) (x : Ext) (ws : List Word32) : Croft := { cf with imem := im ws, split := {pc := pc, ext := x} }
def cmk (ph : Phase) (o : Phase) : Croft := { ch with queues := vset c0.queues 4 [⟨9,7,.marker (some ph)⟩, ⟨10,8,.bad .illop 0⟩], phases := vset (vset c0.phases 1 o) 4 whole }
def lv6 : List Level := [⟨3,2⟩,⟨2,3⟩,⟨1,2⟩,⟨2,4⟩,⟨3,3⟩,⟨0,1⟩]
def L7 (dies left die : Nat) : Launch := { num := 7, owner := 0, handle := 1, rank := 3, dies := dies, arg := 77, levels := lv6, left := [(die,left)], parts := 8 }
def sf7 (dies left die : Nat) : State := { State.reset with boot := .running, crofts := [(64*die+1,cfree 0 9)], owners := [(0,{crofts := [64*die+1], queue := [7]})], launches := [L7 dies left die] }

def cft54 : Croft := csp 1 (.one 5) [0,0xE0000007,1]
def cft55 : Croft := csp 1 .none [0,0x20020044,1]
def cft56 : Croft := csp 1 .none [0,0x20300000,1]
def cft57 : Croft := csp 1 .none [0,0x203C0005,1]
def cft58 : Croft := csp 100 (.one 3) []
def sta107 : State := st (cmk ⟨[⟨0,64⟩],[⟨64,64⟩]⟩ ⟨[⟨0,64⟩],[⟨128,64⟩]⟩)
def cft59 : Croft := cmk ⟨[⟨0,64⟩],[⟨64,64⟩]⟩ ⟨[⟨0,64⟩],[⟨128,64⟩]⟩

/-- FurrowDispatch: hypotheses that can be met, clause by clause. -/
theorem test_witness_FurrowDispatch :
    (sf.power = true ∧ sf.pickOffer 0 = some (0, L1, 0))
    ∧ (({sf with served := [(3,1)]} : State).power = true ∧ ({sf with served := [(3,1)]} : State).pickOffer 0 = some (1, L2, 1))
    ∧ (({sf with served := [(3,2)]} : State).power = true ∧ ({sf with served := [(3,2)]} : State).pickOffer 0 = some (0, L1, 0)) :=
  ⟨⟨by first | decide | rfl, by first | decide | rfl⟩,
   ⟨by first | decide | rfl, by first | decide | rfl⟩,
   ⟨by first | decide | rfl, by first | decide | rfl⟩⟩

/-- OverlaySwaps: hypotheses that can be met. -/
theorem test_witness_OverlaySwaps :
    ssw.power = true ∧ csw = ssw.croft 0 ∧ csw.owner = some 0 ∧ ssw.owners.find 0 = some ({crofts := [0], overlays := [(1,lov)]} : Owner) ∧
      csw.nextFur = some fur ∧ ({crofts := [0], overlays := [(1,lov)]} : Owner).overlays.find fur.handle = some lov ∧ csw.frame = none ∧
      Claims.TrailerDone csw ∧ (csw.mode = lov.ov.mode ∨ (∀ (e : Eng), csw.queue e = []) ∧ csw.lands = [] ∧ csw.stq = none) :=
  ⟨by first | decide | rfl, rfl, by first | decide | rfl, by first | decide | rfl, by first | decide | rfl, by first | decide | rfl, by first | decide | rfl,
    by simp only [Claims.TrailerDone]; decide, .inr ⟨fun e => by cases e <;> rfl, by decide, by decide⟩⟩

/-- SplitterSteps: hypotheses that can be met, clause by clause. -/
theorem test_witness_SplitterSteps :
    ((st (csp 1 (.one 5) [0,0xE0000007,1]) : State).power = true ∧ cft54 = (st (csp 1 (.one 5) [0,0xE0000007,1]) : State).croft 0 ∧ cft54.furrow ≠ none ∧
      cft54.split.stopped = false ∧ 1 = cft54.split.pc ∧ 3758096391 = BitVec.ofNat 32 (cft54.imem.le (4 * 1) 4) ∧ 1 + 1 < cft54.overlay.len ∧
      (3758096391 : BitVec 32).toNat / 2 ^ 29 = 7 ∧ cft54.split.ext.push (BitVec.extractLsb' 0 29 (3758096391 : BitVec 32)) = some (.two 5 7 : Ext))
    ∧ ((st (csp 1 .none [0,0x20020044,1]) : State).power = true ∧ cft55 = (st (csp 1 .none [0,0x20020044,1]) : State).croft 0 ∧ cft55.furrow ≠ none ∧
      cft55.split.stopped = false ∧ 1 = cft55.split.pc ∧ 537002052 = BitVec.ofNat 32 (cft55.imem.le (4 * 1) 4) ∧ 1 < cft55.overlay.len ∧
      Eng.ofCode ((537002052 : BitVec 32).toNat / 2 ^ 29) = some Eng.C ∧ (537002052 : BitVec 32).toNat / 2 ^ 29 ≠ 7 ∧
      decodeWord 537002052 cft55.split.ext = Except.ok (.add t0 ⟨0,0,17,false⟩ .none : Instr) ∧
      (List.filter QEntry.counts (cft55.queue Eng.C)).length < Eng.C.depth ∧
      (∀ (t : Tok) (o : CX) (x : Ext), (.add t0 ⟨0,0,17,false⟩ .none : Instr) ≠ Instr.phase t o x) ∧ stopsSplit 537002052 = false ∧ isJump 537002052 = false)
    ∧ ((st (csp 1 .none [0,0x20300000,1]) : State).power = true ∧ cft56 = (st (csp 1 .none [0,0x20300000,1]) : State).croft 0 ∧ cft56.furrow ≠ none ∧
      cft56.split.stopped = false ∧ 1 = cft56.split.pc ∧ 540016640 = BitVec.ofNat 32 (cft56.imem.le (4 * 1) 4) ∧ 1 < cft56.overlay.len ∧
      Eng.ofCode ((540016640 : BitVec 32).toNat / 2 ^ 29) = some Eng.C ∧ (540016640 : BitVec 32).toNat / 2 ^ 29 ≠ 7 ∧
      decodeWord 540016640 cft56.split.ext = Except.ok (.beq t0 ⟨0,0,0⟩ .none : Instr) ∧
      (List.filter QEntry.counts (cft56.queue Eng.C)).length < Eng.C.depth ∧
      (∀ (t : Tok) (o : CX) (x : Ext), (.beq t0 ⟨0,0,0⟩ .none : Instr) ≠ Instr.phase t o x) ∧ stopsSplit 540016640 = true)
    ∧ ((st (csp 1 .none [0,0x203C0005,1]) : State).power = true ∧ cft57 = (st (csp 1 .none [0,0x203C0005,1]) : State).croft 0 ∧ cft57.furrow ≠ none ∧
      cft57.split.stopped = false ∧ 1 = cft57.split.pc ∧ 540803077 = BitVec.ofNat 32 (cft57.imem.le (4 * 1) 4) ∧ 1 < cft57.overlay.len ∧
      Eng.ofCode ((540803077 : BitVec 32).toNat / 2 ^ 29) = some Eng.C ∧ (540803077 : BitVec 32).toNat / 2 ^ 29 ≠ 7 ∧
      decodeWord 540803077 cft57.split.ext = Except.ok (.jmp t0 ⟨0,0,5⟩ .none : Instr) ∧
      (List.filter QEntry.counts (cft57.queue Eng.C)).length < Eng.C.depth ∧
      (∀ (t : Tok) (o : CX) (x : Ext), (.jmp t0 ⟨0,0,5⟩ .none : Instr) ≠ Instr.phase t o x) ∧
      (.jmp t0 ⟨0,0,5⟩ .none : Instr) = Instr.jmp t0 (⟨0,0,5⟩ : CB) Ext.none ∧ stopsSplit 540803077 = false ∧ isJump 540803077 = true ∧
      0 ≤ Claims.target 1 (⟨0,0,5⟩ : CB) Ext.none ∧ Claims.target 1 (⟨0,0,5⟩ : CB) Ext.none < ↑cft57.overlay.len)
    ∧ ((st (csp 100 (.one 3) []) : State).power = true ∧ cft58 = (st (csp 100 (.one 3) []) : State).croft 0 ∧ cft58.furrow ≠ none ∧
      cft58.split.stopped = false ∧ 100 = cft58.split.pc ∧ 0 = BitVec.ofNat 32 (cft58.imem.le (4 * 100) 4) ∧ cft58.overlay.len ≤ 100 ∧
      (List.filter QEntry.counts (cft58.queue Eng.C)).length < 16) :=
  ⟨⟨by first | decide | rfl, rfl, by first | decide | rfl, by first | decide | rfl, by first | decide | rfl, by first | decide | rfl, by first | decide | rfl,
    by first | decide | rfl, by first | decide | rfl⟩,
   ⟨by first | decide | rfl, rfl, by first | decide | rfl, by first | decide | rfl, by first | decide | rfl, by first | decide | rfl, by first | decide | rfl,
     by first | decide | rfl, by first | decide | rfl, by first | decide | rfl, by first | decide | rfl, (fun _ _ _ h => nomatch h), by first | decide | rfl,
     by first | decide | rfl⟩,
   ⟨by first | decide | rfl, rfl, by first | decide | rfl, by first | decide | rfl, by first | decide | rfl, by first | decide | rfl, by first | decide | rfl,
     by first | decide | rfl, by first | decide | rfl, by first | decide | rfl, by first | decide | rfl, (fun _ _ _ h => nomatch h), by first | decide | rfl⟩,
   ⟨by first | decide | rfl, rfl, by first | decide | rfl, by first | decide | rfl, by first | decide | rfl, by first | decide | rfl, by first | decide | rfl,
     by first | decide | rfl, by first | decide | rfl, by first | decide | rfl, by first | decide | rfl, (fun _ _ _ h => nomatch h), by first | decide | rfl,
     by first | decide | rfl, by first | decide | rfl, by first | decide | rfl, by first | decide | rfl⟩,
   ⟨by first | decide | rfl, rfl, by first | decide | rfl, by first | decide | rfl, by first | decide | rfl, by first | decide | rfl, by first | decide | rfl,
     by first | decide | rfl⟩⟩

/-- MarkersOpenPhases: hypotheses that can be met. -/
theorem test_witness_MarkersOpenPhases :
    sta107.power = true ∧ cft59 = sta107.croft 0 ∧
      cft59.queue Eng.X = (⟨9,7,.marker (some ⟨[⟨0,64⟩],[⟨64,64⟩]⟩)⟩ : QEntry) :: ([⟨10,8,.bad .illop 0⟩] : List QEntry) ∧
      (⟨9,7,.marker (some ⟨[⟨0,64⟩],[⟨64,64⟩]⟩)⟩ : QEntry).item = Item.marker (some (⟨[⟨0,64⟩],[⟨64,64⟩]⟩ : Phase)) ∧ Claims.PhaseDone cft59 Eng.X ∧
      (∀ (f : Eng), f ≠ Eng.X → f = Eng.A ∨ f = Eng.M ∨ f = Eng.X ∨ f = Eng.G → Claims.Apart (⟨[⟨0,64⟩],[⟨64,64⟩]⟩ : Phase) (vget cft59.phases { } f.ix)) :=
  ⟨by first | decide | rfl, rfl, by first | decide | rfl, by first | decide | rfl, by first | decide | rfl,
    (fun f hf h => by rcases h with rfl | rfl | rfl | rfl <;> first | exact absurd rfl hf | exact apart_of (by decide))⟩

end W11

/-! ### Witnesses, part 12 -/

namespace W12

def cmk (ph : Phase) (o : Phase) : Croft := { ch with queues := vset c0.queues 4 [⟨9,7,.marker (some ph)⟩, ⟨10,8,.bad .illop 0⟩], phases := vset (vset c0.phases 1 o) 4 whole }
def cmx := cmk ⟨[⟨0,64⟩],[⟨64,64⟩]⟩ ⟨[⟨0,64⟩],[⟨120,64⟩]⟩
def stt (c : Croft) : State := {st c with time := 100}
def nst : Nest := { kind := .runb false false, live := {kind := .int32}, fa := 0, fb := 0, abase := 0, bbase := 524288, packed := false, chain := [], table := cw.mtab.toList, steps := 2, len := 2 }
def cn (n : Nest) : Croft := { cw with nest := some n, lands := [⟨6,4,2,.M,0,.nest,.snap t0 ⟨0,0,0⟩ .none⟩], slots := 16, share := 16 }
def pn : Pending := ⟨6,4,2,.M,0,.nest,.snap t0 ⟨0,0,0⟩ .none⟩
def rb1 : State := {st (cn {nst with k := 2}) with crofts := [(0,cn {nst with k := 2}),(1,{c0 with share := 5, used := 3}),(2,{c0 with rise := some (3,4), riseOn := true}),(4,{c0 with plan := some (3,4), planSt := .armed}),(5,{c0 with plan := some (3,4), planSt := .installed}),(8,cn {nst with begun := true, cost := 3, kind := .run false false, steps := 3}),(9,{cn {nst with begun := true, cost := 3, kind := .run false false, steps := 3} with slots := 0, share := 7, grade := 5, stand := 9, plan := some (4,3)})]}
def ck : Croft := {cn {nst with rounds := 1, begun := true, cost := 4} with sp := (({} : Memory).writeN 16 [0xFF,3]).writeN (524288+32) [1,0x80]}
def nk : Nest := {nst with rounds := 1, begun := true, cost := 4}
def msk : Memory := (({} : Memory).writeN 65536 [0,0x3C,1,0x3C]).writeN 524288 [0,0x3C,1,0x3C]
def mpk : Memory := (({} : Memory).writeN 65536 ([0,8,2,1] ++ [0,0,0,0] ++ [0x38,0,0,0,0xFF,7,0,0])).writeN 524288 [0x38]
def kn (k : NestKind) (lk : LiveKind) (fa : Nat) (pk : Bool) (b : Bool) (cost : Nat) : Nest := { kind := k, live := {kind := lk, vals := if lk = .fp32 then List.replicate 4096 0 else [], wins := if lk = .window then List.replicate 4096 {} else []}, fa := fa, fb := fa, abase := 65536, bbase := 524288, packed := pk, chain := [65536], table := cw.mtab.toList, steps := 2, len := 2, rounds := 1, begun := b, cost := cost }
def kc (n : Nest) : Croft := { cw with nest := some n, lands := [⟨6,4,2,.M,0,.nest,.snap t0 ⟨0,0,0⟩ .none⟩], slots := 160, share := 160, sp := if n.packed then mpk else msk }

def sta108 : State := st (cn {nst with k := 2, closed := true, flags := 3})
def cft60 : Croft := cn {nst with k := 2, closed := true, flags := 3}
def arg107 : Nest := {nst with k := 2, closed := true, flags := 3}
def sta109 : State := {st c0 with crofts := [(4,cn {nst with k := 2}),(5,{c0 with rise := some (3,4), riseOn := false}),(6,c0)]}
def arg108 : Nest := {nst with rounds := 1, walk := 3}
def sta110 : State := stt (cn {nst with rounds := 1, begun := true, cost := 30})
def cft61 : Croft := cn {nst with rounds := 1, begun := true, cost := 30}
def arg109 : Nest := {nst with rounds := 1, begun := true, cost := 30}
def sta111 : State := st (cn {nst with rounds := 3, breach := false})
def cft62 : Croft := cn {nst with rounds := 3, breach := false}
def arg110 : Nest := {nst with rounds := 3, breach := false}
def sta112 : State := st {cn {nst with rounds := 3, breach := false} with freeze := {ecc := true}}
def sta113 : State := stt (kc (kn (.run false false) .fp32 0 false true 4))
def cft63 : Croft := kc (kn (.run false false) .fp32 0 false true 4)
def arg111 : Nest := kn (.run false false) .fp32 0 false true 4
def sta114 : State := stt (kc (kn (.run true true) .window 0 false true 4))
def cft64 : Croft := kc (kn (.run true true) .window 0 false true 4)
def arg112 : Nest := kn (.run true true) .window 0 false true 4
def sta115 : State := stt (kc (kn (.run false false) .fp32 0 false true 0))
def cft65 : Croft := kc (kn (.run false false) .fp32 0 false true 0)
def arg113 : Nest := kn (.run false false) .fp32 0 false true 0
def sta116 : State := stt (kc (kn (.run false false) .fp32 2 true true 4))
def cft66 : Croft := kc (kn (.run false false) .fp32 2 true true 4)
def arg114 : Nest := kn (.run false false) .fp32 2 true true 4
def sta117 : State := stt (kc (kn (.lowr 32) .fp32 0 false false 0))
def cft67 : Croft := kc (kn (.lowr 32) .fp32 0 false false 0)
def cft68 : Croft := ((kc (kn (.lowr 32) .fp32 0 false false 0)).beginStep (kn (.lowr 32) .fp32 0 false false 0)).1
def arg115 : Nest := kn (.lowr 32) .fp32 0 false false 0
def arg116 : Nest := ((kc (kn (.lowr 32) .fp32 0 false false 0)).beginStep (kn (.lowr 32) .fp32 0 false false 0)).2
def sta118 : State := stt (kc (kn (.lowr 1) .window 0 false true 1))
def cft69 : Croft := kc (kn (.lowr 1) .window 0 false true 1)
def arg117 : Nest := kn (.lowr 1) .window 0 false true 1

/-- MarkersOpenPhases: hypotheses that can be met. -/
theorem test_witness_MarkersOpenPhases :
    (st cmx : State).power = true ∧ cmx = (st cmx : State).croft 0 ∧
      cmx.queue Eng.X = (⟨9,7,.marker (some ⟨[⟨0,64⟩],[⟨64,64⟩]⟩)⟩ : QEntry) :: ([⟨10,8,.bad .illop 0⟩] : List QEntry) ∧
      (⟨9,7,.marker (some ⟨[⟨0,64⟩],[⟨64,64⟩]⟩)⟩ : QEntry).item = Item.marker (some (⟨[⟨0,64⟩],[⟨64,64⟩]⟩ : Phase)) ∧ Claims.PhaseDone cmx Eng.X ∧
      (∃ (f : Eng), f ≠ Eng.X ∧ (f = Eng.A ∨ f = Eng.M ∨ f = Eng.X ∨ f = Eng.G) ∧ ¬Claims.Apart (⟨[⟨0,64⟩],[⟨64,64⟩]⟩ : Phase) (vget cmx.phases { } f.ix)) ∧
      Claims.Running cmx ∧ cmx.lands = [] ∧ Claims.Handles cmx :=
  ⟨by first | decide | rfl, rfl, by first | decide | rfl, by first | decide | rfl, by first | decide | rfl, ⟨.A, by decide, .inl rfl,
    fun h => h.1 ⟨64, 64⟩ (by decide) ⟨120, 64⟩ (by decide) 120 (by decide)⟩, by first | decide | rfl, by first | decide | rfl, ⟨by decide, by decide,
    by decide, by decide, by decide⟩⟩

/-- MillEvents: hypotheses that can be met, clause by clause. -/
theorem test_witness_MillEvents :
    (sta108.power = true ∧ cft60 = sta108.croft 0 ∧ cft60.nest = some arg107 ∧ arg107.steps ≤ arg107.k ∧ (arg107.closed = true ∨ arg107.breach = false ∧
      arg107.replay = false) ∧ cft60.lands = pn :: ([] : List Pending) ∧ pn.op = LandOp.nest ∧ pn.due ≤ cft60.landLimit)
    ∧ (rb1.power = true ∧ (List.Pairwise (fun (p q : Nat × Croft) => p.fst < q.fst) rb1.crofts))
    ∧ (sta109.power = true ∧ (∀ (k : Nat), k < 4 → (sta109.croft (4 * 1 + k)).plan = none))
    ∧ ((stt (cn {nst with rounds := 1, walk := 3}) : State).power = true ∧
      (cn {nst with rounds := 1, walk := 3} : Croft) = (stt (cn {nst with rounds := 1, walk := 3}) : State).croft 0 ∧
      (cn {nst with rounds := 1, walk := 3} : Croft).nest = some arg108 ∧ arg108.rounds ≠ 0 ∧ arg108.k < arg108.steps ∧ 0 < arg108.walk ∧
      0 < min (cn {nst with rounds := 1, walk := 3} : Croft).slots (Claims.millTime (cn {nst with rounds := 1, walk := 3} : Croft) (stt (cn {nst with rounds := 1, walk := 3}) : State).time - (cn {nst with rounds := 1, walk := 3} : Croft).slot))
    ∧ (sta110.power = true ∧ cft61 = sta110.croft 0 ∧ cft61.nest = some arg109 ∧ arg109.rounds ≠ 0 ∧ arg109.k < arg109.steps)
    ∧ (sta111.power = true ∧ cft62 = sta111.croft 0 ∧ cft62.nest = some arg110 ∧ arg110.replay = false ∧ arg110.breach = false ∧ arg110.k < arg110.steps ∧
      cft62.freeze.ecc = false ∧ cft62.kstep (Claims.millTime cft62 sta111.time) = none ∧ pn ∈ cft62.lands ∧ pn.op = LandOp.nest ∧ pn.due ≤ cft62.landLimit)
    ∧ (sta112.power = true ∧ (sta112.croft 0).freeze.ecc = true) :=
  ⟨⟨by first | decide | rfl, rfl, by first | decide | rfl, by first | decide | rfl, by first | decide | rfl, by first | decide | rfl, by first | decide | rfl,
    by first | decide | rfl⟩,
   ⟨by first | decide | rfl, by first | decide | rfl⟩,
   ⟨by first | decide | rfl, by first | decide | rfl⟩,
   ⟨by first | decide | rfl, rfl, by first | decide | rfl, by first | decide | rfl, by first | decide | rfl, by first | decide | rfl,
     by first | decide | rfl⟩,
   ⟨by first | decide | rfl, rfl, by first | decide | rfl, by first | decide | rfl, by first | decide | rfl⟩,
   ⟨by first | decide | rfl, rfl, by first | decide | rfl, by first | decide | rfl, by first | decide | rfl, by first | decide | rfl, by first | decide | rfl,
     by first | decide | rfl, by first | decide | rfl, by first | decide | rfl, by first | decide | rfl⟩,
   ⟨by first | decide | rfl, by first | decide | rfl⟩⟩

/-- BinaryKSteps: hypotheses that can be met. -/
theorem test_witness_BinaryKSteps :
    (stt ck : State).power = true ∧ ck = (stt ck : State).croft 0 ∧ ck.nest = some nk ∧ nk.rounds ≠ 0 ∧ nk.k < nk.steps ∧
      nk.kind = NestKind.runb false false ∧ nk.live.kind = LiveKind.int32 ∧ nk.walk = 0 ∧ nk.begun = true ∧ 0 < nk.cost ∧
      nk.cost ≤ min ck.slots (Claims.millTime ck (stt ck : State).time - ck.slot) :=
  ⟨by first | decide | rfl, rfl, by first | decide | rfl, by first | decide | rfl, by first | decide | rfl, by first | decide | rfl, by first | decide | rfl,
    by first | decide | rfl, by first | decide | rfl, by first | decide | rfl, by first | decide | rfl⟩

/-- RunAndLowRankKSteps: hypotheses that can be met, clause by clause. -/
theorem test_witness_RunAndLowRankKSteps :
    (sta113.power = true ∧ cft63 = sta113.croft 0 ∧ cft63.nest = some arg111 ∧ arg111.rounds ≠ 0 ∧ arg111.k < arg111.steps ∧ arg111.walk = 0 ∧
      (arg111.begun = true → cft63 = cft63 ∧ arg111 = arg111) ∧ (arg111.begun = false → (cft63, arg111) = cft63.beginStep arg111) ∧
      arg111.cost ≤ min cft63.slots (Claims.millTime cft63 sta113.time - cft63.slot) ∧ arg111.kind = NestKind.run false false ∧
      (arg111.packed = true → (elems (packedVector (cft63.sp.header (arg111.chain.getD arg111.k 0)) (cft63.sp.pairs (arg111.chain.getD arg111.k 0) (hdrPairs (cft63.sp.header (arg111.chain.getD arg111.k 0))))).runs).length = 2048) ∧
      0 < arg111.cost ∧ false = false ∧ arg111.live.kind = LiveKind.fp32)
    ∧ (sta114.power = true ∧ cft64 = sta114.croft 0 ∧ cft64.nest = some arg112 ∧ arg112.rounds ≠ 0 ∧ arg112.k < arg112.steps ∧ arg112.walk = 0 ∧
      (arg112.begun = true → cft64 = cft64 ∧ arg112 = arg112) ∧ (arg112.begun = false → (cft64, arg112) = cft64.beginStep arg112) ∧
      arg112.cost ≤ min cft64.slots (Claims.millTime cft64 sta114.time - cft64.slot) ∧ arg112.kind = NestKind.run true true ∧
      (arg112.packed = true → (elems (packedVector (cft64.sp.header (arg112.chain.getD arg112.k 0)) (cft64.sp.pairs (arg112.chain.getD arg112.k 0) (hdrPairs (cft64.sp.header (arg112.chain.getD arg112.k 0))))).runs).length = 2048) ∧
      0 < arg112.cost ∧ true = true ∧ arg112.live.kind = LiveKind.window)
    ∧ (sta115.power = true ∧ cft65 = sta115.croft 0 ∧ cft65.nest = some arg113 ∧ arg113.rounds ≠ 0 ∧ arg113.k < arg113.steps ∧ arg113.walk = 0 ∧
      (arg113.begun = true → cft65 = cft65 ∧ arg113 = arg113) ∧ (arg113.begun = false → (cft65, arg113) = cft65.beginStep arg113) ∧
      arg113.cost ≤ min cft65.slots (Claims.millTime cft65 sta115.time - cft65.slot) ∧ arg113.kind = NestKind.run false false ∧
      (arg113.packed = true → (elems (packedVector (cft65.sp.header (arg113.chain.getD arg113.k 0)) (cft65.sp.pairs (arg113.chain.getD arg113.k 0) (hdrPairs (cft65.sp.header (arg113.chain.getD arg113.k 0))))).runs).length = 2048) ∧
      arg113.cost = 0 ∧ (false = false ∧ arg113.live.kind = LiveKind.fp32 ∨ false = true ∧ arg113.live.kind = LiveKind.window ∧ arg113.k + 1 ≠ arg113.steps))
    ∧ (sta116.power = true ∧ cft66 = sta116.croft 0 ∧ cft66.nest = some arg114 ∧ arg114.rounds ≠ 0 ∧ arg114.k < arg114.steps ∧ arg114.walk = 0 ∧
      (arg114.begun = true → cft66 = cft66 ∧ arg114 = arg114) ∧ (arg114.begun = false → (cft66, arg114) = cft66.beginStep arg114) ∧
      arg114.cost ≤ min cft66.slots (Claims.millTime cft66 sta116.time - cft66.slot) ∧ arg114.kind = NestKind.run false false ∧
      (arg114.packed = true → (elems (packedVector (cft66.sp.header (arg114.chain.getD arg114.k 0)) (cft66.sp.pairs (arg114.chain.getD arg114.k 0) (hdrPairs (cft66.sp.header (arg114.chain.getD arg114.k 0))))).runs).length = 2048) ∧
      0 < arg114.cost ∧ false = false ∧ arg114.live.kind = LiveKind.fp32)
    ∧ (sta117.power = true ∧ cft67 = sta117.croft 0 ∧ cft67.nest = some arg115 ∧ arg115.rounds ≠ 0 ∧ arg115.k < arg115.steps ∧ arg115.walk = 0 ∧
      (arg115.begun = true → cft68 = cft67 ∧ arg116 = arg115) ∧ (arg115.begun = false → (cft68, arg116) = cft67.beginStep arg115) ∧
      arg116.cost ≤ min cft67.slots (Claims.millTime cft67 sta117.time - cft67.slot) ∧ arg116.kind = NestKind.lowr 32 ∧ 0 < arg116.cost ∧
      arg116.live.kind = LiveKind.fp32)
    ∧ (sta118.power = true ∧ cft69 = sta118.croft 0 ∧ cft69.nest = some arg117 ∧ arg117.rounds ≠ 0 ∧ arg117.k < arg117.steps ∧ arg117.walk = 0 ∧
      (arg117.begun = true → cft69 = cft69 ∧ arg117 = arg117) ∧ (arg117.begun = false → (cft69, arg117) = cft69.beginStep arg117) ∧
      arg117.cost ≤ min cft69.slots (Claims.millTime cft69 sta118.time - cft69.slot) ∧ arg117.kind = NestKind.lowr 1 ∧ 0 < arg117.cost ∧
      arg117.live.kind = LiveKind.window) :=
  ⟨⟨by first | decide | rfl, rfl, by first | decide | rfl, by first | decide | rfl, by first | decide | rfl, by first | decide | rfl, by first | decide | rfl,
    by first | decide | rfl, by first | decide | rfl, by first | decide | rfl, by first | decide | rfl, by first | decide | rfl, by first | decide | rfl,
    by first | decide | rfl⟩,
   ⟨by first | decide | rfl, rfl, by first | decide | rfl, by first | decide | rfl, by first | decide | rfl, by first | decide | rfl, by first | decide | rfl,
     by first | decide | rfl, by first | decide | rfl, by first | decide | rfl, by first | decide | rfl, by first | decide | rfl, by first | decide | rfl,
     by first | decide | rfl⟩,
   ⟨by first | decide | rfl, rfl, by first | decide | rfl, by first | decide | rfl, by first | decide | rfl, by first | decide | rfl, by first | decide | rfl,
     by first | decide | rfl, by first | decide | rfl, by first | decide | rfl, by first | decide | rfl, by first | decide | rfl, by first | decide | rfl⟩,
   ⟨by first | decide | rfl, rfl, by first | decide | rfl, by first | decide | rfl, by first | decide | rfl, by first | decide | rfl, by first | decide | rfl,
     by first | decide | rfl, by first | decide | rfl, by first | decide | rfl, by first | decide | rfl, by first | decide | rfl, by first | decide | rfl,
     by first | decide | rfl⟩,
   ⟨by first | decide | rfl, rfl, by first | decide | rfl, by first | decide | rfl, by first | decide | rfl, by first | decide | rfl, by first | decide | rfl,
     by first | decide | rfl, by first | decide | rfl, by first | decide | rfl, by first | decide | rfl, by first | decide | rfl⟩,
   ⟨by first | decide | rfl, rfl, by first | decide | rfl, by first | decide | rfl, by first | decide | rfl, by first | decide | rfl, by first | decide | rfl,
     by first | decide | rfl, by first | decide | rfl, by first | decide | rfl, by first | decide | rfl, by first | decide | rfl⟩⟩

end W12

/-! ### Witnesses, part 13 -/

namespace W13

def cc (k : CopyCmd) : Croft := { cm 1 with copyq := [k, {k with seq := 99}] }
def kc (kd : CopyKind) : CopyCmd := { seq := 3, pc := 1, launch := 0, arv := 2, kind := kd, done := 1 }
def pt : Memory := ((({} : Memory).writeN 0 (leBytes 8 (2^63+1))).writeN 8192 (leBytes 8 (2^63+2))).writeN 16384 (leBytes 8 (2^63+2^62+2^57+1024))
def ow : Owner := { crofts := [0], space := 2^20, res := Vector.replicate 16 1000, root := some 0 }
def so (k : CopyCmd) : State := { st (cc k) with hbm := (pt.write (2^23+8300) 0x5A), owners := [(0, ow)] }
def kr := kc (.copy 8192 false 1024 .sp false 3)
def okS {ε α} (d : α) (e : Except ε α) : α := match e with | .ok x => x | _ => d
def r1 := okS (([] : List Byte), so kr) ((so kr).cmdRead 0 8256 64)
def kw := kc (.copy 8 true 8192 .owner false 3)
def r2 := okS (so kw) ((so kw).cmdWrite 0 8256 ((cm 1).sp.readN 72 64) false)
def cx (k : IndexCmd) : Croft := { cm 4 with sp := (({} : Memory).writeN 1024 [2,0,0,0,99,0,0,0,1,0,0,0]).writeN (4096+32) [1,2,3,4,5,6,7,8,9,10,11,12,13,14,15,16], indexq := [k] }
def dg : List Byte := leBytes 8 (2^56+4096) ++ leBytes 8 (2^56+8192) ++ leBytes 4 10 ++ leBytes 2 4 ++ leBytes 1 0 ++ leBytes 1 0 ++ leBytes 1 0 ++ leBytes 1 (16+3) ++ leBytes 2 0 ++ leBytes 4 16 ++ leBytes 4 1024 ++ leBytes 4 3
def kx (op done : Nat) : IndexCmd := { seq := 3, pc := 1, launch := 0, arv := 2, op := op, desc := BitVec.ofNat 512 (leNat dg), done := done }
def cg (k : GenCmd) : Croft := { cm 5 with genq := [k, {k with seq := 77}], rows := vset (vset c0.rows 2 {st := .fast, step := 3, token := 5}) 3 {st := .withheld, step := 3}, qr := [] }
def kg (op : Nat) : GenCmd := { seq := 3, pc := 1, launch := 0, arv := 2, op := op, k := 2, block := 5 + (if op = 0 || op = 3 then 0 else BitVec.ofNat 512 (3*2^(8*0x1c))) }
def km : GenCmd := {kg 4 with block := 4096 + 832*2^32 + 3*2^(8*0x1c), x0 := 100}
def kf : CopyCmd := {kc (.copy 8 true 1016 .sp false 2) with fin := true, flags := 3, ab := some 3}
def cfin (a : Barrier) : Croft := {cc kf with abs := vset c0.abs 3 a, arvRes := vset c0.arvRes 1 1}
def kgf (k : GenCmd) (l : List Word64) : GenCmd := {k with fin := some l}
def cd (t1 t2 : Nat) (s1 s2 : SlotState) (k : Nat) : Croft := { cm 5 with genq := [{kg 6 with fin := some [], k := k, block := BitVec.ofNat 512 (14 + 2^4*0 + 9*2^6 + 10*2^12 + 11*2^18 + 5*2^32 + 6*2^64 + 7*2^96)}], rows := vset (vset c0.rows 14 {st := s1, token := t1}) 15 {st := s2, token := t2}, qr := [] }
def kd (k : Nat) : GenCmd := {kg 6 with fin := some [], k := k, block := BitVec.ofNat 512 (14 + 2^4*0 + 9*2^6 + 10*2^12 + 11*2^18 + 5*2^32 + 6*2^64 + 7*2^96)}
def raw : List Byte := [0xE7,1] ++ leBytes 2 5 ++ leBytes 2 5 ++ [1,0] ++ leBytes 4 9 ++ leBytes 4 0 ++ leBytes 8 0
def rawb : List Byte := [1,2,3,4,5] ++ leBytes 4 (crc32c [1,2,3,4,5]) ++ List.replicate 7 0
def kd0 (sp : Space) : CopyCmd := { kc (.copyd 8192 1024 sp false 1) with done := 0, out := 0, next := 8192 }
def sd (sp : Space) : State := { st (cc (kd0 sp)) with hbm := (pt.writeN (2^23+8192) (raw ++ rawb)), owners := [(0, ow)] }
def d1 (sp : Space) := okS (([] : List Byte), sd sp) ((sd sp).cmdRead 0 8192 24)
def d2 (sp : Space) := okS (([] : List Byte), sd sp) ((sd sp).cmdRead 0 (8192+24) 16)
def kcl (op nf rid sq : Nat) : CopyCmd := { kc (.coll 1024 op nf rid 5 2 4096 64) with seq := sq }
def cl (k : CopyCmd) (x : Nat) : Croft := { cm 1 with copyq := [k], sp := ((({} : Memory).writeN 1024 (leBytes 4 x)).writeN (1024+128) (leBytes 4 (x+5))) }
def scl (op nf rid : Nat) : State := { st (cl (kcl op nf rid 3) 0x3F800000) with crofts := [(0, cl (kcl op nf rid 3) 0x3F800000), (7, cl (kcl op nf rid 4) 0x40000000)], owners := [(0, { ow with crofts := [0,7]})], coll := [(0,5,[(0,3),(7,4)])] }
def mms (op nf rid : Nat) : List Member := [⟨0, 0, 0, false, kcl op nf rid 3, 1024, op, nf, rid, 2, 4096, 64, none⟩, ⟨7, 0, 7, false, kcl op nf rid 4, 1024, op, nf, rid, 2, 4096, 64, none⟩]
def pc1 : PeerColl := { owner := 0, cnum := 5, index := 3, croft := 9, op := 2, nf := 1, carry := true, parts := 2, n := 64, x := List.replicate 64 0x40000000, res := List.replicate 64 0 }
def scp : State := { st (cl (kcl 2 1 3 3) 0x3F800000) with owners := [(0, ow)], peers := [(4, pc1), (6, { pc1 with cnum := 6 })], coll := [(0,5,[(0,3),(2^20+4,0)])] }
def mmp : List Member := [⟨0, 0, 0, false, kcl 2 1 3 3, 1024, 2, 1, 3, 2, 4096, 64, none⟩, pc1.member (2^20+4)]
def cgr : Croft := { cg {kg 3 with k := 1} with rows := vset c0.rows 1 {st := .resolved, z := 0x3F800000, cands := [⟨9, 0x3F800000⟩]} }
def bl (l : List Nat) : BitVec 512 := BitVec.ofNat 512 (leNat (l.flatMap fun x => leBytes 4 x))
def kS : GenCmd := { seq := 3, pc := 1, launch := 0, arv := 2, op := 1, k := 2, block := bl [8192, 4, 0x3F800000, 0x3F000000, 0x3F666666, 16384, 9, 3] }
def nx (o : Host.Outcome Machine.State Fault Refusal) : Machine.State := match o with | .next t => t | _ => .reset
def csh (k : GenCmd) (m : Option Mask) (r : RowSlot) : Croft := { cm 5 with genq := [k, {k with seq := 77}], rows := vset c0.rows 2 {r with step := 3, mask := m, rowMask := m}, qr := [], sp := ({} : Memory).writeN 8192 ([0x3F800000, 0x40000000, 0x40000000, 0xBF800000].flatMap fun x => leBytes 4 x) }
def gsh (m : Option Mask) (r : RowSlot) := csh {kS with fin := some []} m r
def kSL (cap : Nat) : GenCmd := { kS with op := 2, block := bl [4096, cap], fin := some [] }
def gsl (cap topp : Nat) : Croft := csh (kSL cap) none {st := .slow, lbase := 8192, v := 4, ks := 0x3F800000, topp := topp}
def kadd (sp : Space) := kc (.copy 8192 true 1024 sp true 2)
def cadd (sp : Space) : Croft := { cc (kadd sp) with sp := ((cc (kadd sp)).sp.writeN 8256 (leBytes 4 0x3F800000)).writeN 1088 (leBytes 4 0x40000000), acm := ({} : Memory).writeN 1088 (leBytes 4 0x7F7FFFFF) }
def scr : State := { scl 0 0 0 with coll := [] }
def dgf (et n nb : Nat) : List Byte := leBytes 8 (2^56+4096) ++ leBytes 8 (2^56+8192) ++ leBytes 4 10 ++ leBytes 2 4 ++ leBytes 1 et ++ leBytes 1 0 ++ leBytes 1 0 ++ leBytes 1 0 ++ leBytes 2 0 ++ leBytes 4 16 ++ leBytes 4 1024 ++ leBytes 4 n ++ leBytes 4 1536 ++ leBytes 4 nb
def kxf (op et done n nb : Nat) : IndexCmd := { seq := 3, pc := 1, launch := 0, arv := 2, op := op, desc := BitVec.ofNat 512 (leNat (dgf et n nb)), done := done }
def cxf (k : IndexCmd) : Croft := { cm 4 with indexq := [k], sp := (((({} : Memory).writeN 1024 ([2,99,1,2].flatMap fun x => leBytes 4 x)).writeN 1536 ([0,3,3,4].flatMap fun x => leBytes 4 x)).writeN (4096+16) ([0x3F800000,0x7F7FFFFF,0x80000000,1,0x40000000,0x7F7FFFFF,0x80000000,0xFF800000].flatMap fun x => leBytes 4 x)).writeN 8192 ([0x3F800000,0x7F7FFFFF,0x80000000,0x7F800000,1,2,3,4,5,6,7,8,0x40400000,5,6,7].flatMap fun x => leBytes 4 x) }
def chX (k : IndexCmd) := cxf k
def kmm : GenCmd := {km with mask := some [(true,5),(false,262139)]}
def cgr2 : Croft := { cg {kg 3 with k := 1} with rows := vset c0.rows 1 {st := .resolved, z := 0x3F800000, cands := []} }
def kgc (done base : Nat) : GenCmd := { seq := 3, pc := 1, launch := 0, arv := 2, op := 9, k := 2, done := done, base := base, block := bl [8192+128, 0, 3, 1] }
def cgc (k : GenCmd) : Croft := { cm 5 with genq := [k, {k with seq := 77}], staging := {base := 4096, esz := 2, cap := 4, fill := 3, valid := true, last := 1}, sp := (cm 5).sp.writeN 4096 [7,8,9] }
def sgc (k : GenCmd) : State := { so k0 with crofts := [(0, cgc k)], hbm := (pt.writeN (2^23+8192+128+8) (leBytes 8 (8192+1024))) }
  where k0 : CopyCmd := kf
def g1 := okS (([] : List Byte), sgc (kgc 0 0)) ((sgc (kgc 0 0)).cmdRead 0 (8192+128+8*1) 8)
def g2 := okS (sgc (kgc 0 0)) (g1.2.cmdWrite 0 (leNat g1.1 + 128*1) ((cgc (kgc 0 0)).sp.readN 4096 64) false)
def g3 := okS (sgc (kgc 3 9216)) ((sgc (kgc 3 9216)).cmdWrite 0 (9216+64) ((cgc (kgc 3 9216)).sp.readN (4096+192) 64) false)
def dgo (et n nb tb db : Nat) : List Byte := leBytes 8 tb ++ leBytes 8 db ++ leBytes 4 10 ++ leBytes 2 4 ++ leBytes 1 et ++ leBytes 1 0 ++ leBytes 1 0 ++ leBytes 1 0 ++ leBytes 2 0 ++ leBytes 4 16 ++ leBytes 4 1024 ++ leBytes 4 n ++ leBytes 4 1536 ++ leBytes 4 nb
def kxo (op et done n nb tb db : Nat) : IndexCmd := { seq := 3, pc := 1, launch := 0, arv := 2, op := op, desc := BitVec.ofNat 512 (leNat (dgo et n nb tb db)), done := done }
def cxo (k : IndexCmd) : Croft := { cxf k with tlb := [] }
def sxo (k : IndexCmd) : State := { so kf with crofts := [(0, cxo k)] }
def wro (k : IndexCmd) (l : List (Space × Nat)) (a : Nat) (f : List (List Byte) → List Byte) (rmw : Bool) : State := okS (sxo k) ((rowsOf (sxo k) 0 16 l).2.cmdWrite 0 a (f (rowsOf (sxo k) 0 16 l).1) rmw)
def k0o := kxo 0 0 0 4 0 8200 (2^56+8192)
def k0p := kxo 0 0 1 4 0 8200 8192
def k1o := kxo 1 0 0 4 0 8192 (2^56+8192)
def k2o := kxo 2 0 0 4 0 8192 (2^56+8192)
def l2o : List (Space × Nat) := [(.owner, 8192+32), (.sp, 8192), (.sp, 8192+48)]
def k3o := kxo 3 0 2 4 3 8192 (2^56+8192)

def sta119 : State := st (cc (kc (.copy 8 true 1016 .sp false 2)))
def cft70 : Croft := cc (kc (.copy 8 true 1016 .sp false 2))
def arg118 : CopyCmd := kc (.copy 8 true 1016 .sp false 2)
def arg119 : List CopyCmd := [{kc (.copy 8 true 1016 .sp false 2) with seq := 99}]
def arg120 : List Byte := (cm 1).sp.readN 72 64
def sta120 : State := st (cc (kc (.copy 8 true 1024 .acm false 3)))
def cft71 : Croft := cc (kc (.copy 8 true 1024 .acm false 3))
def arg121 : CopyCmd := kc (.copy 8 true 1024 .acm false 3)
def arg122 : List CopyCmd := [{kc (.copy 8 true 1024 .acm false 3) with seq := 99}]
def sta121 : State := so kw
def cft72 : Croft := (so kw).croft 0
def cft73 : Croft := cx (kx 0 0)
def arg123 : IndexCmd := kx 0 0
def arg124 : List IndexCmd := []
def cft74 : Croft := cx (kx 0 1)
def arg125 : IndexCmd := kx 0 1
def cft75 : Croft := cx (kx 1 0)
def arg126 : IndexCmd := kx 1 0
def cft76 : Croft := cx (kx 1 1)
def arg127 : IndexCmd := kx 1 1
def cft77 : Croft := cx (kx 0 3)
def arg128 : IndexCmd := kx 0 3
def cft78 : Croft := cg (kg 0)
def arg129 : GenCmd := kg 0
def cft79 : Croft := cg (kg 5)
def arg130 : GenCmd := kg 5
def cft80 : Croft := cg km
def cft81 : Croft := cg {kg 3 with k := 3}
def arg131 : GenCmd := {kg 3 with k := 3}
def arg132 : List CopyCmd := [{kf with seq := 99}]
def cft82 : Croft := cx {kx 0 3 with reply := some 9}
def arg133 : IndexCmd := {kx 0 3 with reply := some 9}
def sta122 : State := st {cx {kx 0 3 with reply := some 9} with qr := [5,6,7], qrLate := ((cx {kx 0 3 with reply := some 9}).landLimit + 1, 2)}
def cft83 : Croft := {cx {kx 0 3 with reply := some 9} with qr := [5,6,7], qrLate := ((cx {kx 0 3 with reply := some 9}).landLimit + 1, 2)}
def sta123 : State := st {cx {kx 0 3 with reply := some 9} with qr := [5,6,7], qrLate := ((cx {kx 0 3 with reply := some 9}).landLimit, 2)}
def cft84 : Croft := {cx {kx 0 3 with reply := some 9} with qr := [5,6,7], qrLate := ((cx {kx 0 3 with reply := some 9}).landLimit, 2)}
def cft85 : Croft := cg (kgf (kg 0) [])
def arg134 : GenCmd := kgf (kg 0) []
def arg135 : List Word64 := []
def cft86 : Croft := cg (kgf ({kg 1 with k := 3}) [])
def arg136 : GenCmd := kgf ({kg 1 with k := 3}) []
def arg137 : List GenCmd := [{kgf ({kg 1 with k := 3}) [] with seq := 77}]
def cft87 : Croft := cg (kgf (kg 3) [7])
def arg138 : GenCmd := kgf (kg 3) [7]
def cft88 : Croft := cg (kgf (kg 3) [])
def arg139 : GenCmd := kgf (kg 3) []
def cft89 : Croft := cg (kgf (kg 5) [])
def arg140 : GenCmd := kgf (kg 5) []
def cft90 : Croft := cg (kgf ({kg 5 with k := 9}) [])
def arg141 : GenCmd := kgf ({kg 5 with k := 9}) []
def arg142 : List GenCmd := [{kgf ({kg 5 with k := 9}) [] with seq := 77}]
def sta124 : State := st (cg (kgf ({km with mask := some [(true,5)]}) []))
def cft91 : Croft := cg (kgf ({km with mask := some [(true,5)]}) [])
def arg143 : GenCmd := kgf ({km with mask := some [(true,5)]}) []
def arg144 : List GenCmd := [{kgf ({km with mask := some [(true,5)]}) [] with seq := 77}]
def cft92 : Croft := cg (kgf ({kg 7 with x0 := 0}) [])
def arg145 : GenCmd := kgf ({kg 7 with x0 := 0}) []
def arg146 : List GenCmd := [{kgf ({kg 7 with x0 := 0}) [] with seq := 77}]
def sta125 : State := st (cg (kgf ({kg 8 with block := 64 + 4096*2^32 + (256+4096)*0}) []))
def cft93 : Croft := cg (kgf ({kg 8 with block := 64 + 4096*2^32 + (256+4096)*0}) [])
def arg147 : GenCmd := kgf ({kg 8 with block := 64 + 4096*2^32 + (256+4096)*0}) []
def arg148 : List GenCmd := [{kgf ({kg 8 with block := 64 + 4096*2^32 + (256+4096)*0}) [] with seq := 77}]
def sta126 : State := st (cg (kgf ({kg 8 with block := 64 + 4096*2^32 + 2*2^64 + 1*2^80 + 2*2^88 + 1*2^96}) []))
def cft94 : Croft := cg (kgf ({kg 8 with block := 64 + 4096*2^32 + 2*2^64 + 1*2^80 + 2*2^88 + 1*2^96}) [])
def arg149 : GenCmd := kgf ({kg 8 with block := 64 + 4096*2^32 + 2*2^64 + 1*2^80 + 2*2^88 + 1*2^96}) []
def arg150 : List GenCmd := [{kgf ({kg 8 with block := 64 + 4096*2^32 + 2*2^64 + 1*2^80 + 2*2^88 + 1*2^96}) [] with seq := 77}]
def cft95 : Croft := cg (kgf (kg 9) [])
def arg151 : GenCmd := kgf (kg 9) []
def cft96 : Croft := cd 5 6 .fast .fast 2
def arg152 : GenCmd := kd 2
def arg153 : List GenCmd := []
def cft97 : Croft := cd 5 7 .fast .fast 2
def cft98 : Croft := cd 5 6 .fast .withheld 2
def cft99 : Croft := cd 5 6 .withheld .fast 2
def cft100 : Croft := (sd .sp).croft 0
def arg154 : CopyCmd := kd0 .sp
def arg155 : List Byte := rawb.take 16
def arg156 : Block := ⟨5,5,true,List.replicate 16 0⟩
def arg157 : List Byte := [1,2,3,4,5]
def cft101 : Croft := (sd .acm).croft 0
def arg158 : CopyCmd := kd0 .acm
def sta127 : State := scl 0 0 0
def arg159 : List Member := mms 0 0 0
def arg160 : Member := ⟨0, 0, 0, false, kcl 0 0 0 3, 1024, 0, 0, 0, 2, 4096, 64, none⟩
def sta128 : State := scl 1 1 3
def arg161 : List Member := mms 1 1 3
def arg162 : Member := ⟨0, 0, 0, false, kcl 1 1 3 3, 1024, 1, 1, 3, 2, 4096, 64, none⟩
def arg163 : GenCmd := {kg 3 with k := 1}
def cft102 : Croft := gsh none {}
def arg164 : GenCmd := {kS with fin := some []}
def arg165 : List GenCmd := [{kS with seq := 77, fin := some []}]
def sta129 : State := st (gsh (some [(true,1),(false,2),(true,1)]) {})
def cft103 : Croft := gsh (some [(true,1),(false,2),(true,1)]) {}
def cft104 : Croft := gsh (some [(true,4)]) {}
def cft105 : Croft := gsh (some [(false,4)]) {}
def cft106 : Croft := gsh none {st := .withheld}
def cft107 : Croft := gsl 1 0x3F000000
def arg166 : GenCmd := kSL 1
def cft108 : Croft := gsl 5 0x3F000000
def arg167 : GenCmd := kSL 5
def cft109 : Croft := gsl 3 0x3F800000
def arg168 : GenCmd := kSL 3
def arg169 : List Word64 := []
-- ADDW and to owner memory at its last unit
def sta130 : State := st (cadd .sp)
def cft110 : Croft := cadd .sp
def arg170 : CopyCmd := kadd .sp
def sta131 : State := st (cadd .acm)
def cft111 : Croft := cadd .acm
def arg171 : CopyCmd := kadd .acm
def arg172 : List Byte := ((cadd .acm).sp.readN 8256 64)
-- a COLL registers
def cft112 : Croft := scr.croft 0
def arg173 : CopyCmd := kcl 0 0 0 3
def cft113 : Croft := cxf (kxf 2 0 0 4 0)
def arg174 : IndexCmd := kxf 2 0 0 4 0
def cft114 : Croft := cxf (kxf 2 0 1 4 0)
def arg175 : IndexCmd := kxf 2 0 1 4 0
def cft115 : Croft := cxf (kxf 2 0 2 4 0)
def arg176 : IndexCmd := kxf 2 0 2 4 0
def cft116 : Croft := cxf (kxf 3 0 0 4 3)
def arg177 : IndexCmd := kxf 3 0 0 4 3
def cft117 : Croft := cxf (kxf 3 0 1 4 3)
def arg178 : IndexCmd := kxf 3 0 1 4 3
def cft118 : Croft := cxf (kxf 3 8 3 4 3)
def arg179 : IndexCmd := kxf 3 8 3 4 3
def cft119 : Croft := cg kmm
def sta132 : State := sgc (kgc 0 0)
def cft120 : Croft := cgc (kgc 0 0)
def arg180 : GenCmd := kgc 0 0
def arg181 : Nat := leNat g1.1
def sta133 : State := sgc (kgc 3 9216)
def cft121 : Croft := cgc (kgc 3 9216)
def arg182 : GenCmd := kgc 3 9216
def arg183 : List Byte := []

-- replies of XBAG, and index commands on owner memory
def cft122 : Croft := cxf (kxf 1 8 4 4 0)
def arg184 : IndexCmd := kxf 1 8 4 4 0
def cft123 : Croft := (sxo k0o).croft 0
def arg185 : List (List Byte) := (rowsOf (sxo k0o) 0 16 [(.owner, 8200+32)]).1
def sta134 : State := (rowsOf (sxo k0o) 0 16 [(.owner, 8200+32)]).2
def cft124 : Croft := (sxo k0p).croft 0
def sta135 : State := wro k0p [] (8192+16) (fun _ => List.replicate 16 0) false
def cft125 : Croft := (sxo k1o).croft 0
def sta136 : State := wro k1o [(.sp, 8192)] (8192+32) (fun b => b.headD []) true
def cft126 : Croft := (sxo k2o).croft 0
def sta137 : State := wro k2o l2o (8192+32) (fun b => (Claims.sumBytes 0 true 16 (b.map (Claims.rowElem 4))).1) true
def cft127 : Croft := (sxo k3o).croft 0
def arg186 : List (List Byte) := (rowsOf (sxo k3o) 0 16 [(.owner, 8192+32)]).1
def sta138 : State := (rowsOf (sxo k3o) 0 16 [(.owner, 8192+32)]).2

/-- CopyUnits: hypotheses that can be met, clause by clause. -/
theorem test_witness_CopyUnits :
    (sta119.power = true ∧ cft70 = sta119.croft 0 ∧ cft70.copyq = arg118 :: arg119 ∧ arg118.halt = Halt.no ∧ arg118.fin = false ∧ cft70.freeze.held = none ∧
      Claims.AllUp cft70 ∧ (arg118.done ≠ 0 ∨ arg118.out ≠ 0 ∨ Claims.CommandReady cft70 arg118.seq arg118.ord.cls) ∧
      arg118.kind = CopyKind.copy 8 true 1016 Space.sp false 2 ∧ Space.sp ≠ Space.owner ∧ (true = true → sta119 = sta119 ∧
      arg120 = cft70.sp.readN (8 + 64 * arg118.done) 64) ∧ (true = false → sta119.cmdRead 0 (8 + 64 * arg118.done) 64 = Except.ok (arg120, sta119)) ∧
      arg120.length = 64)
    ∧ (sta120.power = true ∧ cft71 = sta120.croft 0 ∧ cft71.copyq = arg121 :: arg122 ∧ arg121.halt = Halt.no ∧ arg121.fin = false ∧ cft71.freeze.held = none ∧
      Claims.AllUp cft71 ∧ (arg121.done ≠ 0 ∨ arg121.out ≠ 0 ∨ Claims.CommandReady cft71 arg121.seq arg121.ord.cls) ∧
      arg121.kind = CopyKind.copy 8 true 1024 Space.acm false 3 ∧ Space.acm ≠ Space.owner ∧ (true = true → sta120 = sta120 ∧
      arg120 = cft71.sp.readN (8 + 64 * arg121.done) 64) ∧ (true = false → sta120.cmdRead 0 (8 + 64 * arg121.done) 64 = Except.ok (arg120, sta120)) ∧
      arg120.length = 64)
    ∧ (sta121.power = true ∧ cft72 = sta121.croft 0 ∧ cft72.copyq = kw :: ([{kw with seq := 99}] : List CopyCmd) ∧ kw.halt = Halt.no ∧ kw.fin = false ∧
      cft72.freeze.held = none ∧ Claims.AllUp cft72 ∧ (kw.done ≠ 0 ∨ kw.out ≠ 0 ∨ Claims.CommandReady cft72 kw.seq kw.ord.cls) ∧
      kw.kind = CopyKind.copy 8 true 8192 Space.owner false 3 ∧ (true = true → sta121 = sta121 ∧ arg120 = cft72.sp.readN (8 + 64 * kw.done) 64) ∧
      (true = false → sta121.cmdRead 0 (8 + 64 * kw.done) 64 = Except.ok (arg120, sta121)) ∧
      sta121.cmdWrite 0 (8192 + 64 * kw.done) arg120 false = Except.ok r2)
    ∧ ((sd .sp : State).power = true ∧ cft100 = (sd .sp : State).croft 0 ∧ cft100.copyq = arg154 :: ([{kd0 .sp with seq := 99}] : List CopyCmd) ∧
      arg154.halt = Halt.no ∧ arg154.fin = false ∧ cft100.freeze.held = none ∧ Claims.AllUp cft100 ∧
      (arg154.done ≠ 0 ∨ arg154.out ≠ 0 ∨ Claims.CommandReady cft100 arg154.seq arg154.ord.cls) ∧ arg154.kind = CopyKind.copyd 8192 1024 Space.sp false 1 ∧
      Space.sp ≠ Space.owner ∧ (sd .sp : State).cmdRead 0 arg154.next 24 = Except.ok (raw, ((d1 .sp).2 : State)) ∧ blockOf raw = some arg156 ∧
      ((d1 .sp).2 : State).cmdRead 0 (arg154.next + 24) (arg156.size - 24) = Except.ok (arg155, ((d2 .sp).2 : State)) ∧
      blockBody arg156 arg155 = some arg157 ∧ (false = true → arg157.length % 4 = 0 ∧
      (arg154.tail ++ List.drop (arg154.out - arg154.pos) arg157).length % 4 = 0 ∧ arg154.out % 4 = 0))
    ∧ ((sd .acm : State).power = true ∧ cft101 = (sd .acm : State).croft 0 ∧ cft101.copyq = arg158 :: ([{kd0 .acm with seq := 99}] : List CopyCmd) ∧
      arg158.halt = Halt.no ∧ arg158.fin = false ∧ cft101.freeze.held = none ∧ Claims.AllUp cft101 ∧
      (arg158.done ≠ 0 ∨ arg158.out ≠ 0 ∨ Claims.CommandReady cft101 arg158.seq arg158.ord.cls) ∧ arg158.kind = CopyKind.copyd 8192 1024 Space.acm false 1 ∧
      Space.acm ≠ Space.owner ∧ (sd .acm : State).cmdRead 0 arg158.next 24 = Except.ok (raw, ((d1 .acm).2 : State)) ∧ blockOf raw = some arg156 ∧
      ((d1 .acm).2 : State).cmdRead 0 (arg158.next + 24) (arg156.size - 24) = Except.ok (arg155, ((d2 .acm).2 : State)) ∧
      blockBody arg156 arg155 = some arg157 ∧ (false = true → arg157.length % 4 = 0 ∧
      (arg158.tail ++ List.drop (arg158.out - arg158.pos) arg157).length % 4 = 0 ∧ arg158.out % 4 = 0))
    ∧ (sta130.power = true ∧ cft110 = sta130.croft 0 ∧ cft110.copyq = arg170 :: ([{kadd .sp with seq := 99}] : List CopyCmd) ∧ arg170.halt = Halt.no ∧
      arg170.fin = false ∧ cft110.freeze.held = none ∧ Claims.AllUp cft110 ∧
      (arg170.done ≠ 0 ∨ arg170.out ≠ 0 ∨ Claims.CommandReady cft110 arg170.seq arg170.ord.cls) ∧ arg170.kind = CopyKind.copy 8192 true 1024 Space.sp true 2 ∧
      Space.sp ≠ Space.owner ∧ (true = true → sta130 = sta130 ∧ ((cadd .sp).sp.readN 8256 64 : List Byte) = cft110.sp.readN (8192 + 64 * arg170.done) 64) ∧
      (true = false → sta130.cmdRead 0 (8192 + 64 * arg170.done) 64 = Except.ok (((cadd .sp).sp.readN 8256 64 : List Byte), sta130)) ∧
      ((cadd .sp).sp.readN 8256 64 : List Byte).length = 64)
    ∧ (sta131.power = true ∧ cft111 = sta131.croft 0 ∧ cft111.copyq = arg171 :: ([{kadd .acm with seq := 99}] : List CopyCmd) ∧ arg171.halt = Halt.no ∧
      arg171.fin = false ∧ cft111.freeze.held = none ∧ Claims.AllUp cft111 ∧
      (arg171.done ≠ 0 ∨ arg171.out ≠ 0 ∨ Claims.CommandReady cft111 arg171.seq arg171.ord.cls) ∧
      arg171.kind = CopyKind.copy 8192 true 1024 Space.acm true 2 ∧ Space.acm ≠ Space.owner ∧ (true = true → sta131 = sta131 ∧
      arg172 = cft111.sp.readN (8192 + 64 * arg171.done) 64) ∧ (true = false → sta131.cmdRead 0 (8192 + 64 * arg171.done) 64 = Except.ok (arg172, sta131)) ∧
      arg172.length = 64) :=
  ⟨⟨by first | decide | rfl, rfl, by first | decide | rfl, by first | decide | rfl, by first | decide | rfl, by first | decide | rfl,
    by unfold Claims.AllUp; decide, by first | exact .inl (by decide) | exact .inr (.inl (by decide)) | exact .inr (.inr (commandReady_of (by decide))),
    by first | decide | rfl, by first | decide | rfl, (fun _ => ⟨rfl, by decide⟩), (fun h => nomatch h), by first | decide | rfl⟩,
   ⟨by first | decide | rfl, rfl, by first | decide | rfl, by first | decide | rfl, by first | decide | rfl, by first | decide | rfl,
     by unfold Claims.AllUp; decide, by first | exact .inl (by decide) | exact .inr (.inl (by decide)) | exact .inr (.inr (commandReady_of (by decide))),
     by first | decide | rfl, by first | decide | rfl, (fun _ => ⟨rfl, by decide⟩), (fun h => nomatch h), by first | decide | rfl⟩,
   ⟨by first | decide | rfl, rfl, by first | decide | rfl, by first | decide | rfl, by first | decide | rfl, by first | decide | rfl,
     by unfold Claims.AllUp; decide, by first | exact .inl (by decide) | exact .inr (.inl (by decide)) | exact .inr (.inr (commandReady_of (by decide))),
     by first | decide | rfl, (fun _ => ⟨rfl, by decide⟩), (fun h => nomatch h), by first | decide | rfl⟩,
   ⟨by first | decide | rfl, rfl, by first | decide | rfl, by first | decide | rfl, by first | decide | rfl, by first | decide | rfl,
     by unfold Claims.AllUp; decide, by first | exact .inl (by decide) | exact .inr (.inl (by decide)) | exact .inr (.inr (commandReady_of (by decide))),
     by first | decide | rfl, by first | decide | rfl, by first | decide | rfl, by first | decide | rfl, by first | decide | rfl, by first | decide | rfl,
     by first | decide | rfl⟩,
   ⟨by first | decide | rfl, rfl, by first | decide | rfl, by first | decide | rfl, by first | decide | rfl, by first | decide | rfl,
     by unfold Claims.AllUp; decide, by first | exact .inl (by decide) | exact .inr (.inl (by decide)) | exact .inr (.inr (commandReady_of (by decide))),
     by first | decide | rfl, by first | decide | rfl, by first | decide | rfl, by first | decide | rfl, by first | decide | rfl, by first | decide | rfl,
     by first | decide | rfl⟩,
   ⟨by first | decide | rfl, rfl, by first | decide | rfl, by first | decide | rfl, by first | decide | rfl, by first | decide | rfl,
     by unfold Claims.AllUp; decide, by first | exact .inl (by decide) | exact .inr (.inl (by decide)) | exact .inr (.inr (commandReady_of (by decide))),
     by first | decide | rfl, by first | decide | rfl, (fun _ => ⟨rfl, by decide⟩), (fun h => nomatch h), by first | decide | rfl⟩,
   ⟨by first | decide | rfl, rfl, by first | decide | rfl, by first | decide | rfl, by first | decide | rfl, by first | decide | rfl,
     by unfold Claims.AllUp; decide, by first | exact .inl (by decide) | exact .inr (.inl (by decide)) | exact .inr (.inr (commandReady_of (by decide))),
     by first | decide | rfl, by first | decide | rfl, (fun _ => ⟨rfl, by decide⟩), (fun h => nomatch h), by first | decide | rfl⟩⟩

/-- UnitsPerform: hypotheses that can be met, clause by clause. -/
theorem test_witness_UnitsPerform :
    ((st (cx (kx 0 0)) : State).power = true ∧ cft73 = (st (cx (kx 0 0)) : State).croft 0 ∧ cft73.freeze.held = none ∧ Claims.AllUp cft73 ∧
      cft73.indexq = arg123 :: arg124 ∧ arg123.halt = Halt.no ∧ arg123.reply = none ∧
      (∃ (a : Nat), ∃ (b : Nat), splitAddr (BitVec.ofNat 64 (Claims.descField arg123.desc 0 8)) = some (Space.sp, a) ∧
      splitAddr (BitVec.ofNat 64 (Claims.descField arg123.desc 8 8)) = some (Space.sp, b)) ∧ arg123.op = 0 ∧ arg123.done < Claims.descField arg123.desc 36 4)
    ∧ ((st (cx (kx 0 1)) : State).power = true ∧ cft74 = (st (cx (kx 0 1)) : State).croft 0 ∧ cft74.freeze.held = none ∧ Claims.AllUp cft74 ∧
      cft74.indexq = arg125 :: arg124 ∧ arg125.halt = Halt.no ∧ arg125.reply = none ∧
      (∃ (a : Nat), ∃ (b : Nat), splitAddr (BitVec.ofNat 64 (Claims.descField arg125.desc 0 8)) = some (Space.sp, a) ∧
      splitAddr (BitVec.ofNat 64 (Claims.descField arg125.desc 8 8)) = some (Space.sp, b)) ∧ arg125.op = 0 ∧ arg125.done < Claims.descField arg125.desc 36 4)
    ∧ ((st (cx (kx 1 0)) : State).power = true ∧ cft75 = (st (cx (kx 1 0)) : State).croft 0 ∧ cft75.freeze.held = none ∧ Claims.AllUp cft75 ∧
      cft75.indexq = arg126 :: arg124 ∧ arg126.halt = Halt.no ∧ arg126.reply = none ∧
      (∃ (a : Nat), ∃ (b : Nat), splitAddr (BitVec.ofNat 64 (Claims.descField arg126.desc 0 8)) = some (Space.sp, a) ∧
      splitAddr (BitVec.ofNat 64 (Claims.descField arg126.desc 8 8)) = some (Space.sp, b)) ∧ arg126.op = 1 ∧ arg126.done < Claims.descField arg126.desc 36 4 ∧
      ((fun (j : Nat) => cft75.sp.le (Claims.descField arg126.desc 32 4 + 4 * j) 4) arg126.done < Claims.descField arg126.desc 16 4))
    ∧ ((st (cx (kx 1 1)) : State).power = true ∧ cft76 = (st (cx (kx 1 1)) : State).croft 0 ∧ cft76.freeze.held = none ∧ Claims.AllUp cft76 ∧
      cft76.indexq = arg127 :: arg124 ∧ arg127.halt = Halt.no ∧ arg127.reply = none ∧
      (∃ (a : Nat), ∃ (b : Nat), splitAddr (BitVec.ofNat 64 (Claims.descField arg127.desc 0 8)) = some (Space.sp, a) ∧
      splitAddr (BitVec.ofNat 64 (Claims.descField arg127.desc 8 8)) = some (Space.sp, b)) ∧ arg127.op = 1 ∧ arg127.done < Claims.descField arg127.desc 36 4 ∧
      (Claims.descField arg127.desc 16 4 ≤ (fun (j : Nat) => cft76.sp.le (Claims.descField arg127.desc 32 4 + 4 * j) 4) arg127.done))
    ∧ ((st (cx (kx 0 3)) : State).power = true ∧ cft77 = (st (cx (kx 0 3)) : State).croft 0 ∧ cft77.freeze.held = none ∧ Claims.AllUp cft77 ∧
      cft77.indexq = arg128 :: arg124 ∧ arg128.halt = Halt.no ∧ arg128.reply = none ∧ arg128.op = 0 ∧ Claims.descField arg128.desc 36 4 ≤ arg128.done)
    ∧ ((st (cg (kg 0)) : State).power = true ∧ cft78 = (st (cg (kg 0)) : State).croft 0 ∧ cft78.freeze.held = none ∧ Claims.AllUp cft78 ∧
      cft78.genq = arg129 :: ([{kg 0 with seq := 77}] : List GenCmd) ∧ arg129.halt = Halt.no ∧ arg129.fin = none ∧ cft78.genFault arg129 = none ∧
      arg129.op ≠ 3 ∧ arg129.op ≠ 4 ∧ arg129.op < 9)
    ∧ ((st (cg (kg 5)) : State).power = true ∧ cft79 = (st (cg (kg 5)) : State).croft 0 ∧ cft79.freeze.held = none ∧ Claims.AllUp cft79 ∧
      cft79.genq = arg130 :: ([{kg 5 with seq := 77}] : List GenCmd) ∧ arg130.halt = Halt.no ∧ arg130.fin = none ∧ cft79.genFault arg130 = none ∧
      arg130.op ≠ 3 ∧ arg130.op ≠ 4 ∧ arg130.op < 9)
    ∧ ((st (cg km) : State).power = true ∧ cft80 = (st (cg km) : State).croft 0 ∧ cft80.freeze.held = none ∧ Claims.AllUp cft80 ∧
      cft80.genq = km :: ([{km with seq := 77}] : List GenCmd) ∧ km.halt = Halt.no ∧ km.fin = none ∧ cft80.genFault km = none ∧ km.op = 4 ∧ km.mask = none)
    ∧ ((st (cg {kg 3 with k := 3}) : State).power = true ∧ cft81 = (st (cg {kg 3 with k := 3}) : State).croft 0 ∧ cft81.freeze.held = none ∧
      Claims.AllUp cft81 ∧ cft81.genq = arg131 :: ([{kg 3 with k := 3, seq := 77}] : List GenCmd) ∧ arg131.halt = Halt.no ∧ arg131.fin = none ∧
      cft81.genFault arg131 = none ∧ arg131.op = 3 ∧ (vget cft81.rows { } arg131.k).st = SlotState.withheld)
    ∧ ((st cgr : State).power = true ∧ cgr = (st cgr : State).croft 0 ∧ cgr.freeze.held = none ∧ Claims.AllUp cgr ∧
      cgr.genq = arg163 :: ([{kg 3 with k := 1, seq := 77}] : List GenCmd) ∧ arg163.halt = Halt.no ∧ arg163.fin = none ∧ cgr.genFault arg163 = none ∧
      arg163.op = 3 ∧ (vget cgr.rows { } arg163.k).st ≠ SlotState.withheld ∧
      (vget cgr.rows { } arg163.k).draw cgr.rngseed (arg163.block.toNat % 2 ^ 32) = some 9)
    ∧ ((st (cxf (kxf 2 0 0 4 0)) : State).power = true ∧ cft113 = (st (cxf (kxf 2 0 0 4 0)) : State).croft 0 ∧ cft113.freeze.held = none ∧
      Claims.AllUp cft113 ∧ cft113.indexq = arg174 :: arg124 ∧ arg174.halt = Halt.no ∧ arg174.reply = none ∧
      (∃ (a : Nat), ∃ (b : Nat), splitAddr (BitVec.ofNat 64 (Claims.descField arg174.desc 0 8)) = some (Space.sp, a) ∧
      splitAddr (BitVec.ofNat 64 (Claims.descField arg174.desc 8 8)) = some (Space.sp, b)) ∧ arg174.op = 2 ∧
      ((distinctRows (Claims.descField arg174.desc 16 4) (List.map (fun (j : Nat) => cft113.sp.le (Claims.descField arg174.desc 32 4 + 4 * j) 4) (List.range (Claims.descField arg174.desc 36 4))))[arg174.done]? = some 2))
    ∧ ((st (cxf (kxf 2 0 1 4 0)) : State).power = true ∧ cft114 = (st (cxf (kxf 2 0 1 4 0)) : State).croft 0 ∧ cft114.freeze.held = none ∧
      Claims.AllUp cft114 ∧ cft114.indexq = arg175 :: arg124 ∧ arg175.halt = Halt.no ∧ arg175.reply = none ∧
      (∃ (a : Nat), ∃ (b : Nat), splitAddr (BitVec.ofNat 64 (Claims.descField arg175.desc 0 8)) = some (Space.sp, a) ∧
      splitAddr (BitVec.ofNat 64 (Claims.descField arg175.desc 8 8)) = some (Space.sp, b)) ∧ arg175.op = 2 ∧
      ((distinctRows (Claims.descField arg175.desc 16 4) (List.map (fun (j : Nat) => cft114.sp.le (Claims.descField arg175.desc 32 4 + 4 * j) 4) (List.range (Claims.descField arg175.desc 36 4))))[arg175.done]? = some 1))
    ∧ ((st (cxf (kxf 2 0 2 4 0)) : State).power = true ∧ cft115 = (st (cxf (kxf 2 0 2 4 0)) : State).croft 0 ∧ cft115.freeze.held = none ∧
      Claims.AllUp cft115 ∧ cft115.indexq = arg176 :: arg124 ∧ arg176.halt = Halt.no ∧ arg176.reply = none ∧ (arg176.op = 1 ∧
      Claims.descField arg176.desc 36 4 ≤ arg176.done ∨ arg176.op = 2 ∧
      (distinctRows (Claims.descField arg176.desc 16 4) (List.map (fun (j : Nat) => cft115.sp.le (Claims.descField arg176.desc 32 4 + 4 * j) 4) (List.range (Claims.descField arg176.desc 36 4)))).length ≤ arg176.done))
    ∧ ((st (cxf (kxf 3 0 0 4 3)) : State).power = true ∧ cft116 = (st (cxf (kxf 3 0 0 4 3)) : State).croft 0 ∧ cft116.freeze.held = none ∧
      Claims.AllUp cft116 ∧ cft116.indexq = arg177 :: arg124 ∧ arg177.halt = Halt.no ∧ arg177.reply = none ∧
      (∃ (a : Nat), ∃ (b : Nat), splitAddr (BitVec.ofNat 64 (Claims.descField arg177.desc 0 8)) = some (Space.sp, a) ∧
      splitAddr (BitVec.ofNat 64 (Claims.descField arg177.desc 8 8)) = some (Space.sp, b)) ∧ arg177.op = 3 ∧ arg177.done < Claims.descField arg177.desc 44 4)
    ∧ ((st (cxf (kxf 3 0 1 4 3)) : State).power = true ∧ cft117 = (st (cxf (kxf 3 0 1 4 3)) : State).croft 0 ∧ cft117.freeze.held = none ∧
      Claims.AllUp cft117 ∧ cft117.indexq = arg178 :: arg124 ∧ arg178.halt = Halt.no ∧ arg178.reply = none ∧
      (∃ (a : Nat), ∃ (b : Nat), splitAddr (BitVec.ofNat 64 (Claims.descField arg178.desc 0 8)) = some (Space.sp, a) ∧
      splitAddr (BitVec.ofNat 64 (Claims.descField arg178.desc 8 8)) = some (Space.sp, b)) ∧ arg178.op = 3 ∧ arg178.done < Claims.descField arg178.desc 44 4)
    ∧ ((st (cxf (kxf 3 8 3 4 3)) : State).power = true ∧ cft118 = (st (cxf (kxf 3 8 3 4 3)) : State).croft 0 ∧ cft118.freeze.held = none ∧
      Claims.AllUp cft118 ∧ cft118.indexq = arg179 :: arg124 ∧ arg179.halt = Halt.no ∧ arg179.reply = none ∧ arg179.op = 3 ∧
      Claims.descField arg179.desc 44 4 ≤ arg179.done ∧
      (∀ (b : Nat), b < Claims.descField arg179.desc 44 4 → (fun (b : Nat) => cft118.sp.le (Claims.descField arg179.desc 40 4 + 4 * b) 4) b ≤ (fun (b : Nat) => cft118.sp.le (Claims.descField arg179.desc 40 4 + 4 * b) 4) (b + 1)) ∧
      ((fun (b : Nat) => cft118.sp.le (Claims.descField arg179.desc 40 4 + 4 * b) 4) (Claims.descField arg179.desc 44 4) ≤ Claims.descField arg179.desc 36 4))
    ∧ ((st (cg kmm) : State).power = true ∧ cft119 = (st (cg kmm) : State).croft 0 ∧ cft119.freeze.held = none ∧ Claims.AllUp cft119 ∧
      cft119.genq = kmm :: ([{kmm with seq := 77}] : List GenCmd) ∧ kmm.halt = Halt.no ∧ kmm.fin = none ∧ cft119.genFault kmm = none ∧ kmm.op = 4 ∧
      kmm.mask = some ([(true,5),(false,262139)] : List (Bool × Nat)))
    ∧ ((st cgr2 : State).power = true ∧ cgr2 = (st cgr2 : State).croft 0 ∧ cgr2.freeze.held = none ∧ Claims.AllUp cgr2 ∧
      cgr2.genq = arg163 :: ([{kg 3 with k := 1, seq := 77}] : List GenCmd) ∧ arg163.halt = Halt.no ∧ arg163.fin = none ∧ cgr2.genFault arg163 = none ∧
      arg163.op = 3 ∧ (vget cgr2.rows { } arg163.k).st ≠ SlotState.withheld ∧
      (vget cgr2.rows { } arg163.k).draw cgr2.rngseed (arg163.block.toNat % 2 ^ 32) = none)
    ∧ (sta132.power = true ∧ cft120 = sta132.croft 0 ∧ cft120.freeze.held = none ∧ Claims.AllUp cft120 ∧
      cft120.genq = arg180 :: ([{kgc 0 0 with seq := 77}] : List GenCmd) ∧ arg180.halt = Halt.no ∧ arg180.fin = none ∧ cft120.genFault arg180 = none ∧
      arg180.op = 9 ∧
      (arg180.done % cft120.staging.esz = 0 → sta132.cmdRead 0 ((fun (o m : Nat) => Claims.descField arg180.block o m) 0 8 + 8 * (((fun (o m : Nat) => Claims.descField arg180.block o m) 8 4 + arg180.done / cft120.staging.esz) / 2 ^ (fun (o m : Nat) => Claims.descField arg180.block o m) 12 1)) 8 = Except.ok ((g1.1 : List Byte), (g1.2 : State)) ∧
      arg181 = leNat (g1.1 : List Byte)) ∧ (arg180.done % cft120.staging.esz ≠ 0 → (g1.2 : State) = sta132 ∧ arg181 = arg180.base) ∧ arg181 % 64 = 0 ∧
      (arg181 + 64 * cft120.staging.esz * (((fun (o m : Nat) => Claims.descField arg180.block o m) 8 4 + arg180.done / cft120.staging.esz) % 2 ^ (fun (o m : Nat) => Claims.descField arg180.block o m) 12 1) + 64 * (arg180.done % cft120.staging.esz) + 64 ≤ 2 ^ 53) ∧
      ((g1.2 : State).cmdWrite 0 (arg181 + 64 * cft120.staging.esz * (((fun (o m : Nat) => Claims.descField arg180.block o m) 8 4 + arg180.done / cft120.staging.esz) % 2 ^ (fun (o m : Nat) => Claims.descField arg180.block o m) 12 1) + 64 * (arg180.done % cft120.staging.esz)) (cft120.sp.readN (cft120.staging.base + 64 * arg180.done) 64) false = Except.ok g2))
    ∧ (sta133.power = true ∧ cft121 = sta133.croft 0 ∧ cft121.freeze.held = none ∧ Claims.AllUp cft121 ∧
      cft121.genq = arg182 :: ([{kgc 3 9216 with seq := 77}] : List GenCmd) ∧ arg182.halt = Halt.no ∧ arg182.fin = none ∧ cft121.genFault arg182 = none ∧
      arg182.op = 9 ∧
      (arg182.done % cft121.staging.esz = 0 → sta133.cmdRead 0 ((fun (o m : Nat) => Claims.descField arg182.block o m) 0 8 + 8 * (((fun (o m : Nat) => Claims.descField arg182.block o m) 8 4 + arg182.done / cft121.staging.esz) / 2 ^ (fun (o m : Nat) => Claims.descField arg182.block o m) 12 1)) 8 = Except.ok (arg183, sta133) ∧
      9216 = leNat arg183) ∧ (arg182.done % cft121.staging.esz ≠ 0 → sta133 = sta133 ∧ 9216 = arg182.base) ∧ 9216 % 64 = 0 ∧
      (9216 + 64 * cft121.staging.esz * (((fun (o m : Nat) => Claims.descField arg182.block o m) 8 4 + arg182.done / cft121.staging.esz) % 2 ^ (fun (o m : Nat) => Claims.descField arg182.block o m) 12 1) + 64 * (arg182.done % cft121.staging.esz) + 64 ≤ 2 ^ 53) ∧
      (sta133.cmdWrite 0 (9216 + 64 * cft121.staging.esz * (((fun (o m : Nat) => Claims.descField arg182.block o m) 8 4 + arg182.done / cft121.staging.esz) % 2 ^ (fun (o m : Nat) => Claims.descField arg182.block o m) 12 1) + 64 * (arg182.done % cft121.staging.esz)) (cft121.sp.readN (cft121.staging.base + 64 * arg182.done) 64) false = Except.ok g3))
    ∧ ((st (cxf (kxf 1 8 4 4 0)) : State).power = true ∧ cft122 = (st (cxf (kxf 1 8 4 4 0)) : State).croft 0 ∧ cft122.freeze.held = none ∧
      Claims.AllUp cft122 ∧ cft122.indexq = arg184 :: arg124 ∧ arg184.halt = Halt.no ∧ arg184.reply = none ∧ (arg184.op = 1 ∧
      Claims.descField arg184.desc 36 4 ≤ arg184.done ∨ arg184.op = 2 ∧
      (distinctRows (Claims.descField arg184.desc 16 4) (List.map (fun (j : Nat) => cft122.sp.le (Claims.descField arg184.desc 32 4 + 4 * j) 4) (List.range (Claims.descField arg184.desc 36 4)))).length ≤ arg184.done))
    ∧ ((sxo k0o : State).power = true ∧ cft123 = (sxo k0o : State).croft 0 ∧ cft123.freeze.held = none ∧ Claims.AllUp cft123 ∧ cft123.indexq = k0o :: arg124 ∧
      k0o.halt = Halt.no ∧ k0o.reply = none ∧ splitAddr (BitVec.ofNat 64 (Claims.descField k0o.desc 0 8)) = some (Space.owner, 8200) ∧
      splitAddr (BitVec.ofNat 64 (Claims.descField k0o.desc 8 8)) = some (Space.sp, 8192) ∧ 0 = k0o.done ∧ k0o.op = 0 ∧ 0 < Claims.descField k0o.desc 36 4 ∧
      (Claims.RowsRead 0 (4 * Claims.descField k0o.desc 20 2) (if (fun (j : Nat) => cft123.sp.le (Claims.descField k0o.desc 32 4 + 4 * j) 4) 0 < Claims.descField k0o.desc 16 4 then [(fun (r : Nat) => (Space.owner, 8200 + r * (4 * Claims.descField k0o.desc 20 2))) ((fun (j : Nat) => cft123.sp.le (Claims.descField k0o.desc 32 4 + 4 * j) 4) 0)] else []) (sxo k0o : State) arg185 sta134) ∧
      (((fun (i : Nat) => (Space.sp, 8192 + i * Claims.descField k0o.desc 28 4)) 0).fst = Space.sp))
    ∧ ((sxo k0p : State).power = true ∧ cft124 = (sxo k0p : State).croft 0 ∧ cft124.freeze.held = none ∧ Claims.AllUp cft124 ∧ cft124.indexq = k0p :: arg124 ∧
      k0p.halt = Halt.no ∧ k0p.reply = none ∧ splitAddr (BitVec.ofNat 64 (Claims.descField k0p.desc 0 8)) = some (Space.owner, 8200) ∧
      splitAddr (BitVec.ofNat 64 (Claims.descField k0p.desc 8 8)) = some (Space.owner, 8192) ∧ 1 = k0p.done ∧ k0p.op = 0 ∧
      1 < Claims.descField k0p.desc 36 4 ∧
      (Claims.RowsRead 0 (4 * Claims.descField k0p.desc 20 2) (if (fun (j : Nat) => cft124.sp.le (Claims.descField k0p.desc 32 4 + 4 * j) 4) 1 < Claims.descField k0p.desc 16 4 then [(fun (r : Nat) => (Space.owner, 8200 + r * (4 * Claims.descField k0p.desc 20 2))) ((fun (j : Nat) => cft124.sp.le (Claims.descField k0p.desc 32 4 + 4 * j) 4) 1)] else []) (sxo k0p : State) ((rowsOf (sxo k0p) 0 16 []).1 : List (List Byte)) ((rowsOf (sxo k0p) 0 16 []).2 : State)) ∧
      (((fun (i : Nat) => (Space.owner, 8192 + i * Claims.descField k0p.desc 28 4)) 1).fst = Space.owner) ∧
      (((rowsOf (sxo k0p) 0 16 []).2 : State).cmdWrite 0 ((fun (i : Nat) => (Space.owner, 8192 + i * Claims.descField k0p.desc 28 4)) 1).snd ((fun (bs : List (List Byte)) => (bs.headD (List.replicate (4 * Claims.descField k0p.desc 20 2) 0), 0)) ((rowsOf (sxo k0p) 0 16 []).1 : List (List Byte))).fst false = Except.ok sta135))
    ∧ ((sxo k1o : State).power = true ∧ cft125 = (sxo k1o : State).croft 0 ∧ cft125.freeze.held = none ∧ Claims.AllUp cft125 ∧ cft125.indexq = k1o :: arg124 ∧
      k1o.halt = Halt.no ∧ k1o.reply = none ∧ splitAddr (BitVec.ofNat 64 (Claims.descField k1o.desc 0 8)) = some (Space.owner, 8192) ∧
      splitAddr (BitVec.ofNat 64 (Claims.descField k1o.desc 8 8)) = some (Space.sp, 8192) ∧ 0 = k1o.done ∧ k1o.op = 1 ∧ 0 < Claims.descField k1o.desc 36 4 ∧
      ((fun (j : Nat) => cft125.sp.le (Claims.descField k1o.desc 32 4 + 4 * j) 4) 0 < Claims.descField k1o.desc 16 4) ∧
      (Claims.RowsRead 0 (4 * Claims.descField k1o.desc 20 2) [(fun (i : Nat) => (Space.sp, 8192 + i * Claims.descField k1o.desc 28 4)) 0] (sxo k1o : State) ((rowsOf (sxo k1o) 0 16 [(.sp,
      8192)]).1 : List (List Byte)) ((rowsOf (sxo k1o) 0 16 [(.sp, 8192)]).2 : State)) ∧
      (((fun (r : Nat) => (Space.owner, 8192 + r * (4 * Claims.descField k1o.desc 20 2))) ((fun (j : Nat) => cft125.sp.le (Claims.descField k1o.desc 32 4 + 4 * j) 4) 0)).fst = Space.owner) ∧
      (((rowsOf (sxo k1o) 0 16 [(.sp,
      8192)]).2 : State).cmdWrite 0 ((fun (r : Nat) => (Space.owner, 8192 + r * (4 * Claims.descField k1o.desc 20 2))) ((fun (j : Nat) => cft125.sp.le (Claims.descField k1o.desc 32 4 + 4 * j) 4) 0)).snd ((fun (bs : List (List Byte)) => (bs.headD (List.replicate (4 * Claims.descField k1o.desc 20 2) 0), 0)) ((rowsOf (sxo k1o) 0 16 [(.sp,
      8192)]).1 : List (List Byte))).fst true = Except.ok sta136))
    ∧ ((sxo k2o : State).power = true ∧ cft126 = (sxo k2o : State).croft 0 ∧ cft126.freeze.held = none ∧ Claims.AllUp cft126 ∧ cft126.indexq = k2o :: arg124 ∧
      k2o.halt = Halt.no ∧ k2o.reply = none ∧ splitAddr (BitVec.ofNat 64 (Claims.descField k2o.desc 0 8)) = some (Space.owner, 8192) ∧
      splitAddr (BitVec.ofNat 64 (Claims.descField k2o.desc 8 8)) = some (Space.sp, 8192) ∧ 0 = k2o.done ∧ k2o.op = 2 ∧
      ((distinctRows (Claims.descField k2o.desc 16 4) (List.map (fun (j : Nat) => cft126.sp.le (Claims.descField k2o.desc 32 4 + 4 * j) 4) (List.range (Claims.descField k2o.desc 36 4))))[0]? = some 2) ∧
      (Claims.RowsRead 0 (4 * Claims.descField k2o.desc 20 2) ((fun (r : Nat) => (Space.owner, 8192 + r * (4 * Claims.descField k2o.desc 20 2))) 2 :: List.map (fun (i : Nat) => (Space.sp, 8192 + i * Claims.descField k2o.desc 28 4)) (List.filter (fun (i : Nat) => decide ((fun (j : Nat) => cft126.sp.le (Claims.descField k2o.desc 32 4 + 4 * j) 4) i = 2)) (List.range (Claims.descField k2o.desc 36 4)))) (sxo k2o : State) ((rowsOf (sxo k2o) 0 16 l2o).1 : List (List Byte)) ((rowsOf (sxo k2o) 0 16 l2o).2 : State)) ∧
      (((fun (r : Nat) => (Space.owner, 8192 + r * (4 * Claims.descField k2o.desc 20 2))) 2).fst = Space.owner) ∧
      (((rowsOf (sxo k2o) 0 16 l2o).2 : State).cmdWrite 0 ((fun (r : Nat) => (Space.owner, 8192 + r * (4 * Claims.descField k2o.desc 20 2))) 2).snd ((fun (wrap : Bool) (bs : List (List Byte)) => Claims.sumBytes (Claims.descField k2o.desc 22 1) wrap (4 * Claims.descField k2o.desc 20 2) (List.map (Claims.rowElem (tagWidth (Claims.descField k2o.desc 22 1) / 8)) bs)) true ((rowsOf (sxo k2o) 0 16 l2o).1 : List (List Byte))).fst true = Except.ok sta137))
    ∧ ((sxo k3o : State).power = true ∧ cft127 = (sxo k3o : State).croft 0 ∧ cft127.freeze.held = none ∧ Claims.AllUp cft127 ∧ cft127.indexq = k3o :: arg124 ∧
      k3o.halt = Halt.no ∧ k3o.reply = none ∧ splitAddr (BitVec.ofNat 64 (Claims.descField k3o.desc 0 8)) = some (Space.owner, 8192) ∧
      splitAddr (BitVec.ofNat 64 (Claims.descField k3o.desc 8 8)) = some (Space.sp, 8192) ∧ 2 = k3o.done ∧ k3o.op = 3 ∧ 2 < Claims.descField k3o.desc 44 4 ∧
      (Claims.RowsRead 0 (4 * Claims.descField k3o.desc 20 2) (List.map (fun (i : Nat) => (fun (r : Nat) => (Space.owner, 8192 + r * (4 * Claims.descField k3o.desc 20 2))) ((fun (j : Nat) => cft127.sp.le (Claims.descField k3o.desc 32 4 + 4 * j) 4) i)) (List.filter (fun (i : Nat) => decide ((fun (b : Nat) => cft127.sp.le (Claims.descField k3o.desc 40 4 + 4 * b) 4) 2 ≤ i ∧
      i < (fun (b : Nat) => cft127.sp.le (Claims.descField k3o.desc 40 4 + 4 * b) 4) (2 + 1) ∧
      (fun (j : Nat) => cft127.sp.le (Claims.descField k3o.desc 32 4 + 4 * j) 4) i < Claims.descField k3o.desc 16 4)) (List.range (Claims.descField k3o.desc 36 4)))) (sxo k3o : State) arg186 sta138) ∧
      (((fun (i : Nat) => (Space.sp, 8192 + i * Claims.descField k3o.desc 28 4)) 2).fst = Space.sp)) :=
  ⟨⟨by first | decide | rfl, rfl, by first | decide | rfl, by unfold Claims.AllUp; decide, by first | decide | rfl, by first | decide | rfl,
    by first | decide | rfl, ⟨_, _, by rfl, by rfl⟩, by first | decide | rfl, by first | decide | rfl⟩,
   ⟨by first | decide | rfl, rfl, by first | decide | rfl, by unfold Claims.AllUp; decide, by first | decide | rfl, by first | decide | rfl,
     by first | decide | rfl, ⟨_, _, by rfl, by rfl⟩, by first | decide | rfl, by first | decide | rfl⟩,
   ⟨by first | decide | rfl, rfl, by first | decide | rfl, by unfold Claims.AllUp; decide, by first | decide | rfl, by first | decide | rfl,
     by first | decide | rfl, ⟨_, _, by rfl, by rfl⟩, by first | decide | rfl, by first | decide | rfl, by first | decide | rfl⟩,
   ⟨by first | decide | rfl, rfl, by first | decide | rfl, by unfold Claims.AllUp; decide, by first | decide | rfl, by first | decide | rfl,
     by first | decide | rfl, ⟨_, _, by rfl, by rfl⟩, by first | decide | rfl, by first | decide | rfl, by first | decide | rfl⟩,
   ⟨by first | decide | rfl, rfl, by first | decide | rfl, by unfold Claims.AllUp; decide, by first | decide | rfl, by first | decide | rfl,
     by first | decide | rfl, by first | decide | rfl, by first | decide | rfl⟩,
   ⟨by first | decide | rfl, rfl, by first | decide | rfl, by unfold Claims.AllUp; decide, by first | decide | rfl, by first | decide | rfl,
     by first | decide | rfl, by first | decide | rfl, by first | decide | rfl, by first | decide | rfl, by first | decide | rfl⟩,
   ⟨by first | decide | rfl, rfl, by first | decide | rfl, by unfold Claims.AllUp; decide, by first | decide | rfl, by first | decide | rfl,
     by first | decide | rfl, by first | decide | rfl, by first | decide | rfl, by first | decide | rfl, by first | decide | rfl⟩,
   ⟨by first | decide | rfl, rfl, by first | decide | rfl, by unfold Claims.AllUp; decide, by first | decide | rfl, by first | decide | rfl,
     by first | decide | rfl, by first | decide | rfl, by first | decide | rfl, by first | decide | rfl⟩,
   ⟨by first | decide | rfl, rfl, by first | decide | rfl, by unfold Claims.AllUp; decide, by first | decide | rfl, by first | decide | rfl,
     by first | decide | rfl, by first | decide | rfl, by first | decide | rfl, by first | decide | rfl⟩,
   ⟨by first | decide | rfl, rfl, by first | decide | rfl, by unfold Claims.AllUp; decide, by first | decide | rfl, by first | decide | rfl,
     by first | decide | rfl, by first | decide | rfl, by first | decide | rfl, by first | decide | rfl, by first | decide | rfl⟩,
   ⟨by first | decide | rfl, rfl, by first | decide | rfl, by unfold Claims.AllUp; decide, by first | decide | rfl, by first | decide | rfl,
     by first | decide | rfl, ⟨_, _, by rfl, by rfl⟩, by first | decide | rfl, by first | decide | rfl⟩,
   ⟨by first | decide | rfl, rfl, by first | decide | rfl, by unfold Claims.AllUp; decide, by first | decide | rfl, by first | decide | rfl,
     by first | decide | rfl, ⟨_, _, by rfl, by rfl⟩, by first | decide | rfl, by first | decide | rfl⟩,
   ⟨by first | decide | rfl, rfl, by first | decide | rfl, by unfold Claims.AllUp; decide, by first | decide | rfl, by first | decide | rfl,
     by first | decide | rfl, by first | decide | rfl⟩,
   ⟨by first | decide | rfl, rfl, by first | decide | rfl, by unfold Claims.AllUp; decide, by first | decide | rfl, by first | decide | rfl,
     by first | decide | rfl, ⟨_, _, by rfl, by rfl⟩, by first | decide | rfl, by first | decide | rfl⟩,
   ⟨by first | decide | rfl, rfl, by first | decide | rfl, by unfold Claims.AllUp; decide, by first | decide | rfl, by first | decide | rfl,
     by first | decide | rfl, ⟨_, _, by rfl, by rfl⟩, by first | decide | rfl, by first | decide | rfl⟩,
   ⟨by first | decide | rfl, rfl, by first | decide | rfl, by unfold Claims.AllUp; decide, by first | decide | rfl, by first | decide | rfl,
     by first | decide | rfl, by first | decide | rfl, by first | decide | rfl, by first | decide | rfl, by first | decide | rfl⟩,
   ⟨by first | decide | rfl, rfl, by first | decide | rfl, by unfold Claims.AllUp; decide, by first | decide | rfl, by first | decide | rfl,
     by first | decide | rfl, by first | decide | rfl, by first | decide | rfl, by first | decide | rfl⟩,
   ⟨by first | decide | rfl, rfl, by first | decide | rfl, by unfold Claims.AllUp; decide, by first | decide | rfl, by first | decide | rfl,
     by first | decide | rfl, by first | decide | rfl, by first | decide | rfl, by first | decide | rfl, by first | decide | rfl⟩,
   ⟨by first | decide | rfl, rfl, by first | decide | rfl, by unfold Claims.AllUp; decide, by first | decide | rfl, by first | decide | rfl,
     by first | decide | rfl, by first | decide | rfl, by first | decide | rfl,
     by first | exact fun h => absurd h (by decide) | exact fun _ => ⟨by rfl, by decide⟩, by first | decide | rfl, by first | decide | rfl,
     by first | decide | rfl, by first | decide | rfl⟩,
   ⟨by first | decide | rfl, rfl, by first | decide | rfl, by unfold Claims.AllUp; decide, by first | decide | rfl, by first | decide | rfl,
     by first | decide | rfl, by first | decide | rfl, by first | decide | rfl,
     by first | exact fun h => absurd h (by decide) | exact fun _ => ⟨by rfl, by decide⟩,
     by first | exact fun h => absurd h (by decide) | exact fun _ => ⟨by rfl, by decide⟩, by first | decide | rfl, by first | decide | rfl,
     by first | decide | rfl⟩,
   ⟨by first | decide | rfl, rfl, by first | decide | rfl, by unfold Claims.AllUp; decide, by first | decide | rfl, by first | decide | rfl,
     by first | decide | rfl, by first | decide | rfl⟩,
   ⟨by first | decide | rfl, rfl, by first | decide | rfl, by unfold Claims.AllUp; decide, by first | decide | rfl, by first | decide | rfl,
     by first | decide | rfl, by first | decide | rfl, by first | decide | rfl, by first | decide | rfl, by first | decide | rfl, by first | decide | rfl,
     rowsRead_of (by decide) (by decide) (by decide), by first | decide | rfl⟩,
   ⟨by first | decide | rfl, rfl, by first | decide | rfl, by unfold Claims.AllUp; decide, by first | decide | rfl, by first | decide | rfl,
     by first | decide | rfl, by first | decide | rfl, by first | decide | rfl, by first | decide | rfl, by first | decide | rfl, by first | decide | rfl,
     rowsRead_of (by decide) (by decide) (by decide), by first | decide | rfl, by first | decide | rfl⟩,
   ⟨by first | decide | rfl, rfl, by first | decide | rfl, by unfold Claims.AllUp; decide, by first | decide | rfl, by first | decide | rfl,
     by first | decide | rfl, by first | decide | rfl, by first | decide | rfl, by first | decide | rfl, by first | decide | rfl, by first | decide | rfl,
     by first | decide | rfl, rowsRead_of (by decide) (by decide) (by decide), by first | decide | rfl, by first | decide | rfl⟩,
   ⟨by first | decide | rfl, rfl, by first | decide | rfl, by unfold Claims.AllUp; decide, by first | decide | rfl, by first | decide | rfl,
     by first | decide | rfl, by first | decide | rfl, by first | decide | rfl, by first | decide | rfl, by first | decide | rfl, by first | decide | rfl,
     rowsRead_of (by decide) (by decide) (by decide), by first | decide | rfl, by first | decide | rfl⟩,
   ⟨by first | decide | rfl, rfl, by first | decide | rfl, by unfold Claims.AllUp; decide, by first | decide | rfl, by first | decide | rfl,
     by first | decide | rfl, by first | decide | rfl, by first | decide | rfl, by first | decide | rfl, by first | decide | rfl, by first | decide | rfl,
     rowsRead_of (by decide) (by decide) (by decide), by first | decide | rfl⟩⟩

/-- CommandsComplete: hypotheses that can be met, clause by clause. -/
theorem test_witness_CommandsComplete :
    ((st (cfin ⟨2,1,5⟩) : State).power = true ∧ (cfin ⟨2,1,5⟩ : Croft) = (st (cfin ⟨2,1,5⟩) : State).croft 0 ∧ (cfin ⟨2,1,5⟩ : Croft).copyq = kf :: arg132 ∧
      kf.fin = true ∧ kf.halt = Halt.no)
    ∧ ((st (cfin ⟨2,2,5⟩) : State).power = true ∧ (cfin ⟨2,2,5⟩ : Croft) = (st (cfin ⟨2,2,5⟩) : State).croft 0 ∧ (cfin ⟨2,2,5⟩ : Croft).copyq = kf :: arg132 ∧
      kf.fin = true ∧ kf.halt = Halt.no)
    ∧ ((st (cfin ⟨0,0,0⟩) : State).power = true ∧ (cfin ⟨0,0,0⟩ : Croft) = (st (cfin ⟨0,0,0⟩) : State).croft 0 ∧ (cfin ⟨0,0,0⟩ : Croft).copyq = kf :: arg132 ∧
      kf.fin = true ∧ kf.halt = Halt.no)
    ∧ ((st (cfin ⟨2,0,0⟩) : State).power = true ∧ (cfin ⟨2,0,0⟩ : Croft) = (st (cfin ⟨2,0,0⟩) : State).croft 0 ∧ (cfin ⟨2,0,0⟩ : Croft).copyq = kf :: arg132 ∧
      kf.fin = true ∧ kf.halt = Halt.no)
    ∧ ((st (cx {kx 0 3 with reply := some 9}) : State).power = true ∧ cft82 = (st (cx {kx 0 3 with reply := some 9}) : State).croft 0 ∧
      cft82.indexq = arg133 :: arg124 ∧ arg133.reply = some 9 ∧ arg133.halt = Halt.no ∧ cft82.placing = false ∧ cft82.qr.length + cft82.pendR < 16)
    ∧ (sta122.power = true ∧ cft83 = sta122.croft 0 ∧ cft83.indexq = arg133 :: arg124 ∧ arg133.reply = some 9 ∧ arg133.halt = Halt.no ∧
      cft83.placing = false ∧ cft83.qr.length + cft83.pendR < 16)
    ∧ (sta123.power = true ∧ cft84 = sta123.croft 0 ∧ cft84.indexq = arg133 :: arg124 ∧ arg133.reply = some 9 ∧ arg133.halt = Halt.no ∧
      cft84.placing = false ∧ cft84.qr.length + cft84.pendR < 16)
    ∧ ((st (cg (kgf (kg 0) [])) : State).power = true ∧ cft85 = (st (cg (kgf (kg 0) [])) : State).croft 0 ∧
      cft85.genq = arg134 :: ([{kgf (kg 0) [] with seq := 77}] : List GenCmd) ∧ arg134.fin = some arg135 ∧ arg134.halt = Halt.no ∧ cft85.placing = false ∧
      cft85.qr.length + cft85.pendR ≤ 14 ∧ arg134.k < 16)
    ∧ ((st (cg (kgf ({kg 1 with k := 3}) [])) : State).power = true ∧ cft86 = (st (cg (kgf ({kg 1 with k := 3}) [])) : State).croft 0 ∧
      cft86.genq = arg136 :: arg137 ∧ arg136.fin = some arg135 ∧ arg136.halt = Halt.no ∧ cft86.placing = false ∧ cft86.qr.length + cft86.pendR ≤ 14 ∧
      arg136.k < 16)
    ∧ ((st (cg (kgf (kg 3) [7])) : State).power = true ∧ cft87 = (st (cg (kgf (kg 3) [7])) : State).croft 0 ∧
      cft87.genq = arg138 :: ([{kgf (kg 3) [7] with seq := 77}] : List GenCmd) ∧ arg138.fin = some ([7] : List Word64) ∧ arg138.halt = Halt.no ∧
      cft87.placing = false ∧ cft87.qr.length + cft87.pendR ≤ 14 ∧ arg138.k < 16)
    ∧ ((st (cg (kgf (kg 3) [])) : State).power = true ∧ cft88 = (st (cg (kgf (kg 3) [])) : State).croft 0 ∧
      cft88.genq = arg139 :: ([{kgf (kg 3) [] with seq := 77}] : List GenCmd) ∧ arg139.fin = some arg135 ∧ arg139.halt = Halt.no ∧ cft88.placing = false ∧
      cft88.qr.length + cft88.pendR ≤ 14 ∧ arg139.k < 16)
    ∧ ((st (cg (kgf (kg 5) [])) : State).power = true ∧ cft89 = (st (cg (kgf (kg 5) [])) : State).croft 0 ∧
      cft89.genq = arg140 :: ([{kgf (kg 5) [] with seq := 77}] : List GenCmd) ∧ arg140.fin = some arg135 ∧ arg140.halt = Halt.no ∧ cft89.placing = false ∧
      cft89.qr.length + cft89.pendR ≤ 14 ∧ arg140.k < 16)
    ∧ ((st (cg (kgf ({kg 5 with k := 9}) [])) : State).power = true ∧ cft90 = (st (cg (kgf ({kg 5 with k := 9}) [])) : State).croft 0 ∧
      cft90.genq = arg141 :: arg142 ∧ arg141.fin = some arg135 ∧ arg141.halt = Halt.no ∧ cft90.placing = false ∧ cft90.qr.length + cft90.pendR ≤ 14 ∧
      arg141.k < 16)
    ∧ (sta124.power = true ∧ cft91 = sta124.croft 0 ∧ cft91.genq = arg143 :: arg144 ∧ arg143.fin = some arg135 ∧ arg143.halt = Halt.no ∧
      cft91.placing = false ∧ cft91.qr.length + cft91.pendR ≤ 14 ∧ arg143.k < 16)
    ∧ ((st (cg (kgf ({kg 7 with x0 := 0}) [])) : State).power = true ∧ cft92 = (st (cg (kgf ({kg 7 with x0 := 0}) [])) : State).croft 0 ∧
      cft92.genq = arg145 :: arg146 ∧ arg145.fin = some arg135 ∧ arg145.halt = Halt.no ∧ cft92.placing = false ∧ cft92.qr.length + cft92.pendR ≤ 14 ∧
      arg145.k < 16)
    ∧ (sta125.power = true ∧ cft93 = sta125.croft 0 ∧ cft93.genq = arg147 :: arg148 ∧ arg147.fin = some arg135 ∧ arg147.halt = Halt.no ∧
      cft93.placing = false ∧ cft93.qr.length + cft93.pendR ≤ 14 ∧ arg147.k < 16)
    ∧ (sta126.power = true ∧ cft94 = sta126.croft 0 ∧ cft94.genq = arg149 :: arg150 ∧ arg149.fin = some arg135 ∧ arg149.halt = Halt.no ∧
      cft94.placing = false ∧ cft94.qr.length + cft94.pendR ≤ 14 ∧ arg149.k < 16)
    ∧ ((st (cg (kgf (kg 9) [])) : State).power = true ∧ cft95 = (st (cg (kgf (kg 9) [])) : State).croft 0 ∧
      cft95.genq = arg151 :: ([{kgf (kg 9) [] with seq := 77}] : List GenCmd) ∧ arg151.fin = some arg135 ∧ arg151.halt = Halt.no ∧ cft95.placing = false ∧
      cft95.qr.length + cft95.pendR ≤ 14 ∧ arg151.k < 16)
    ∧ ((st (gsh none {}) : State).power = true ∧ cft102 = (st (gsh none {}) : State).croft 0 ∧ cft102.genq = arg164 :: arg165 ∧ arg164.fin = some arg135 ∧
      arg164.halt = Halt.no ∧ cft102.placing = false ∧ cft102.qr.length + cft102.pendR ≤ 14 ∧ arg164.k < 16)
    ∧ (sta129.power = true ∧ cft103 = sta129.croft 0 ∧ cft103.genq = arg164 :: arg165 ∧ arg164.fin = some arg135 ∧ arg164.halt = Halt.no ∧
      cft103.placing = false ∧ cft103.qr.length + cft103.pendR ≤ 14 ∧ arg164.k < 16)
    ∧ ((st (gsh (some [(true,4)]) {}) : State).power = true ∧ cft104 = (st (gsh (some [(true,4)]) {}) : State).croft 0 ∧ cft104.genq = arg164 :: arg165 ∧
      arg164.fin = some arg135 ∧ arg164.halt = Halt.no ∧ cft104.placing = false ∧ cft104.qr.length + cft104.pendR ≤ 14 ∧ arg164.k < 16)
    ∧ ((st (gsh (some [(false,4)]) {}) : State).power = true ∧ cft105 = (st (gsh (some [(false,4)]) {}) : State).croft 0 ∧ cft105.genq = arg164 :: arg165 ∧
      arg164.fin = some arg135 ∧ arg164.halt = Halt.no ∧ cft105.placing = false ∧ cft105.qr.length + cft105.pendR ≤ 14 ∧ arg164.k < 16)
    ∧ ((st (gsh none {st := .withheld}) : State).power = true ∧ cft106 = (st (gsh none {st := .withheld}) : State).croft 0 ∧ cft106.genq = arg164 :: arg165 ∧
      arg164.fin = some arg135 ∧ arg164.halt = Halt.no ∧ cft106.placing = false ∧ cft106.qr.length + cft106.pendR ≤ 14 ∧ arg164.k < 16)
    ∧ ((st (gsl 1 0x3F000000) : State).power = true ∧ cft107 = (st (gsl 1 0x3F000000) : State).croft 0 ∧
      cft107.genq = arg166 :: ([{kSL 1 with seq := 77}] : List GenCmd) ∧ arg166.fin = some arg135 ∧ arg166.halt = Halt.no ∧ cft107.placing = false ∧
      cft107.qr.length + cft107.pendR ≤ 14 ∧ arg166.k < 16)
    ∧ ((st (gsl 5 0x3F000000) : State).power = true ∧ cft108 = (st (gsl 5 0x3F000000) : State).croft 0 ∧
      cft108.genq = arg167 :: ([{kSL 5 with seq := 77}] : List GenCmd) ∧ arg167.fin = some arg135 ∧ arg167.halt = Halt.no ∧ cft108.placing = false ∧
      cft108.qr.length + cft108.pendR ≤ 14 ∧ arg167.k < 16)
    ∧ ((st (gsl 3 0x3F800000) : State).power = true ∧ cft109 = (st (gsl 3 0x3F800000) : State).croft 0 ∧
      cft109.genq = arg168 :: ([{kSL 3 with seq := 77}] : List GenCmd) ∧ arg168.fin = some arg169 ∧ arg168.halt = Halt.no ∧ cft109.placing = false ∧
      cft109.qr.length + cft109.pendR ≤ 14 ∧ arg168.k < 16) :=
  ⟨⟨by first | decide | rfl, rfl, by first | decide | rfl, by first | decide | rfl, by first | decide | rfl⟩,
   ⟨by first | decide | rfl, rfl, by first | decide | rfl, by first | decide | rfl, by first | decide | rfl⟩,
   ⟨by first | decide | rfl, rfl, by first | decide | rfl, by first | decide | rfl, by first | decide | rfl⟩,
   ⟨by first | decide | rfl, rfl, by first | decide | rfl, by first | decide | rfl, by first | decide | rfl⟩,
   ⟨by first | decide | rfl, rfl, by first | decide | rfl, by first | decide | rfl, by first | decide | rfl, by first | decide | rfl,
     by first | decide | rfl⟩,
   ⟨by first | decide | rfl, rfl, by first | decide | rfl, by first | decide | rfl, by first | decide | rfl, by first | decide | rfl,
     by first | decide | rfl⟩,
   ⟨by first | decide | rfl, rfl, by first | decide | rfl, by first | decide | rfl, by first | decide | rfl, by first | decide | rfl,
     by first | decide | rfl⟩,
   ⟨by first | decide | rfl, rfl, by first | decide | rfl, by first | decide | rfl, by first | decide | rfl, by first | decide | rfl, by first | decide | rfl,
     by first | decide | rfl⟩,
   ⟨by first | decide | rfl, rfl, by first | decide | rfl, by first | decide | rfl, by first | decide | rfl, by first | decide | rfl, by first | decide | rfl,
     by first | decide | rfl⟩,
   ⟨by first | decide | rfl, rfl, by first | decide | rfl, by first | decide | rfl, by first | decide | rfl, by first | decide | rfl, by first | decide | rfl,
     by first | decide | rfl⟩,
   ⟨by first | decide | rfl, rfl, by first | decide | rfl, by first | decide | rfl, by first | decide | rfl, by first | decide | rfl, by first | decide | rfl,
     by first | decide | rfl⟩,
   ⟨by first | decide | rfl, rfl, by first | decide | rfl, by first | decide | rfl, by first | decide | rfl, by first | decide | rfl, by first | decide | rfl,
     by first | decide | rfl⟩,
   ⟨by first | decide | rfl, rfl, by first | decide | rfl, by first | decide | rfl, by first | decide | rfl, by first | decide | rfl, by first | decide | rfl,
     by first | decide | rfl⟩,
   ⟨by first | decide | rfl, rfl, by first | decide | rfl, by first | decide | rfl, by first | decide | rfl, by first | decide | rfl, by first | decide | rfl,
     by first | decide | rfl⟩,
   ⟨by first | decide | rfl, rfl, by first | decide | rfl, by first | decide | rfl, by first | decide | rfl, by first | decide | rfl, by first | decide | rfl,
     by first | decide | rfl⟩,
   ⟨by first | decide | rfl, rfl, by first | decide | rfl, by first | decide | rfl, by first | decide | rfl, by first | decide | rfl, by first | decide | rfl,
     by first | decide | rfl⟩,
   ⟨by first | decide | rfl, rfl, by first | decide | rfl, by first | decide | rfl, by first | decide | rfl, by first | decide | rfl, by first | decide | rfl,
     by first | decide | rfl⟩,
   ⟨by first | decide | rfl, rfl, by first | decide | rfl, by first | decide | rfl, by first | decide | rfl, by first | decide | rfl, by first | decide | rfl,
     by first | decide | rfl⟩,
   ⟨by first | decide | rfl, rfl, by first | decide | rfl, by first | decide | rfl, by first | decide | rfl, by first | decide | rfl, by first | decide | rfl,
     by first | decide | rfl⟩,
   ⟨by first | decide | rfl, rfl, by first | decide | rfl, by first | decide | rfl, by first | decide | rfl, by first | decide | rfl, by first | decide | rfl,
     by first | decide | rfl⟩,
   ⟨by first | decide | rfl, rfl, by first | decide | rfl, by first | decide | rfl, by first | decide | rfl, by first | decide | rfl, by first | decide | rfl,
     by first | decide | rfl⟩,
   ⟨by first | decide | rfl, rfl, by first | decide | rfl, by first | decide | rfl, by first | decide | rfl, by first | decide | rfl, by first | decide | rfl,
     by first | decide | rfl⟩,
   ⟨by first | decide | rfl, rfl, by first | decide | rfl, by first | decide | rfl, by first | decide | rfl, by first | decide | rfl, by first | decide | rfl,
     by first | decide | rfl⟩,
   ⟨by first | decide | rfl, rfl, by first | decide | rfl, by first | decide | rfl, by first | decide | rfl, by first | decide | rfl, by first | decide | rfl,
     by first | decide | rfl⟩,
   ⟨by first | decide | rfl, rfl, by first | decide | rfl, by first | decide | rfl, by first | decide | rfl, by first | decide | rfl, by first | decide | rfl,
     by first | decide | rfl⟩,
   ⟨by first | decide | rfl, rfl, by first | decide | rfl, by first | decide | rfl, by first | decide | rfl, by first | decide | rfl, by first | decide | rfl,
     by first | decide | rfl⟩⟩

/-- DraftsAccepted: hypotheses that can be met, clause by clause. -/
theorem test_witness_DraftsAccepted :
    ((st (cd 5 6 .fast .fast 2) : State).power = true ∧ cft96 = (st (cd 5 6 .fast .fast 2) : State).croft 0 ∧ cft96.genq = arg152 :: arg153 ∧ arg152.op = 6 ∧
      arg152.fin = some [] ∧ arg152.halt = Halt.no ∧ cft96.placing = false ∧ cft96.qr.length + cft96.pendR ≤ 14 ∧ arg152.k ≤ 15 ∧ 2 ≤ arg152.k ∧
      (∀ (i : Nat), i < 2 → (fun (i : Nat) => ((fun (i : Nat) => vget cft96.rows { } (arg152.block.toNat % 2 ^ 32 % 16 + i)) i).st ≠ SlotState.withheld ∧
      ((fun (i : Nat) => vget cft96.rows { } (arg152.block.toNat % 2 ^ 32 % 16 + i)) i).token = Claims.descField arg152.block (4 * (i + 1)) 4) i) ∧
      (2 < arg152.k → ¬(fun (i : Nat) => ((fun (i : Nat) => vget cft96.rows { } (arg152.block.toNat % 2 ^ 32 % 16 + i)) i).st ≠ SlotState.withheld ∧
      ((fun (i : Nat) => vget cft96.rows { } (arg152.block.toNat % 2 ^ 32 % 16 + i)) i).token = Claims.descField arg152.block (4 * (i + 1)) 4) 2))
    ∧ ((st (cd 5 7 .fast .fast 2) : State).power = true ∧ cft97 = (st (cd 5 7 .fast .fast 2) : State).croft 0 ∧ cft97.genq = arg152 :: arg153 ∧
      arg152.op = 6 ∧ arg152.fin = some [] ∧ arg152.halt = Halt.no ∧ cft97.placing = false ∧ cft97.qr.length + cft97.pendR ≤ 14 ∧ arg152.k ≤ 15 ∧
      1 ≤ arg152.k ∧
      (∀ (i : Nat), i < 1 → (fun (i : Nat) => ((fun (i : Nat) => vget cft97.rows { } (arg152.block.toNat % 2 ^ 32 % 16 + i)) i).st ≠ SlotState.withheld ∧
      ((fun (i : Nat) => vget cft97.rows { } (arg152.block.toNat % 2 ^ 32 % 16 + i)) i).token = Claims.descField arg152.block (4 * (i + 1)) 4) i) ∧
      (1 < arg152.k → ¬(fun (i : Nat) => ((fun (i : Nat) => vget cft97.rows { } (arg152.block.toNat % 2 ^ 32 % 16 + i)) i).st ≠ SlotState.withheld ∧
      ((fun (i : Nat) => vget cft97.rows { } (arg152.block.toNat % 2 ^ 32 % 16 + i)) i).token = Claims.descField arg152.block (4 * (i + 1)) 4) 1))
    ∧ ((st (cd 5 6 .fast .withheld 2) : State).power = true ∧ cft98 = (st (cd 5 6 .fast .withheld 2) : State).croft 0 ∧ cft98.genq = arg152 :: arg153 ∧
      arg152.op = 6 ∧ arg152.fin = some [] ∧ arg152.halt = Halt.no ∧ cft98.placing = false ∧ cft98.qr.length + cft98.pendR ≤ 14 ∧ arg152.k ≤ 15 ∧
      1 ≤ arg152.k ∧
      (∀ (i : Nat), i < 1 → (fun (i : Nat) => ((fun (i : Nat) => vget cft98.rows { } (arg152.block.toNat % 2 ^ 32 % 16 + i)) i).st ≠ SlotState.withheld ∧
      ((fun (i : Nat) => vget cft98.rows { } (arg152.block.toNat % 2 ^ 32 % 16 + i)) i).token = Claims.descField arg152.block (4 * (i + 1)) 4) i) ∧
      (1 < arg152.k → ¬(fun (i : Nat) => ((fun (i : Nat) => vget cft98.rows { } (arg152.block.toNat % 2 ^ 32 % 16 + i)) i).st ≠ SlotState.withheld ∧
      ((fun (i : Nat) => vget cft98.rows { } (arg152.block.toNat % 2 ^ 32 % 16 + i)) i).token = Claims.descField arg152.block (4 * (i + 1)) 4) 1))
    ∧ ((st (cd 5 6 .withheld .fast 2) : State).power = true ∧ cft99 = (st (cd 5 6 .withheld .fast 2) : State).croft 0 ∧ cft99.genq = arg152 :: arg153 ∧
      arg152.op = 6 ∧ arg152.fin = some [] ∧ arg152.halt = Halt.no ∧ cft99.placing = false ∧ cft99.qr.length + cft99.pendR ≤ 14 ∧ arg152.k ≤ 15 ∧
      0 ≤ arg152.k ∧
      (∀ (i : Nat), i < 0 → (fun (i : Nat) => ((fun (i : Nat) => vget cft99.rows { } (arg152.block.toNat % 2 ^ 32 % 16 + i)) i).st ≠ SlotState.withheld ∧
      ((fun (i : Nat) => vget cft99.rows { } (arg152.block.toNat % 2 ^ 32 % 16 + i)) i).token = Claims.descField arg152.block (4 * (i + 1)) 4) i) ∧
      (0 < arg152.k → ¬(fun (i : Nat) => ((fun (i : Nat) => vget cft99.rows { } (arg152.block.toNat % 2 ^ 32 % 16 + i)) i).st ≠ SlotState.withheld ∧
      ((fun (i : Nat) => vget cft99.rows { } (arg152.block.toNat % 2 ^ 32 % 16 + i)) i).token = Claims.descField arg152.block (4 * (i + 1)) 4) 0)) :=
  ⟨⟨by first | decide | rfl, rfl, by first | decide | rfl, by first | decide | rfl, by first | decide | rfl, by first | decide | rfl, by first | decide | rfl,
    by first | decide | rfl, by first | decide | rfl, by first | decide | rfl, by first | decide | rfl, by decide +kernel⟩,
   ⟨by first | decide | rfl, rfl, by first | decide | rfl, by first | decide | rfl, by first | decide | rfl, by first | decide | rfl, by first | decide | rfl,
     by first | decide | rfl, by first | decide | rfl, by first | decide | rfl, by first | decide | rfl, by decide +kernel⟩,
   ⟨by first | decide | rfl, rfl, by first | decide | rfl, by first | decide | rfl, by first | decide | rfl, by first | decide | rfl, by first | decide | rfl,
     by first | decide | rfl, by first | decide | rfl, by first | decide | rfl, by first | decide | rfl, by decide +kernel⟩,
   ⟨by first | decide | rfl, rfl, by first | decide | rfl, by first | decide | rfl, by first | decide | rfl, by first | decide | rfl, by first | decide | rfl,
     by first | decide | rfl, by first | decide | rfl, by first | decide | rfl, by first | decide | rfl, by decide +kernel⟩⟩

/-- CollectiveRuns: hypotheses that can be met, clause by clause. -/
theorem test_witness_CollectiveRuns :
    (sta127.power = true ∧ (sta127.coll = [(0, 5, List.map (fun (m : Member) => (m.croft, m.cmd.seq)) arg159)]) ∧ arg160 ∈ arg159 ∧
      (∀ (p : Nat × PeerColl), p ∈ sta127.peers → p.snd.owner = 0 → p.snd.cnum = 5 → (2 ^ 20 + p.fst,
      0) ∈ List.map (fun (m : Member) => (m.croft, m.cmd.seq)) arg159) ∧ (∀ (m : Member), m ∈ arg159 → sta127.member (m.croft, m.cmd.seq) = some m ∧
      m.away = false ∧ m.op = arg160.op ∧ m.nf = arg160.nf ∧ m.n = arg160.n ∧ m.parts = arg160.parts ∧
      (m.remote = none → Claims.AllUp (sta127.croft m.croft))) ∧ arg159.length = arg160.parts ∧
      (List.Pairwise (fun (p q : Member) => p.index * 2 ^ 20 + p.place < q.index * 2 ^ 20 + q.place) arg159))
    ∧ (sta128.power = true ∧ (sta128.coll = [(0, 5, List.map (fun (m : Member) => (m.croft, m.cmd.seq)) arg161)]) ∧ arg162 ∈ arg161 ∧
      (∀ (p : Nat × PeerColl), p ∈ sta128.peers → p.snd.owner = 0 → p.snd.cnum = 5 → (2 ^ 20 + p.fst,
      0) ∈ List.map (fun (m : Member) => (m.croft, m.cmd.seq)) arg161) ∧ (∀ (m : Member), m ∈ arg161 → sta128.member (m.croft, m.cmd.seq) = some m ∧
      m.away = false ∧ m.op = arg162.op ∧ m.nf = arg162.nf ∧ m.n = arg162.n ∧ m.parts = arg162.parts ∧
      (m.remote = none → Claims.AllUp (sta128.croft m.croft))) ∧ arg161.length = arg162.parts ∧
      (List.Pairwise (fun (p q : Member) => p.index * 2 ^ 20 + p.place < q.index * 2 ^ 20 + q.place) arg161))
    ∧ (scr.power = true ∧ cft112 = scr.croft 0 ∧ cft112.copyq = arg173 :: ([] : List CopyCmd) ∧ arg173.halt = Halt.no ∧ arg173.fin = false ∧
      cft112.freeze.held = none ∧ Claims.AllUp cft112 ∧ (arg173.done ≠ 0 ∨ arg173.out ≠ 0 ∨ Claims.CommandReady cft112 arg173.seq arg173.ord.cls) ∧
      arg173.kind = CopyKind.coll 1024 0 0 0 5 2 4096 64 ∧ cft112.owner = some 0 ∧ arg173.next = 0 ∧ scr.coll = []) :=
  ⟨⟨by first | decide | rfl, by first | decide | rfl, by first | decide | rfl, by first | decide | rfl, List.forall_mem_cons.2 ⟨⟨by rfl, rfl, rfl, rfl, rfl,
    rfl, by unfold Claims.AllUp; decide⟩, List.forall_mem_singleton.2 ⟨by rfl, rfl, rfl, rfl, rfl, rfl, by unfold Claims.AllUp; decide⟩⟩,
    by first | decide | rfl, by first | decide | rfl⟩,
   ⟨by first | decide | rfl, by first | decide | rfl, by first | decide | rfl, by first | decide | rfl, List.forall_mem_cons.2 ⟨⟨by rfl, rfl, rfl, rfl, rfl,
     rfl, by unfold Claims.AllUp; decide⟩, List.forall_mem_singleton.2 ⟨by rfl, rfl, rfl, rfl, rfl, rfl, by unfold Claims.AllUp; decide⟩⟩,
     by first | decide | rfl, by first | decide | rfl⟩,
   ⟨by first | decide | rfl, rfl, by first | decide | rfl, by first | decide | rfl, by first | decide | rfl, by first | decide | rfl,
     by unfold Claims.AllUp; decide, by first | exact .inl (by decide) | exact .inr (.inl (by decide)) | exact .inr (.inr (commandReady_of (by decide))),
     by first | decide | rfl, by first | decide | rfl, by first | decide | rfl, by first | decide | rfl⟩⟩

end W13

/-! ### Witnesses, part 14 -/

namespace W14

def pt : Memory := ((({} : Memory).writeN 0 (leBytes 8 (2^63+1))).writeN 8192 (leBytes 8 (2^63+2))).writeN 16384 (leBytes 8 (2^63+2^62+2^57+1024))
def ow : Owner := { crofts := [0], space := 2^20, res := Vector.replicate 16 1000, root := some 0, ftbase := 2^24, ftlen := 2^20 }
def so (c : Croft) : State := { st c with hbm := (pt.write (2^23+8300) 0x5A), owners := [(0, ow)] }
def okS {ε α} (d : α) (e : Except ε α) : α := match e with | .ok x => x | _ => d
def cwk (w : Walk) : Croft := { cm 1 with walks := [w, {w with va := 5}] }
def wk : Walk := ⟨8192+100, false, false, 3⟩
def ac (k : AccKind) : Access := { id := 77, seq := 5, pc := 2, launch := 0, kind := k, ord := {}, va := 8292, len := 16, bytes := [1,2,3,4,5,6,7,8,9,10,11,12,13,14,15,16], sig := 2, ins := .ldq ⟨0,0⟩ ⟨0,0,0,0,0⟩ .none }
def cac (k : AccKind) : Croft := { cm 0 with accs := [ac k], qc := [⟨1, some 21⟩, ⟨44, none⟩, ⟨9, none⟩] }
def kl := AccKind.ldq 0 44 (0#29)
def cat (op : Nat) (cmp v : Nat) : Croft := cac (.atom 4 op (BitVec.ofNat 64 cmp) (BitVec.ofNat 64 v) (some 44))
def acat (op cmp v : Nat) : Access := {ac (.atom 4 op (BitVec.ofNat 64 cmp) (BitVec.ofNat 64 v) (some 44)) with len := 4, va := 8300, bytes := []}
def cat2 (op cmp v : Nat) : Croft := { cac .stq with accs := [acat op cmp v] }
def rda (op cmp v : Nat) := okS (([] : List Byte), so (cat2 op cmp v)) ((so (cat2 op cmp v)).ownerRead 0 8300 4)
def nw (op cmp v : Nat) : Nat := ((Claims.atomic 32 op (leNat (rda op cmp v).1) cmp v).getD 0)
def wra (op cmp v : Nat) := okS (so (cat2 op cmp v)) ((rda op cmp v).2.ownerWrite 0 8300 (leBytes 4 (nw op cmp v)) true)
def chd : Croft := { cac .stq with freeze := { held := some ⟨.access 77,[0],[],8292,0⟩ } }
def sho : State := {so chd with holds := [0]}
def shw := okS sho (Machine.State.ownerWrite { sho.setCroft 0 { (sho.croft 0) with freeze := { (sho.croft 0).freeze with held := none } } with holds := sho.holds.takeWhile fun m => m != 0 } 0 (ac .stq).va (ac .stq).bytes false)
def cft : Croft := { cm 0 with freeze := { sys := some ⟨.transnp, 2^24+8200, 1, .A, 4, 6, true, none, none, none, none⟩ } }
def fl (a : Nat) : SysFault := { code := .transnp, addr := a, aux := 1, eng := .A, pc := 4, seq := 6, write := true }
def cfl (a : Nat) : Croft := { cm 0 with freeze := { sys := some (fl a) }, accs := [{ac .stq with halt := .sillu}] }
def so4 (c : Croft) : State := { so c with hbm := (so c).hbm.writeN (16384+16) (leBytes 8 (2^63+3)) }
def sps (c : Croft) : State := { so c with spilled := [⟨0,[(2^24+8192,2^63+2^62+2^59+2^57+77)],{},[]⟩,⟨1,[(24576,2^63+2^62+2^59+2^57+77)],{},[]⟩] }
def sf : SysFault := { code := .transperm, addr := 8200, aux := 3, eng := .A, pc := 4, seq := 6, write := true }
def csf : Croft := { cm 0 with freeze := { sys := some sf }, handler := 2^16+40, queues := vset c0.queues 3 [⟨4,8,.bad .illop 0⟩] }
def csfq (q : QEntry) : Croft := { cm 0 with freeze := { sys := some sf }, handler := 2^16+40, qa := [6,7,8], queues := vset c0.queues 1 [q, ⟨9,8,.bad .illop 0⟩] }
def sst (c : Croft) : State := so {c with stand := 80, slots := 5, slot := 50}
def cec : Croft := { csf with freeze := {ecc := true} }
def cpr : Croft := { csf with freeze := {}, lands := cr.lands, frame := cr.frame, furrow := some fur, tok := 0 }
def s2c : State := { so {({}:Croft) with owner := some 0} with owners := [(0,{ow with crofts := [0,7]})], saved := [(3, ⟨0,7,cpr,[]⟩)], crofts := [(0,{({}:Croft) with owner := some 0}),(7,{({}:Croft) with owner := some 0})] }
def cbd (d : Nat) : Croft := { cm 5 with budget := some ⟨3,d,60,11,2,4⟩, handler := 2^16+40 }
def cbn (d : Nat) : Croft := { cbd d with handler := 40 }
def gk : GenCmd := { seq := 3, pc := 1, launch := 0, arv := 2, op := 4, k := 3, x0 := 0, vc := 4, done := 1, block := BitVec.ofNat 512 (4096 + 832*2^32 + 11*2^(8*0x1c)) }
def cgm (k : GenCmd) (x : Nat) : Croft := { cm 5 with genq := [k, {k with seq := 99}], rows := vset c0.rows 3 {step := x, st := .fast, token := 4} }
def mq : MaskReq := ⟨0,3,11,4096,[(true,1),(false,5),(true,262144)]⟩
def gk2 : GenCmd := {gk with vc := 6}
def smk (k : GenCmd) : State := { so (cgm k 11) with owners := [(0,{ow with masks := [mq,{mq with slot := 4}]})] }
def gk3 : GenCmd := {gk2 with done := 0, x0 := 9, vc := 1}
def csv (k : Nat) (w : Word64) : Croft := { c0 with freeze := { svc := some (k, 6, w, 2) }, snapO := {copy := {lo := 5, hi := 77}} }
def sbl : State := { s2c with crofts := [(0, {csv 3 0 with bells := 1, mons := {copy := {lo := 1}}}), (7, {csv 3 0 with mons := {mill := {lo := 1}}}), (9,c0)] }
def cgt (g : Gate) (q : List GateTurn) : Croft := { cm 1 with gateq := q, gateAcc := vset c0.gateAcc 3 [4], gates := vset c0.gates 3 g, sp := (cm 1).sp.write (65536*3+9) 5, acm := [(4,5)] }
def cvp (l : List Word64) : Croft := { cm 1 with vpush := some ⟨l⟩ }
def gr1 : Grammar := ⟨100, 0, [[(3,5,1),(7,7,0)],[(0,99,0)]]⟩
def ow1 : Owner := {ow with grammars := [(4,gr1)], contexts := [(9,⟨4,some 0⟩),(10,⟨4,none⟩)], masks := [mq]}
def blk (k tok h : Nat) : List Byte := leBytes 1 k ++ [0,0,0] ++ leBytes 4 11 ++ leBytes 4 4096 ++ leBytes 4 0 ++ leBytes 8 h ++ leBytes 4 tok ++ List.replicate 36 0
def csvb (b : List Byte) : Croft := { csv 1 0x0100000000000400 with sp := (csv 1 0).sp.writeN 1024 b, owner := some 0, phases := vset c0.phases 2 {whole with writes := [⟨0,1024⟩]} }
def sob (b : List Byte) : State := {so (csvb b) with owners := [(0,ow1)]}

def arg187 : WalkEnd := (so (cwk wk)).lookup 0 0 (8192+100)
def arg188 : Access := ac kl
def arg189 : List Byte := (okS ([],so (cac kl)) ((so (cac kl)).ownerRead 0 8292 16)).1
def sta139 : State := (okS ([],so (cac kl)) ((so (cac kl)).ownerRead 0 8292 16)).2
def arg190 : Access := ac .stq
def sta140 : State := okS (so (cac .stq)) ((so (cac .stq)).ownerWrite 0 8292 (ac .stq).bytes false)
def arg191 : Access := acat 1 0 5
def arg192 : Access := acat 9 90 7
def cft128 : Croft := sho.croft 0
def sta141 : State := so (cfl 8292)
def sta142 : State := so (cfl (2^24+8200))
def cft129 : Croft := cfl (2^24+8200)
def arg193 : SysFault := fl (2^24+8200)
def arg194 : Nat := 2^24+8200
def sta143 : State := so4 (cfl (2^24+8200))
def sta144 : State := sps (cfl (2^24+8200))
def arg195 : Spilled := ⟨0,[(2^24+8192,2^63+2^62+2^59+2^57+77)],{},[]⟩
def sta145 : State := so csf
def sta146 : State := so (csfq ⟨4,6,.ins (.atom ⟨0,0⟩ ⟨0,0,0,0,0⟩ (.two 0 0)) []⟩)
def cft130 : Croft := csfq ⟨4,6,.ins (.atom ⟨0,0⟩ ⟨0,0,0,0,0⟩ (.two 0 0)) []⟩
def cft131 : Croft := {sst csf with time := 60}.croft 0
def sta147 : State := so (cm 1)
def cft132 : Croft := cm 1
def sta148 : State := {so (cm 1) with hbmPoison := [(2^23+8300)/64]}
def arg196 : Owner := {ow with crofts := [0,7]}
def cft133 : Croft := cbd 5
def arg197 : Budget := ⟨3,5,60,11,2,4⟩
def cft134 : Croft := cbn 5
def cft135 : Croft := cgm gk 11
def cft136 : Croft := cgm gk 10
def cft137 : Croft := cgm gk2 11
def arg198 : Owner := {ow with masks := [mq,{mq with slot := 4}]}
def cft138 : Croft := cgm gk3 11
def cft139 : Croft := csv 2 0x0100000000000400
def cft140 : Croft := csv 2 0x01000000001FFD00
def arg199 : Nat := 2^21-768
def sta149 : State := so (cgt .waking [⟨7,true,[]⟩,⟨3,false,[2]⟩,⟨3,true,[4]⟩])
def cft141 : Croft := cgt .waking [⟨7,true,[]⟩,⟨3,false,[2]⟩,⟨3,true,[4]⟩]
def cft142 : Croft := cgt .falling []
def sta150 : State := so (cgt .falling [⟨7,true,[]⟩,⟨3,false,[2]⟩,⟨3,true,[4]⟩])
def cft143 : Croft := cgt .falling [⟨7,true,[]⟩,⟨3,false,[2]⟩,⟨3,true,[4]⟩]
def cft144 : Croft := csvb (blk 3 4 9)
def arg200 : Context := ⟨4,some 0⟩
def cft145 : Croft := csvb (blk 15 0xFFFFFFFF 9)
def cft146 : Croft := csvb (blk 3 6 9)
def cft147 : Croft := csvb (blk 3 6 11)
def cft148 : Croft := csvb (blk 16 6 9)

/-- MemoryServices: hypotheses that can be met, clause by clause. -/
theorem test_witness_MemoryServices :
    ((so (cwk wk) : State).power = true ∧ (cwk wk : Croft) = (so (cwk wk) : State).croft 0 ∧
      (cwk wk : Croft).walks = wk :: ([{wk with va := 5}] : List Walk) ∧ (cwk wk : Croft).owner = some 0 ∧ wk.probe = false ∧
      arg187 = (so (cwk wk) : State).lookup 0 0 wk.va ∧ arg187.leaf = some 13979173243358020608 ∧ 1 ≤ arg187.level ∧ arg187.level ≤ 4)
    ∧ ((so (cac kl) : State).power = true ∧ (cac kl : Croft) = (so (cac kl) : State).croft 0 ∧ (cac kl : Croft).accs[0]? = some arg188 ∧
      arg188.kind = AccKind.ldq 0 44 (0#29 : Payload) ∧ (cac kl : Croft).accessMay arg188 = true ∧
      (so (cac kl) : State).ownerRead 0 arg188.va arg188.len = Except.ok (arg189, sta139))
    ∧ ((so (cac .stq) : State).power = true ∧ (cac .stq : Croft) = (so (cac .stq) : State).croft 0 ∧ (cac .stq : Croft).accs[0]? = some arg190 ∧
      arg190.kind = AccKind.stq ∧ (cac .stq : Croft).accessMay arg190 = true ∧
      (so (cac .stq) : State).ownerWrite 0 arg190.va arg190.bytes false = Except.ok sta140)
    ∧ ((so (cat2 1 0 5) : State).power = true ∧ (cat2 1 0 5 : Croft) = (so (cat2 1 0 5) : State).croft 0 ∧ (cat2 1 0 5 : Croft).accs[0]? = some arg191 ∧
      arg191.kind = AccKind.atom 4 1 0 5 (some 44 : Option Nat) ∧ (cat2 1 0 5 : Croft).accessMay arg191 = true ∧ 1 < 10 ∧
      (so (cat2 1 0 5) : State).ownerRead 0 arg191.va arg191.len = Except.ok (((rda 1 0 5).1 : List Byte), ((rda 1 0 5).2 : State)) ∧
      Claims.atomic (8 * 4) 1 (leNat ((rda 1 0 5).1 : List Byte)) ((0 : Word64).toNat) ((5 : Word64).toNat) = some (nw 1 0 5 : Nat) ∧
      (1 = 9 → leNat ((rda 1 0 5).1 : List Byte) = (0 : Word64).toNat % 2 ^ (8 * 4)) ∧
      ((rda 1 0 5).2 : State).ownerWrite 0 arg191.va (leBytes arg191.len (nw 1 0 5 : Nat)) true = Except.ok (wra 1 0 5 : State))
    ∧ ((so (cat2 9 90 7) : State).power = true ∧ (cat2 9 90 7 : Croft) = (so (cat2 9 90 7) : State).croft 0 ∧ (cat2 9 90 7 : Croft).accs[0]? = some arg192 ∧
      arg192.kind = AccKind.atom 4 9 90 7 (some 44 : Option Nat) ∧ (cat2 9 90 7 : Croft).accessMay arg192 = true ∧ 9 < 10 ∧
      (so (cat2 9 90 7) : State).ownerRead 0 arg192.va arg192.len = Except.ok (((rda 9 90 7).1 : List Byte), ((rda 9 90 7).2 : State)) ∧
      Claims.atomic (8 * 4) 9 (leNat ((rda 9 90 7).1 : List Byte)) ((90 : Word64).toNat) ((7 : Word64).toNat) = some (nw 9 90 7 : Nat) ∧
      (9 = 9 → leNat ((rda 9 90 7).1 : List Byte) = (90 : Word64).toNat % 2 ^ (8 * 4)) ∧
      ((rda 9 90 7).2 : State).ownerWrite 0 arg192.va (leBytes arg192.len (nw 9 90 7 : Nat)) true = Except.ok (wra 9 90 7 : State))
    ∧ (sho.power = true ∧ cft128 = sho.croft 0 ∧ cft128.freeze.held = some (⟨.access 77,[0],[],8292,0⟩ : Hold) ∧
      sho.mayGrant 0 (⟨.access 77,[0],[],8292,0⟩ : Hold) = true)
    ∧ (sho.power = true ∧ cft128 = sho.croft 0 ∧
      cft128.freeze.held = some { who := Writer.access 77, lacking := ([0] : List Nat), got := ([] : List (Nat × Nat)), addr := 8292 } ∧
      (List.find? (fun (b : Access) => b.id == 77) cft128.accs = some arg190) ∧ arg190.kind = AccKind.stq ∧
      (State.ownerWrite { sho.setCroft 0 { cft128 with freeze := { cft128.freeze with held := none } } with holds := sho.holds.takeWhile fun m => m != 0 } 0 arg190.va arg190.bytes false = Except.ok shw))
    ∧ (sho.power = true ∧ cft128 = sho.croft 0 ∧
      cft128.freeze.held = some { who := Writer.access 77, lacking := 0 :: ([] : List Nat), got := ([] : List (Nat × Nat)), addr := 8292 } ∧
      cft128.freeze.sys = none ∧ (List.find? (fun (y : Access) => y.id == 77) cft128.accs = some arg190))
    ∧ (sta141.power = true ∧ (cfl 8292 : Croft) = sta141.croft 0 ∧ (cfl 8292 : Croft).freeze.sys = some (fl 8292 : SysFault) ∧
      (fl 8292 : SysFault).code = FCode.transnp ∧ 8292 = (fl 8292 : SysFault).missing.getD (fl 8292 : SysFault).addr ∧ (cfl 8292 : Croft).owner = some 0 ∧
      sta141.owners.find 0 = some ow ∧ (sta141.walk [] 0 8292).leaf.isSome = true)
    ∧ (sta142.power = true ∧ cft129 = sta142.croft 0 ∧ cft129.freeze.sys = some arg193 ∧ arg193.code = FCode.transnp ∧
      arg194 = arg193.missing.getD arg193.addr ∧ cft129.owner = some 0 ∧ sta142.owners.find 0 = some ow ∧ (sta142.walk [] 0 arg194).leaf = none ∧
      (∀ (p : Spilled), p ∈ sta142.spilled → p.owner = 0 → ∀ (x : Nat × BitVec 64), x ∈ p.maps → x.fst ≠ arg194 / 8192 * 8192) ∧ ow.ftbase ≤ arg194 ∧
      arg194 < ow.ftbase + ow.ftlen ∧ ow.mapped + 8192 ≤ ow.space ∧
      ((fun (m : Nat) => ∀ (st : Nat), (vget sta142.granaries { } st).nextPage + 2 + 3 * m ≤ 2 ^ 24) 1))
    ∧ (sta143.power = true ∧ cft129 = sta143.croft 0 ∧ cft129.freeze.sys = some arg193 ∧ arg193.code = FCode.transnp ∧
      arg194 = arg193.missing.getD arg193.addr ∧ cft129.owner = some 0 ∧ sta143.owners.find 0 = some ow ∧ (sta143.walk [] 0 arg194).leaf = none ∧
      (∀ (p : Spilled), p ∈ sta143.spilled → p.owner = 0 → ∀ (x : Nat × BitVec 64), x ∈ p.maps → x.fst ≠ arg194 / 8192 * 8192) ∧ ow.ftbase ≤ arg194 ∧
      arg194 < ow.ftbase + ow.ftlen ∧ ow.mapped + 8192 ≤ ow.space ∧
      ((fun (m : Nat) => ∀ (st : Nat), (vget sta143.granaries { } st).nextPage + 2 + 3 * m ≤ 2 ^ 24) 1))
    ∧ (sta144.power = true ∧ cft129 = sta144.croft 0 ∧ cft129.freeze.sys = some arg193 ∧ arg193.code = FCode.transnp ∧
      arg194 = arg193.missing.getD arg193.addr ∧ cft129.owner = some 0 ∧ sta144.owners.find 0 = some ow ∧ (sta144.walk [] 0 arg194).leaf = none ∧
      (List.find? (fun (x : Spilled) => x.owner == 0 && x.maps.any fun (y : Nat × BitVec 64) => y.fst == arg194 / 8192 * 8192) sta144.spilled = some arg195) ∧
      ((fun (m : Nat) => ∀ (st : Nat), (vget sta144.granaries { } st).nextPage + 2 + 3 * m ≤ 2 ^ 24) arg195.maps.length)) :=
  ⟨⟨by first | decide | rfl, rfl, by first | decide | rfl, by first | decide | rfl, by first | decide | rfl, by first | decide | rfl, by first | decide | rfl,
    by first | decide | rfl, by first | decide | rfl⟩,
   ⟨by first | decide | rfl, rfl, by first | decide | rfl, by first | decide | rfl, by first | decide | rfl, by first | decide | rfl⟩,
   ⟨by first | decide | rfl, rfl, by first | decide | rfl, by first | decide | rfl, by first | decide | rfl, by first | decide | rfl⟩,
   ⟨by first | decide | rfl, rfl, by first | decide | rfl, by first | decide | rfl, by first | decide | rfl, by first | decide | rfl, by first | decide | rfl,
     by first | decide | rfl, by first | decide | rfl, by first | decide | rfl⟩,
   ⟨by first | decide | rfl, rfl, by first | decide | rfl, by first | decide | rfl, by first | decide | rfl, by first | decide | rfl, by first | decide | rfl,
     by first | decide | rfl, by first | decide | rfl, by first | decide | rfl⟩,
   ⟨by first | decide | rfl, rfl, by first | decide | rfl, by first | decide | rfl⟩,
   ⟨by first | decide | rfl, rfl, by first | decide | rfl, by first | decide | rfl, by first | decide | rfl, by first | decide | rfl⟩,
   ⟨by first | decide | rfl, rfl, by first | decide | rfl, by first | decide | rfl, by first | decide | rfl⟩,
   ⟨by first | decide | rfl, rfl, by first | decide | rfl, by first | decide | rfl, by first | decide | rfl, by first | decide | rfl, by first | decide | rfl,
     by first | decide | rfl⟩,
   ⟨by first | decide | rfl, rfl, by first | decide | rfl, by first | decide | rfl, by first | decide | rfl, by first | decide | rfl, by first | decide | rfl,
     by first | decide | rfl, by first | decide | rfl, by first | decide | rfl, by first | decide | rfl, by first | decide | rfl, pages_of (by decide)⟩,
   ⟨by first | decide | rfl, rfl, by first | decide | rfl, by first | decide | rfl, by first | decide | rfl, by first | decide | rfl, by first | decide | rfl,
     by first | decide | rfl, by first | decide | rfl, by first | decide | rfl, by first | decide | rfl, by first | decide | rfl, pages_of (by decide)⟩,
   ⟨by first | decide | rfl, rfl, by first | decide | rfl, by first | decide | rfl, by first | decide | rfl, by first | decide | rfl, by first | decide | rfl,
     by first | decide | rfl, by first | decide | rfl, pages_of (by decide)⟩⟩

/-- SystemFaultsDelivered: hypotheses that can be met, clause by clause. -/
theorem test_witness_SystemFaultsDelivered :
    (sta145.power = true ∧ csf = sta145.croft 0 ∧ csf.owner = some 0 ∧ sta145.owners.find 0 = some ow ∧ csf.freeze = { sys := some sf } ∧
      sf.code = FCode.transperm ∧ sf.async = none ∧ sf.access = none ∧ csf.mode = Mode.fixed ∧ Claims.Handles csf ∧ csf.lands = [])
    ∧ (sta146.power = true ∧ cft130 = sta146.croft 0 ∧ cft130.owner = some 0 ∧ sta146.owners.find 0 = some ow ∧ cft130.freeze = { sys := some sf } ∧
      sf.code = FCode.transperm ∧ sf.async = none ∧ sf.access = none ∧ cft130.mode = Mode.fixed ∧ Claims.Handles cft130 ∧ cft130.lands = []) :=
  ⟨⟨by first | decide | rfl, rfl, by first | decide | rfl, by first | decide | rfl, by first | decide | rfl, by first | decide | rfl, by first | decide | rfl,
    by first | decide | rfl, by first | decide | rfl, ⟨by decide, by decide, by decide, by decide, by decide⟩, by first | decide | rfl⟩,
   ⟨by first | decide | rfl, rfl, by first | decide | rfl, by first | decide | rfl, by first | decide | rfl, by first | decide | rfl, by first | decide | rfl,
     by first | decide | rfl, by first | decide | rfl, ⟨by decide, by decide, by decide, by decide, by decide⟩, by first | decide | rfl⟩⟩

/-- ErrorsAndContexts: hypotheses that can be met, clause by clause. -/
theorem test_witness_ErrorsAndContexts :
    (sta145.power = true ∧ csf = sta145.croft 0 ∧ csf.owner = some 0 ∧ csf.stand ≤ sta145.time)
    ∧ (({sst csf with time := 60} : State).power = true ∧ cft131 = ({sst csf with time := 60} : State).croft 0 ∧ cft131.owner = some 0 ∧
      ({sst csf with time := 60} : State).time < cft131.stand ∧ cft131.mode = Mode.fixed ∧ cft131.nest = none)
    ∧ (({sst csf with time := 80} : State).power = true ∧ ({sst csf with time := 80}.croft 0 : Croft) = ({sst csf with time := 80} : State).croft 0 ∧
      ({sst csf with time := 80}.croft 0 : Croft).owner = some 0 ∧
      ({sst csf with time := 80}.croft 0 : Croft).stand ≤ ({sst csf with time := 80} : State).time)
    ∧ ((so cec : State).power = true ∧ cec = (so cec : State).croft 0 ∧ cec.owner = some 0 ∧ cec.freeze.ecc = true)
    ∧ (sta147.power = true ∧ cft132 = sta147.croft 0 ∧ cft132.owner = some 0 ∧ splitAddr (0x0100000000000000 + 71 : Word64) = some (Space.sp, 71) ∧
      (Space.sp = Space.sp ∨ Space.sp = Space.acm))
    ∧ (sta147.power = true ∧ cft132 = sta147.croft 0 ∧ cft132.owner = some 0 ∧ splitAddr (0x0200000000000000 + 7100 : Word64) = some (Space.acm, 7100) ∧
      (Space.acm = Space.sp ∨ Space.acm = Space.acm))
    ∧ (sta147.power = true ∧ cft132 = sta147.croft 0 ∧ cft132.owner = some 0 ∧ splitAddr (8300#64 : Word64) = some (Space.owner, 8300) ∧
      sta147.unitOf 0 8300 = some ((2^23+8300)/64 : Nat))
    ∧ (sta148.power = true ∧ cft132 = sta148.croft 0 ∧ cft132.owner = some 0 ∧ splitAddr (8300#64 : Word64) = some (Space.owner, 8300) ∧
      sta148.unitOf 0 8300 = some ((2^23+8300)/64 : Nat))
    ∧ ((so cpr : State).power = true ∧ cpr = (so cpr : State).croft 0 ∧ cpr.owner = some 0 ∧ cpr.zeroing = false)
    ∧ (s2c.power = true ∧ (s2c.croft 0 : Croft) = s2c.croft 0 ∧ (s2c.croft 0 : Croft).owner = some 0 ∧ s2c.saved.find 3 = some (⟨0,7,cpr,[]⟩ : Saved) ∧
      (⟨0,7,cpr,[]⟩ : Saved).owner = 0 ∧ s2c.owners.find 0 = some arg196 ∧ (s2c.croft 0 : Croft).mayRestore 0 = true ∧ (⟨0,7,cpr,[]⟩ : Saved).source ≠ 0) :=
  ⟨⟨by first | decide | rfl, rfl, by first | decide | rfl, by first | decide | rfl⟩,
   ⟨by first | decide | rfl, rfl, by first | decide | rfl, by first | decide | rfl, by first | decide | rfl, by first | decide | rfl⟩,
   ⟨by first | decide | rfl, rfl, by first | decide | rfl, by first | decide | rfl⟩,
   ⟨by first | decide | rfl, rfl, by first | decide | rfl, by first | decide | rfl⟩,
   ⟨by first | decide | rfl, rfl, by first | decide | rfl, by first | decide | rfl, by first | decide | rfl⟩,
   ⟨by first | decide | rfl, rfl, by first | decide | rfl, by first | decide | rfl, by first | decide | rfl⟩,
   ⟨by first | decide | rfl, rfl, by first | decide | rfl, by first | decide | rfl, by first | decide | rfl⟩,
   ⟨by first | decide | rfl, rfl, by first | decide | rfl, by first | decide | rfl, by first | decide | rfl⟩,
   ⟨by first | decide | rfl, rfl, by first | decide | rfl, by first | decide | rfl⟩,
   ⟨by first | decide | rfl, rfl, by first | decide | rfl, by first | decide | rfl, by first | decide | rfl, by first | decide | rfl, by first | decide | rfl,
     by first | decide | rfl⟩⟩

/-- Deadlines: hypotheses that can be met, clause by clause. -/
theorem test_witness_Deadlines :
    ((so (cbd 5) : State).power = true ∧ cft133 = (so (cbd 5) : State).croft 0 ∧ cft133.owner = some 0 ∧ cft133.budget = some arg197 ∧ arg197.slot < 16 ∧
      Claims.Running cft133 ∧ cft133.frame = none ∧ cft133.draining = none ∧ cft133.lands = [] ∧ (cft133.mode = Mode.fixed → arg197.due ≤ cft133.vcNow ∧
      (arg197.due < cft133.nextVc ∨ cft133.shortNext arg197.slot = false)) ∧ (cft133.mode = Mode.score → arg197.due < cft133.nextVc) ∧
      BitVec.getLsbD cft133.handler 16 = true ∧ bitsOf cft133.handler 15 0 < cft133.overlay.len)
    ∧ ((so (cbn 5) : State).power = true ∧ cft134 = (so (cbn 5) : State).croft 0 ∧ cft134.owner = some 0 ∧ cft134.budget = some arg197 ∧ arg197.slot < 16 ∧
      Claims.Running cft134 ∧ cft134.frame = none ∧ cft134.draining = none ∧ cft134.lands = [] ∧ (cft134.mode = Mode.fixed → arg197.due ≤ cft134.vcNow ∧
      (arg197.due < cft134.nextVc ∨ cft134.shortNext arg197.slot = false)) ∧ (cft134.mode = Mode.score → arg197.due < cft134.nextVc) ∧
      BitVec.getLsbD cft134.handler 16 = false)
    ∧ ((so (cgm gk 11) : State).power = true ∧ cft135 = (so (cgm gk 11) : State).croft 0 ∧ cft135.owner = some 0 ∧
      cft135.genq = gk :: ([{gk with seq := 99}] : List GenCmd) ∧ gk.op = 4 ∧ gk.done = 1 ∧ gk.fin = none ∧ gk.halt = Halt.no ∧ gk.vc + gk.x0 < cft135.vcNow ∧
      (so (cgm gk 11) : State).owners.find 0 = some ow)
    ∧ ((so (cgm gk 10) : State).power = true ∧ cft136 = (so (cgm gk 10) : State).croft 0 ∧ cft136.owner = some 0 ∧
      cft136.genq = gk :: ([{gk with seq := 99}] : List GenCmd) ∧ gk.op = 4 ∧ gk.done = 1 ∧ gk.fin = none ∧ gk.halt = Halt.no ∧ gk.vc + gk.x0 < cft136.vcNow ∧
      (so (cgm gk 10) : State).owners.find 0 = some ow)
    ∧ ((smk gk2 : State).power = true ∧ cft137 = (smk gk2 : State).croft 0 ∧ cft137.owner = some 0 ∧
      cft137.genq = gk2 :: ([{gk2 with seq := 99}] : List GenCmd) ∧ gk2.op = 4 ∧ gk2.mask = none ∧ gk2.halt = Halt.no ∧ cft137.vcNow ≤ gk2.vc + gk2.x0 ∧
      (smk gk2 : State).owners.find 0 = some arg198 ∧ arg198.masks = mq :: ([{mq with slot := 4}] : List MaskReq) ∧ mq.croft = 0 ∧ mq.slot = gk2.k ∧
      mq.step = Claims.descField gk2.block 28 4 ∧ mq.mbase = Claims.descField gk2.block 0 4 ∧ 8 * (List.length mq.mask + 1) ≤ Claims.descField gk2.block 4 4 ∧
      List.length mq.mask ≤ 4096)
    ∧ ((smk gk3 : State).power = true ∧ cft138 = (smk gk3 : State).croft 0 ∧ cft138.owner = some 0 ∧
      cft138.genq = gk3 :: ([{gk3 with seq := 99}] : List GenCmd) ∧ gk3.op = 4 ∧ gk3.mask = none ∧ gk3.halt = Halt.no ∧ cft138.vcNow ≤ gk3.vc + gk3.x0 ∧
      (smk gk3 : State).owners.find 0 = some arg198 ∧ arg198.masks = mq :: ([{mq with slot := 4}] : List MaskReq) ∧ mq.croft = 0 ∧ mq.slot = gk3.k ∧
      mq.step = Claims.descField gk3.block 28 4 ∧ mq.mbase = Claims.descField gk3.block 0 4 ∧ 8 * (List.length mq.mask + 1) ≤ Claims.descField gk3.block 4 4 ∧
      List.length mq.mask ≤ 4096) :=
  ⟨⟨by first | decide | rfl, rfl, by first | decide | rfl, by first | decide | rfl, by first | decide | rfl, by first | decide | rfl, by first | decide | rfl,
    by first | decide | rfl, by first | decide | rfl, by first | decide | rfl, by first | decide | rfl, by first | decide | rfl, by first | decide | rfl⟩,
   ⟨by first | decide | rfl, rfl, by first | decide | rfl, by first | decide | rfl, by first | decide | rfl, by first | decide | rfl, by first | decide | rfl,
     by first | decide | rfl, by first | decide | rfl, by first | decide | rfl, by first | decide | rfl, by first | decide | rfl⟩,
   ⟨by first | decide | rfl, rfl, by first | decide | rfl, by first | decide | rfl, by first | decide | rfl, by first | decide | rfl, by first | decide | rfl,
     by first | decide | rfl, by first | decide | rfl, by first | decide | rfl⟩,
   ⟨by first | decide | rfl, rfl, by first | decide | rfl, by first | decide | rfl, by first | decide | rfl, by first | decide | rfl, by first | decide | rfl,
     by first | decide | rfl, by first | decide | rfl, by first | decide | rfl⟩,
   ⟨by first | decide | rfl, rfl, by first | decide | rfl, by first | decide | rfl, by first | decide | rfl, by first | decide | rfl, by first | decide | rfl,
     by first | decide | rfl, by first | decide | rfl, by first | decide | rfl, by first | decide | rfl, by first | decide | rfl, by first | decide | rfl,
     by first | decide | rfl, by decide +kernel, by first | decide | rfl⟩,
   ⟨by first | decide | rfl, rfl, by first | decide | rfl, by first | decide | rfl, by first | decide | rfl, by first | decide | rfl, by first | decide | rfl,
     by first | decide | rfl, by first | decide | rfl, by first | decide | rfl, by first | decide | rfl, by first | decide | rfl, by first | decide | rfl,
     by first | decide | rfl, by decide +kernel, by first | decide | rfl⟩⟩

/-- ServicesAndBells: hypotheses that can be met, clause by clause. -/
theorem test_witness_ServicesAndBells :
    ((so (csv 0 0) : State).power = true ∧ (csv 0 0 : Croft) = (so (csv 0 0) : State).croft 0 ∧ (csv 0 0 : Croft).freeze.svc = some (0, 6, 0, 2) ∧
      (0 = 0 ∨ 3 ≤ 0))
    ∧ ((so (csv 3 0) : State).power = true ∧ (csv 3 0 : Croft) = (so (csv 3 0) : State).croft 0 ∧ (csv 3 0 : Croft).freeze.svc = some (3, 6, 0, 2) ∧
      (3 = 0 ∨ 3 ≤ 3))
    ∧ ((so (csv 127 0) : State).power = true ∧ (csv 127 0 : Croft) = (so (csv 127 0) : State).croft 0 ∧ (csv 127 0 : Croft).freeze.svc = some (127, 6, 0, 2) ∧
      (127 = 0 ∨ 3 ≤ 127))
    ∧ ((so (csv 2 0x0100000000000400) : State).power = true ∧ cft139 = (so (csv 2 0x0100000000000400) : State).croft 0 ∧ cft139.freeze.svc = some (2, 6,
      72057594037928960, 2) ∧ splitAddr 72057594037928960 = some (Space.sp, 1024) ∧ 1024 % 64 = 0 ∧ 1024 + 768 ≤ 2 ^ 21 ∧ Claims.AllUp cft139 ∧
      cft139.memWf = true ∧
      (∀ (p : Phase), p ∈ cft139.phases.toList → ∀ (r : Rng), r ∈ p.reads ++ p.writes → ∀ (y : Nat), r.base ≤ y → y < r.base + r.len → y < 1024 ∨ 1024 + 768 ≤ y))
    ∧ ((so (csv 2 0x01000000001FFD00) : State).power = true ∧ cft140 = (so (csv 2 0x01000000001FFD00) : State).croft 0 ∧ cft140.freeze.svc = some (2, 6,
      72057594040024320, 2) ∧ splitAddr 72057594040024320 = some (Space.sp, arg199) ∧ arg199 % 64 = 0 ∧ arg199 + 768 ≤ 2 ^ 21 ∧ Claims.AllUp cft140 ∧
      cft140.memWf = true ∧
      (∀ (p : Phase), p ∈ cft140.phases.toList → ∀ (r : Rng), r ∈ p.reads ++ p.writes → ∀ (y : Nat), r.base ≤ y → y < r.base + r.len → y < arg199 ∨ arg199 + 768 ≤ y))
    ∧ (sbl.power = true ∧ (sbl.croft 0 : Croft) = sbl.croft 0 ∧ sbl.owners.find 0 = some arg196 ∧ 0 ∈ arg196.crofts ∧ (sbl.croft 0).bells = 1 ∧
      (∀ (x : Nat), x ∈ arg196.crofts → x ≠ 0 → (sbl.croft x).bells = 0))
    ∧ (sbl.power = true ∧ (sbl.croft 0 : Croft) = sbl.croft 0)
    ∧ ((sob (blk 3 4 9) : State).power = true ∧ cft144 = (sob (blk 3 4 9) : State).croft 0 ∧ cft144.freeze.svc = some (1, 6, 72057594037928960, 2) ∧
      splitAddr 72057594037928960 = some (Space.sp, 1024) ∧ 1024 % 64 = 0 ∧ 1024 + 64 ≤ 2 ^ 21 ∧ Claims.AllUp cft144 ∧
      (∀ (p : Phase), p ∈ cft144.phases.toList → ∀ (r : Rng), r ∈ p.writes → ∀ (y : Nat), r.base ≤ y → y < r.base + r.len → y < 1024 ∨ 1024 + 64 ≤ y) ∧
      cft144.owner = some 0 ∧ (sob (blk 3 4 9) : State).owners.find 0 = some ow1 ∧
      (ow1.contexts.find ((fun (at_ len : Nat) => Claims.field (cft144.sp.readN 1024 64) at_ len) 16 8) = some arg200) ∧
      ow1.grammars.find arg200.grammar = some gr1 ∧ ((fun (at_ len : Nat) => Claims.field (cft144.sp.readN 1024 64) at_ len) 0 1 ≤ 15 ∧
      (fun (at_ len : Nat) => Claims.field (cft144.sp.readN 1024 64) at_ len) 1 3 = 0 ∧
      (fun (at_ len : Nat) => Claims.field (cft144.sp.readN 1024 64) at_ len) 12 4 = 0 ∧
      (fun (at_ len : Nat) => Claims.field (cft144.sp.readN 1024 64) at_ len) 28 36 = 0))
    ∧ ((sob (blk 15 0xFFFFFFFF 9) : State).power = true ∧ cft145 = (sob (blk 15 0xFFFFFFFF 9) : State).croft 0 ∧ cft145.freeze.svc = some (1, 6,
      72057594037928960, 2) ∧ splitAddr 72057594037928960 = some (Space.sp, 1024) ∧ 1024 % 64 = 0 ∧ 1024 + 64 ≤ 2 ^ 21 ∧ Claims.AllUp cft145 ∧
      (∀ (p : Phase), p ∈ cft145.phases.toList → ∀ (r : Rng), r ∈ p.writes → ∀ (y : Nat), r.base ≤ y → y < r.base + r.len → y < 1024 ∨ 1024 + 64 ≤ y) ∧
      cft145.owner = some 0 ∧ (sob (blk 15 0xFFFFFFFF 9) : State).owners.find 0 = some ow1 ∧
      (ow1.contexts.find ((fun (at_ len : Nat) => Claims.field (cft145.sp.readN 1024 64) at_ len) 16 8) = some arg200) ∧
      ow1.grammars.find arg200.grammar = some gr1 ∧ ((fun (at_ len : Nat) => Claims.field (cft145.sp.readN 1024 64) at_ len) 0 1 ≤ 15 ∧
      (fun (at_ len : Nat) => Claims.field (cft145.sp.readN 1024 64) at_ len) 1 3 = 0 ∧
      (fun (at_ len : Nat) => Claims.field (cft145.sp.readN 1024 64) at_ len) 12 4 = 0 ∧
      (fun (at_ len : Nat) => Claims.field (cft145.sp.readN 1024 64) at_ len) 28 36 = 0))
    ∧ ((sob (blk 3 6 9) : State).power = true ∧ cft146 = (sob (blk 3 6 9) : State).croft 0 ∧ cft146.freeze.svc = some (1, 6, 72057594037928960, 2) ∧
      splitAddr 72057594037928960 = some (Space.sp, 1024) ∧ 1024 % 64 = 0 ∧ 1024 + 64 ≤ 2 ^ 21 ∧ Claims.AllUp cft146 ∧
      (∀ (p : Phase), p ∈ cft146.phases.toList → ∀ (r : Rng), r ∈ p.writes → ∀ (y : Nat), r.base ≤ y → y < r.base + r.len → y < 1024 ∨ 1024 + 64 ≤ y) ∧
      cft146.owner = some 0 ∧ (sob (blk 3 6 9) : State).owners.find 0 = some ow1 ∧
      (ow1.contexts.find ((fun (at_ len : Nat) => Claims.field (cft146.sp.readN 1024 64) at_ len) 16 8) = some arg200) ∧
      ow1.grammars.find arg200.grammar = some gr1 ∧ ((fun (at_ len : Nat) => Claims.field (cft146.sp.readN 1024 64) at_ len) 0 1 ≤ 15 ∧
      (fun (at_ len : Nat) => Claims.field (cft146.sp.readN 1024 64) at_ len) 1 3 = 0 ∧
      (fun (at_ len : Nat) => Claims.field (cft146.sp.readN 1024 64) at_ len) 12 4 = 0 ∧
      (fun (at_ len : Nat) => Claims.field (cft146.sp.readN 1024 64) at_ len) 28 36 = 0))
    ∧ ((sob (blk 3 6 11) : State).power = true ∧ cft147 = (sob (blk 3 6 11) : State).croft 0 ∧ cft147.freeze.svc = some (1, 6, 72057594037928960, 2) ∧
      splitAddr 72057594037928960 = some (Space.sp, 1024) ∧ 1024 % 64 = 0 ∧ 1024 + 64 ≤ 2 ^ 21 ∧ Claims.AllUp cft147 ∧
      (∀ (p : Phase), p ∈ cft147.phases.toList → ∀ (r : Rng), r ∈ p.writes → ∀ (y : Nat), r.base ≤ y → y < r.base + r.len → y < 1024 ∨ 1024 + 64 ≤ y) ∧
      cft147.owner = some 0 ∧ (sob (blk 3 6 11) : State).owners.find 0 = some ow1 ∧
      (ow1.contexts.find ((fun (at_ len : Nat) => Claims.field (cft147.sp.readN 1024 64) at_ len) 16 8) = none ∨ ¬((fun (at_ len : Nat) => Claims.field (cft147.sp.readN 1024 64) at_ len) 0 1 ≤ 15 ∧
      (fun (at_ len : Nat) => Claims.field (cft147.sp.readN 1024 64) at_ len) 1 3 = 0 ∧
      (fun (at_ len : Nat) => Claims.field (cft147.sp.readN 1024 64) at_ len) 12 4 = 0 ∧
      (fun (at_ len : Nat) => Claims.field (cft147.sp.readN 1024 64) at_ len) 28 36 = 0)))
    ∧ ((sob (blk 16 6 9) : State).power = true ∧ cft148 = (sob (blk 16 6 9) : State).croft 0 ∧ cft148.freeze.svc = some (1, 6, 72057594037928960, 2) ∧
      splitAddr 72057594037928960 = some (Space.sp, 1024) ∧ 1024 % 64 = 0 ∧ 1024 + 64 ≤ 2 ^ 21 ∧ Claims.AllUp cft148 ∧
      (∀ (p : Phase), p ∈ cft148.phases.toList → ∀ (r : Rng), r ∈ p.writes → ∀ (y : Nat), r.base ≤ y → y < r.base + r.len → y < 1024 ∨ 1024 + 64 ≤ y) ∧
      cft148.owner = some 0 ∧ (sob (blk 16 6 9) : State).owners.find 0 = some ow1 ∧
      (ow1.contexts.find ((fun (at_ len : Nat) => Claims.field (cft148.sp.readN 1024 64) at_ len) 16 8) = none ∨ ¬((fun (at_ len : Nat) => Claims.field (cft148.sp.readN 1024 64) at_ len) 0 1 ≤ 15 ∧
      (fun (at_ len : Nat) => Claims.field (cft148.sp.readN 1024 64) at_ len) 1 3 = 0 ∧
      (fun (at_ len : Nat) => Claims.field (cft148.sp.readN 1024 64) at_ len) 12 4 = 0 ∧
      (fun (at_ len : Nat) => Claims.field (cft148.sp.readN 1024 64) at_ len) 28 36 = 0)))
    ∧ ((so (csv 1 0x0100000000000420) : State).power = true ∧ (csv 1 0x0100000000000420 : Croft) = (so (csv 1 0x0100000000000420) : State).croft 0 ∧
      (csv 1 0x0100000000000420 : Croft).freeze.svc = some (1, 6, 72057594037928992, 2) ∧ (1 = 1 ∨ 1 = 2) ∧
      (∀ (x : Nat), splitAddr 72057594037928992 = some (Space.sp, x) → x % 64 ≠ 0 ∨ 2 ^ 21 < x + if 1 = 1 then 64 else 768))
    ∧ ((so (csv 2 0x0100000000000420) : State).power = true ∧ (csv 2 0x0100000000000420 : Croft) = (so (csv 2 0x0100000000000420) : State).croft 0 ∧
      (csv 2 0x0100000000000420 : Croft).freeze.svc = some (2, 6, 72057594037928992, 2) ∧ (2 = 1 ∨ 2 = 2) ∧
      (∀ (x : Nat), splitAddr 72057594037928992 = some (Space.sp, x) → x % 64 ≠ 0 ∨ 2 ^ 21 < x + if 2 = 1 then 64 else 768))
    ∧ ((so (csv 1 0x01000000001FFFE0) : State).power = true ∧ (csv 1 0x01000000001FFFE0 : Croft) = (so (csv 1 0x01000000001FFFE0) : State).croft 0 ∧
      (csv 1 0x01000000001FFFE0 : Croft).freeze.svc = some (1, 6, 72057594040025056, 2) ∧ (1 = 1 ∨ 1 = 2) ∧
      (∀ (x : Nat), splitAddr 72057594040025056 = some (Space.sp, x) → x % 64 ≠ 0 ∨ 2 ^ 21 < x + if 1 = 1 then 64 else 768)) :=
  ⟨⟨by first | decide | rfl, rfl, by first | decide | rfl, by first | decide | rfl⟩,
   ⟨by first | decide | rfl, rfl, by first | decide | rfl, by first | decide | rfl⟩,
   ⟨by first | decide | rfl, rfl, by first | decide | rfl, by first | decide | rfl⟩,
   ⟨by first | decide | rfl, rfl, by first | decide | rfl, by first | decide | rfl, by first | decide | rfl, by first | decide | rfl,
     by unfold Claims.AllUp; decide, by first | decide | rfl,
     (fun p hp r hr => absurd hr (by rw [(by decide : ∀ p ∈ cft139.phases.toList, p.reads ++ p.writes = []) p hp]; exact List.not_mem_nil))⟩,
   ⟨by first | decide | rfl, rfl, by first | decide | rfl, by first | decide | rfl, by first | decide | rfl, by first | decide | rfl,
     by unfold Claims.AllUp; decide, by first | decide | rfl,
     (fun p hp r hr => absurd hr (by rw [(by decide : ∀ p ∈ cft140.phases.toList, p.reads ++ p.writes = []) p hp]; exact List.not_mem_nil))⟩,
   ⟨by first | decide | rfl, rfl, by first | decide | rfl, by first | decide | rfl, by first | decide | rfl, by first | decide | rfl⟩,
   ⟨by first | decide | rfl, rfl⟩,
   ⟨by first | decide | rfl, rfl, by first | decide | rfl, by first | decide | rfl, by first | decide | rfl, by first | decide | rfl,
     by unfold Claims.AllUp; decide, (fun p hp r hr y h1 h2 => by
    have h := (by decide : ∀ p ∈ cft144.phases.toList, ∀ r ∈ p.writes, r.base + r.len ≤ 1024 ∨ 1024 + 64 ≤ r.base) p hp r hr
    omega), by first | decide | rfl, by first | decide | rfl, by first | decide | rfl, by first | decide | rfl, by first | decide | rfl⟩,
   ⟨by first | decide | rfl, rfl, by first | decide | rfl, by first | decide | rfl, by first | decide | rfl, by first | decide | rfl,
     by unfold Claims.AllUp; decide, (fun p hp r hr y h1 h2 => by
    have h := (by decide : ∀ p ∈ cft145.phases.toList, ∀ r ∈ p.writes, r.base + r.len ≤ 1024 ∨ 1024 + 64 ≤ r.base) p hp r hr
    omega), by first | decide | rfl, by first | decide | rfl, by first | decide | rfl, by first | decide | rfl, by first | decide | rfl⟩,
   ⟨by first | decide | rfl, rfl, by first | decide | rfl, by first | decide | rfl, by first | decide | rfl, by first | decide | rfl,
     by unfold Claims.AllUp; decide, (fun p hp r hr y h1 h2 => by
    have h := (by decide : ∀ p ∈ cft146.phases.toList, ∀ r ∈ p.writes, r.base + r.len ≤ 1024 ∨ 1024 + 64 ≤ r.base) p hp r hr
    omega), by first | decide | rfl, by first | decide | rfl, by first | decide | rfl, by first | decide | rfl, by first | decide | rfl⟩,
   ⟨by first | decide | rfl, rfl, by first | decide | rfl, by first | decide | rfl, by first | decide | rfl, by first | decide | rfl,
     by unfold Claims.AllUp; decide, (fun p hp r hr y h1 h2 => by
    have h := (by decide : ∀ p ∈ cft147.phases.toList, ∀ r ∈ p.writes, r.base + r.len ≤ 1024 ∨ 1024 + 64 ≤ r.base) p hp r hr
    omega), by first | decide | rfl, by first | decide | rfl, by first | decide | rfl⟩,
   ⟨by first | decide | rfl, rfl, by first | decide | rfl, by first | decide | rfl, by first | decide | rfl, by first | decide | rfl,
     by unfold Claims.AllUp; decide, (fun p hp r hr y h1 h2 => by
    have h := (by decide : ∀ p ∈ cft148.phases.toList, ∀ r ∈ p.writes, r.base + r.len ≤ 1024 ∨ 1024 + 64 ≤ r.base) p hp r hr
    omega), by first | decide | rfl, by first | decide | rfl, by first | decide | rfl⟩,
   ⟨by first | decide | rfl, rfl, by first | decide | rfl, by first | decide | rfl, (fun x h => by
    have h := (Prod.mk.inj (Option.some.inj (show some (Space.sp, 1056) = some (Space.sp, x) from h))).2
    subst h
    decide)⟩,
   ⟨by first | decide | rfl, rfl, by first | decide | rfl, by first | decide | rfl, (fun x h => by
    have h := (Prod.mk.inj (Option.some.inj (show some (Space.sp, 1056) = some (Space.sp, x) from h))).2
    subst h
    decide)⟩,
   ⟨by first | decide | rfl, rfl, by first | decide | rfl, by first | decide | rfl, (fun x h => by
    have h := (Prod.mk.inj (Option.some.inj (show some (Space.sp, 2097120) = some (Space.sp, x) from h))).2
    subst h
    decide)⟩⟩

/-- BanksAndTransfers: hypotheses that can be met, clause by clause. -/
theorem test_witness_BanksAndTransfers :
    ((so (cgt .waking []) : State).power = true ∧ (cgt .waking [] : Croft) = (so (cgt .waking []) : State).croft 0 ∧ 3 < 32 ∧
      vget (cgt .waking [] : Croft).gates Gate.up 3 = Gate.waking ∧ (cgt .waking [] : Croft).memWf = true)
    ∧ (sta149.power = true ∧ cft141 = sta149.croft 0 ∧ 3 < 32 ∧ vget cft141.gates Gate.up 3 = Gate.waking ∧ cft141.memWf = true)
    ∧ ((so (cgt .falling []) : State).power = true ∧ cft142 = (so (cgt .falling []) : State).croft 0 ∧ 3 < 32 ∧ vget cft142.gates Gate.up 3 = Gate.falling ∧
      cft142.memWf = true ∧ (∀ (q : Nat), q ∈ vget cft142.gateAcc [] 3 → Claims.Performed cft142 q))
    ∧ (sta150.power = true ∧ cft143 = sta150.croft 0 ∧ 3 < 32 ∧ vget cft143.gates Gate.up 3 = Gate.falling ∧ cft143.memWf = true ∧
      (∀ (q : Nat), q ∈ vget cft143.gateAcc [] 3 → Claims.Performed cft143 q))
    ∧ ((so (cvp [5]) : State).power = true ∧ (cvp [5] : Croft) = (so (cvp [5]) : State).croft 0 ∧
      (cvp [5] : Croft).vpush = some { left := 5 :: ([] : List Word64) } ∧ (cvp [5] : Croft).qs.length + (cvp [5] : Croft).pendS < 16)
    ∧ ((so (cvp [5,6]) : State).power = true ∧ (cvp [5,6] : Croft) = (so (cvp [5,6]) : State).croft 0 ∧
      (cvp [5,6] : Croft).vpush = some { left := 5 :: ([6] : List Word64) } ∧ (cvp [5,6] : Croft).qs.length + (cvp [5,6] : Croft).pendS < 16) :=
  ⟨⟨by first | decide | rfl, rfl, by first | decide | rfl, by first | decide | rfl, by first | decide | rfl⟩,
   ⟨by first | decide | rfl, rfl, by first | decide | rfl, by first | decide | rfl, by first | decide | rfl⟩,
   ⟨by first | decide | rfl, rfl, by first | decide | rfl, by first | decide | rfl, by first | decide | rfl,
     (fun q h => performed_of rfl (by rw [List.mem_singleton.mp (show q ∈ [4] from h)]; decide))⟩,
   ⟨by first | decide | rfl, rfl, by first | decide | rfl, by first | decide | rfl, by first | decide | rfl,
     (fun q h => performed_of rfl (by rw [List.mem_singleton.mp (show q ∈ [4] from h)]; decide))⟩,
   ⟨by first | decide | rfl, rfl, by first | decide | rfl, by first | decide | rfl⟩,
   ⟨by first | decide | rfl, rfl, by first | decide | rfl, by first | decide | rfl⟩⟩

end W14

/-! ### Witnesses, part 15 -/

namespace W15

def kgl (plc : List Nat) (done ref : Nat) : CopyCmd := { seq := 3, pc := 1, launch := 0, arv := 2, kind := .glsend 7 ref 8256 512 1 2 65536 plc [⟨1, [⟨0x3F80, 2048⟩]⟩], done := done }
def cgl (k : CopyCmd) : Croft := { cm 1 with copyq := [k] }
def ptg : Memory := ((({} : Memory).writeN 0 (leBytes 8 (2^63+1))).writeN 8192 (leBytes 8 (2^63+2))).writeN 16384 (leBytes 8 (2^63+2^62+2^57+1024))
def sgl (k : CopyCmd) : State := { st (cgl k) with hbm := ptg.write (2^23+8300) 0x5A, owners := [(0, { crofts := [0], space := 2^20, res := Vector.replicate 16 1000, root := some 0 })] }

def cft149 : Croft := (sgl (kgl [3, 0xFF] 0 256)).croft 0
def arg201 : CopyCmd := kgl [3, 0xFF] 0 256
def arg202 : List Nat := [3, 0xFF]
def arg203 : List VReg := [⟨1, [⟨0x3F80, 2048⟩]⟩]
def cft150 : Croft := (sgl (kgl [3, 0xFF] 1 256)).croft 0
def arg204 : CopyCmd := kgl [3, 0xFF] 1 256
def arg205 : List (List Byte) := (rowsOf (sgl (kgl [3, 0xFF] 1 256)) 0 32 [(.owner, 8768)]).1
def sta151 : State := (rowsOf (sgl (kgl [3, 0xFF] 1 256)) 0 32 [(.owner, 8768)]).2

/-- GleanerRows: hypotheses that can be met, clause by clause. -/
theorem test_witness_GleanerRows :
    ((sgl (kgl [3, 0xFF] 0 256) : State).power = true ∧ cft149 = (sgl (kgl [3, 0xFF] 0 256) : State).croft 0 ∧ cft149.copyq = arg201 :: ([] : List CopyCmd) ∧
      arg201.halt = Halt.no ∧ arg201.fin = false ∧ cft149.freeze.held = none ∧ Claims.AllUp cft149 ∧
      (arg201.done ≠ 0 ∨ arg201.out ≠ 0 ∨ Claims.CommandReady cft149 arg201.seq arg201.ord.cls) ∧
      arg201.kind = CopyKind.glsend 7 256 8256 512 1 2 65536 arg202 arg203 ∧ arg201.done < arg202.length ∧ arg202.length ≤ 64 ∧ 65536 + 65536 ≤ 2 ^ 21 ∧
      arg202.getD arg201.done 255 ≠ 255)
    ∧ ((sgl (kgl [3, 0xFF] 1 256) : State).power = true ∧ cft150 = (sgl (kgl [3, 0xFF] 1 256) : State).croft 0 ∧
      cft150.copyq = arg204 :: ([] : List CopyCmd) ∧ arg204.halt = Halt.no ∧ arg204.fin = false ∧ cft150.freeze.held = none ∧ Claims.AllUp cft150 ∧
      (arg204.done ≠ 0 ∨ arg204.out ≠ 0 ∨ Claims.CommandReady cft150 arg204.seq arg204.ord.cls) ∧
      arg204.kind = CopyKind.glsend 7 256 8256 512 1 2 65536 arg202 arg203 ∧ arg204.done < arg202.length ∧ arg202.length ≤ 64 ∧ 65536 + 65536 ≤ 2 ^ 21 ∧
      arg202.getD arg204.done 255 = 255 ∧ arg203.length = 1 ∧ (∀ (v : VReg), v ∈ arg203 → v.len = 2048) ∧
      (Claims.RowsRead 0 (opFmt 2).rowBytes (List.map (fun (j : Nat) => (Space.owner, 8256 + arg204.done * 512 + j * (opFmt 2).rowBytes)) (List.range 1)) (sgl (kgl [3,
      0xFF] 1 256) : State) arg205 sta151) ∧ (sta151.croft 0).sp = cft150.sp ∧ (sta151.croft 0).acm = cft150.acm ∧ (sta151.croft 0).copyq = cft150.copyq) :=
  ⟨⟨by first | decide | rfl, rfl, by first | decide | rfl, by first | decide | rfl, by first | decide | rfl, by first | decide | rfl,
    by unfold Claims.AllUp; decide, by first | exact .inl (by decide) | exact .inr (.inl (by decide)) | exact .inr (.inr (commandReady_of (by decide))),
    by first | decide | rfl, by first | decide | rfl, by first | decide | rfl, by first | decide | rfl, by first | decide | rfl⟩,
   ⟨by first | decide | rfl, rfl, by first | decide | rfl, by first | decide | rfl, by first | decide | rfl, by first | decide | rfl,
     by unfold Claims.AllUp; decide, by first | exact .inl (by decide) | exact .inr (.inl (by decide)) | exact .inr (.inr (commandReady_of (by decide))),
     by first | decide | rfl, by first | decide | rfl, by first | decide | rfl, by first | decide | rfl, by first | decide | rfl, by first | decide | rfl,
     by first | decide | rfl, rowsRead_of (by decide) (by decide) (by decide), by first | decide | rfl, by first | decide | rfl, by first | decide | rfl⟩⟩

end W15

/-! ### Witnesses of the statements about the whole step -/

/-- The next state of an outcome. -/
def nextOf (o : Host.Outcome State Fault Refusal) : State := match o with | .next t => t | _ => State.reset

theorem next_of {o : Host.Outcome State Fault Refusal} (h : (match o with | .next _ => true | _ => false) = true) : o = .next (nextOf o) := by
  cases o <;> first | rfl | exact nomatch h

/-- The placed word of ADD S5, S3, S1 and the state in which step issues it. -/
def placed : State := (st c0).withFetchWord 32 0x20025184
def fetched : State := placed.setCur placed.cur.fixedSplit
def ticked : State := fetched.setCur fetched.cur.tick
def issued (q : QEntry) : State := ticked.setCur { ticked.cur with
  queues := vset ticked.cur.queues 0 ((ticked.cur.queue .C).erase q), issuePc := q.pc, issueSeq := q.seq, kept := [], waited := false, faulted := false }
def addWord : Instr := .add ⟨0, 0⟩ ⟨5, 3, 1, false⟩ .none
def addEntry : QEntry := ((fetched.cur.queue .C).head?).getD ⟨0, 0, .marker none⟩

/-- StepRunsTheDecodedInstruction: a word that decodes, in a croft at rest, and what its exec answers. -/
theorem test_witness_StepRuns :
    decodeBytes (tableBytes 32 0x20025184) = .ok (addWord, []) ∧ addWord.eng = some .C ∧ (st c0).crofts = [((st c0).me, c0)] ∧ (st c0).launches = []
    ∧ (∀ p ∈ (st c0).owners, p.2.held = []) ∧ c0.nest = none ∧ c0.plan = none ∧ c0.riseOn = false ∧ c0.genq = []
    ∧ (fetched.cur.queue .C).head? = some addEntry ∧ exec addWord (issued addEntry) = .next (nextOf (exec addWord (issued addEntry)))
    ∧ (nextOf (exec addWord (issued addEntry))).me = (st c0).me ∧ (nextOf (exec addWord (issued addEntry))).cur.waited = false
    ∧ (nextOf (exec addWord (issued addEntry))).cur.faulted = false :=
  ⟨by rfl, rfl, rfl, rfl, by decide, rfl, rfl, rfl, rfl, by rfl, next_of (by decide), by decide, by decide, by decide⟩

/-- StepRunsTheDecodedInstruction: an event on the agenda. -/
theorem test_witness_StepRunsEvent : ({ st c0 with agenda := [.roundBoundary] } : State).power = true
    ∧ ({ st c0 with agenda := [.roundBoundary] } : State).agenda = .roundBoundary :: [] ∧ Instr.roundBoundary.eng = none := ⟨rfl, rfl, rfl⟩

/-- DecodeOfEncode: a well-formed instruction that has a word. -/
theorem test_witness_DecodeOfEncode : (Instr.mtab ⟨7, 5⟩ ⟨0, 0, 5, 0⟩ (.two 0x1FFFFFFF 0x1FFFFFFF)).wf = true ∧ (Instr.mtab ⟨7, 5⟩ ⟨0, 0, 5,
  0⟩ (.two 0x1FFFFFFF 0x1FFFFFFF)).eng ≠ none
    ∧ ∀ e, Instr.mtab ⟨7, 5⟩ ⟨0, 0, 5, 0⟩ (.two 0x1FFFFFFF 0x1FFFFFFF) ≠ .unassignedOpcode e := ⟨by decide, by decide, fun _ h => nomatch h⟩

/-- StepsKeepInv: what every step keeps holds of the state after reset and of a state with a croft at work, and both take a step. -/
theorem test_witness_StepsKeepInv : (Claims.Inv State.reset ∧ step State.reset = .next (nextOf (step State.reset)))
    ∧ Claims.Inv (st c0) ∧ step (st c0) = .next (nextOf (step (st c0))) :=
  ⟨⟨⟨rfl, (fun h => nomatch h), (fun h => nomatch h)⟩, next_of (by decide)⟩, ⟨rfl, (fun h => nomatch h), (fun h => nomatch h)⟩, next_of (by decide)⟩

/-- Two logits, and the greater of their candidates: what CommandsComplete takes as a row's best. -/
def logits : Croft := { c0 with sp := ({} : Memory).writeN 64 (leBytes 4 0x3F800000 ++ leBytes 4 0x40000000) }

theorem test_witness_Greatest : Claims.candidates logits none 64 2 0x3F800000 = [⟨0, 0x3F800000⟩, ⟨1, 0x40000000⟩]
    ∧ Claims.Greatest [⟨0, 0x3F800000⟩, ⟨1, 0x40000000⟩] ⟨1, 0x40000000⟩ :=
  ⟨by decide, by decide, List.forall_mem_cons.2 ⟨fun _ => .inl (by decide), List.forall_mem_singleton.2 fun h => absurd rfl h⟩⟩

/-- A croft with no result in flight, no access, no vector in a queue and empty run registers is in its form. -/
theorem formed_of {c : Croft} (hm : Memory.wf c.sp = true ∧ Memory.wf c.acm = true ∧ Memory.wf c.imem = true)
    (hq : c.qs.length + c.pendS ≤ 16 ∧ c.qr.length + c.pendR ≤ 16 ∧ c.qc.length ≤ 16 ∧ c.qg.length ≤ 16) (hc : c.copyq.length ≤ 8 ∧ c.genq.length ≤ 8)
    (hv : c.v = Vector.replicate 32 {}) (he : c.qv = Vector.replicate 4 []) (hl : c.inFlight = []) (ha : c.accs = []) : Claims.Formed c := by
  have hqv : ∀ k, vget c.qv [] k = [] := fun k => by
    rw [he]
    by_cases hk : k < 4 <;> simp [vget, hk]
  refine ⟨hm, ⟨hq.1, hq.2.1, hq.2.2.1, hq.2.2.2, fun k _ => by rw [hqv]; decide⟩, hc, fun j _ => ?_, fun k _ x hx => ?_, fun p hp => ?_, fun a h => ?_⟩
  · have h : vget c.v {} j = {} := by
      rw [hv]
      by_cases hj : j < 32 <;> simp [vget, hj]
    rw [h]
    exact ⟨by decide, by decide, by decide, fun r hr => absurd hr List.not_mem_nil⟩
  · rw [hqv] at hx
    exact absurd hx List.not_mem_nil
  · rw [hl] at hp
    exact absurd hp List.not_mem_nil
  · rw [ha] at h
    exact absurd h List.not_mem_nil

theorem formed_reset : Claims.Formed Croft.reset := formed_of ⟨rfl, rfl, rfl⟩ (by decide) (by decide) rfl rfl rfl rfl

/-- StepsKeepForms: the forms that every step keeps hold of the state after reset and of a state with a croft at work, and both take a step. -/
theorem test_witness_StepsKeepForms : (Claims.AllFormed State.reset ∧ step State.reset = .next (nextOf (step State.reset)))
    ∧ Claims.AllFormed (st c0) ∧ step (st c0) = .next (nextOf (step (st c0))) := by
  have h0 : Claims.Formed c0 := formed_of ⟨rfl, rfl, rfl⟩ (by decide) (by decide) rfl rfl rfl rfl
  refine ⟨⟨⟨fun n => formed_reset, fun p hp => absurd hp List.not_mem_nil⟩, next_of (by decide)⟩,
    ⟨fun n => ?_, fun p hp => absurd hp List.not_mem_nil⟩, next_of (by decide)⟩
  cases n with
  | zero => exact h0
  | succ n => exact formed_reset

end Sys2Proof.Tests
end

section
/-! PROOFS. Range descriptors (R93), the phase that a list of them gives, and PHASE, which latches it (R48, R333). -/

namespace Sys2Proof.Machine

/-! ### Lists of options -/

/-- The options of a list are all present exactly where none is absent, and then their values are what `filterMap id` keeps. -/
theorem eq_map_some_iff {α : Type} (xs : List (Option α)) (l : List α) :
    xs = l.map some ↔ xs.any Option.isNone = false ∧ xs.filterMap id = l := by
  constructor
  · rintro rfl
    simp
  · rintro ⟨hall, rfl⟩
    induction xs with
    | nil => rfl
    | cons a as ih =>
      cases a with
      | none => simp at hall
      | some a => simpa using ih (by simpa using hall)

/-! ### One descriptor -/

/-- A descriptor gives a range exactly where its reserved bits are 0 and its units stand in the scratchpad: R93 in units of 64 bytes. -/
theorem rangeOf_eq_some_iff (d : Word64) (w : Bool) (r : Rng) :
    rangeOf d = some (w, r) ↔
      (bitsOf d 63 33 = 0 ∧ bitOf d 15 = false ∧ 1 ≤ bitsOf d 31 16 ∧ bitsOf d 14 0 + bitsOf d 31 16 ≤ 32768)
        ∧ w = bitOf d 32 ∧ r = ⟨64 * bitsOf d 14 0, 64 * bitsOf d 31 16⟩ := by
  simp only [rangeOf, Option.ite_none_right_eq_some, Option.some.injEq, Prod.mk.injEq, Bool.and_eq_true, beq_iff_eq,
    Bool.not_eq_true', decide_eq_true_eq, and_assoc, @eq_comm _ _ w, @eq_comm _ _ r]

/-- Nothing of a dword stands above bit 63, so bits [63:33] are its quotient. -/
theorem bitsOf_63_33 (d : Word64) : bitsOf d 63 33 = d.toNat / 2 ^ 33 :=
  Nat.mod_eq_of_lt (Nat.div_lt_of_lt_mul (by simpa using d.isLt))

theorem bitsOf_14_0 (d : Word64) : bitsOf d 14 0 = d.toNat % 2 ^ 15 := by simp [bitsOf]

/-- The units of a range, 64 bytes each, keep R93 exactly where its bytes do: at least one unit, and none past the scratchpad of 2 MiB. -/
theorem units_ok_iff_bytes_ok (b n : Nat) : (1 ≤ n ∧ b + n ≤ 32768) ↔ (64 ≤ 64 * n ∧ 64 * b + 64 * n ≤ 2 ^ 21) := by omega

/-- What a range descriptor says (R93). -/
theorem rangeDescriptors : Claims.RangeDescriptors := by
  intro d w r
  rw [rangeOf_eq_some_iff, bitsOf_63_33, bitsOf_14_0, units_ok_iff_bytes_ok]
  constructor
  · rintro ⟨⟨hres, h15, hlen, hend⟩, rfl, rfl⟩
    exact ⟨hres, h15, rfl, rfl, hlen, hend⟩
  · rintro ⟨hres, h15, rfl, rfl, hlen, hend⟩
    exact ⟨⟨hres, h15, hlen, hend⟩, rfl, rfl⟩

/-! ### A list of descriptors -/

/-- A list of descriptors gives a phase exactly where every one that is not all-zero is a range, at most four of them read and at most four
written; the phase holds them in order (R333). -/
theorem phaseOfDescs_eq_some_iff (ds : List Word64) (p : Phase) :
    phaseOfDescs ds = some p ↔
      ∃ rs : List (Bool × Rng), (ds.filter (· ≠ 0)).map rangeOf = rs.map some
        ∧ p.reads = (rs.filter fun r => r.1 = false).map (·.2) ∧ p.writes = (rs.filter fun r => r.1 = true).map (·.2)
        ∧ p.reads.length ≤ 4 ∧ p.writes.length ≤ 4 := by
  obtain ⟨reads, writes⟩ := p
  simp only [phaseOfDescs, eq_map_some_iff, and_assoc, exists_and_left, exists_eq_left', Option.ite_none_left_eq_some, Option.some.injEq,
    Phase.mk.injEq, Bool.not_eq_true, Bool.or_eq_false_iff, decide_eq_false_iff_not, Nat.not_lt, Bool.decide_eq_false, Bool.decide_eq_true, bne,
    Bool.beq_eq_decide_eq, ne_eq, decide_not]
  constructor
  · rintro ⟨hall, hreads, hwrites, rfl, rfl⟩
    exact ⟨hall, rfl, rfl, hreads, hwrites⟩
  · rintro ⟨hall, rfl, rfl, hreads, hwrites⟩
    exact ⟨hall, hreads, hwrites, rfl, rfl⟩

/-- The open phase of A, M, X and G at an issue is what its eight descriptors in the header give (R48, R91). -/
theorem overlay_phases_eq (ov : Overlay) (e : Eng) (j : Nat) (h : (e, j) ∈ [(Eng.A, 0), (Eng.M, 1), (Eng.X, 2), (Eng.G, 3)]) :
    vget ov.phases {} e.ix = (phaseOfDescs ((ov.hedge.drop (8 * j)).take 8)).getD {} := by
  simp only [List.mem_cons, Prod.mk.injEq, List.not_mem_nil, or_false] at h
  obtain ⟨rfl, rfl⟩ | ⟨rfl, rfl⟩ | ⟨rfl, rfl⟩ | ⟨rfl, rfl⟩ := h <;> rfl

/-- The phases that PHASE's descriptors and the templates of an overlay give (R48, R93, R333). -/
theorem descriptorLists : Claims.DescriptorLists :=
  ⟨phaseOfDescs_eq_some_iff, fun ov e j p hj hp => by rw [overlay_phases_eq ov e j hj, hp, Option.getD_some]⟩

/-! ### PHASE -/

/-- A program fault of the body of an instruction that acts on its croft alone is raised, with nothing of the instruction done (R223). -/
theorem issueNow_fault {i : Instr} {t : Tok} {s : State} {c : Croft} {body : Croft → Except Stop Croft} {e : FCode} (h : Ready i t s c)
    (ht : e ≠ .trap) (hb : body c = .error (.flt e)) : issueNow i t body s = .next (Claims.raised s i { code := e }) := by
  unfold issueNow
  rw [issue_fault h (f := { code := e }) (by simp [hb, Stop.flt])]
  simp [ht, Claims.raised]

theorem exec_phase (t : Tok) (o : CX) (x : Ext) (s : State) : exec (.phase t o x) s = execPhase t o x s := rfl

/-- PHASE latches what its descriptors give, and faults where they give nothing: the two outcomes of its body (R48, R333). -/
theorem phaseLatches : Claims.PhaseLatches := by
  intro t o x s c h
  rw [exec_phase, execPhase]
  constructor
  · intro p hp
    exact issueNow_ok h (by simp only [beq_iff_eq, hp])
  · intro hp
    exact issueNow_fault h (by decide) (by simp only [beq_iff_eq, hp])

/-- PHASE's word breaks R333 where it names an engine without a place for markers, more than eight descriptors, or a register past S28. -/
theorem phase_encErr_eq_illop {t : Tok} {o : CX} (h : o.d ∉ [2, 3, 5, 6] ∨ 8 < o.k.toNat ∨ (o.k ≠ 0 ∧ 28 < o.a.toNat + o.k.toNat - 1)) :
    (Instr.phase t o .none).encErr = some .illop := by
  simp only [Instr.encErr, encCX, encCheck, Ext.count, Nat.lt_irrefl, if_false, ite_eq_right_iff, reduceCtorEq, imp_false, Bool.and_eq_true,
    Bool.or_eq_true, beq_iff_eq, decide_eq_true_eq]
  rintro ⟨-, ⟨hd, hk⟩, hregs⟩
  rcases h with h | h | ⟨hk0, h⟩
  · exact h (by simpa [or_assoc] using hd)
  · omega
  · have := hregs.resolve_left hk0
    omega

/-- A word of PHASE that breaks R333 faults before anything of it is done. -/
theorem phaseEncodings : Claims.PhaseEncodings := by
  intro t o s hp h
  rw [exec_phase, execPhase, issueNow, issue_encoding hp (phase_encErr_eq_illop h)]
  rfl

/-- Settles O8: the parts about one descriptor, about a list of them, and about PHASE's encoding and its issue. -/
theorem phasesLatched : Obligations.PhasesLatched :=
  ⟨phaseLatches, rangeDescriptors, descriptorLists, phaseEncodings⟩

end Sys2Proof.Machine
end

section
/-! PROOFS. The elements of a whole-tile accumulation (R109 to R111), a K-step that completes in MILL_KSTEP (R125, R141), and a binary one (R110). -/

namespace Sys2Proof.Machine

/-! ### Elements of a tile -/

/-- The pair of row i and column j stands at the tile's element (i, j). -/
theorem rowsByCols_getElem? {α : Type} {xs ys : List α} {i j : Nat} {x y : α} (hx : xs[i]? = some x) (hy : ys[j]? = some y) :
    (rowsByCols xs ys)[ys.length * i + j]? = some (x, y) := by
  obtain ⟨hj, -⟩ := List.getElem?_eq_some_iff.1 hy
  induction xs generalizing i with
  | nil => simp at hx
  | cons r rs ih =>
    have hcons : rowsByCols (r :: rs) ys = ys.map (fun y => (r, y)) ++ rowsByCols rs ys := rfl
    rw [hcons]
    cases i with
    | zero =>
      obtain rfl : r = x := by simpa using hx
      rw [List.getElem?_append_left (by simpa using hj)]
      simp [hy]
    | succ i =>
      rw [List.getElem?_append_right (by rw [List.length_map, Nat.mul_succ]; omega), List.length_map,
        show ys.length * (i + 1) + j - ys.length = ys.length * i + j by rw [Nat.mul_succ]; omega]
      exact ih (by simpa using hx)

/-- A tile filled up to its 4,096 elements holds what the list does, and the filling where the list ends. -/
theorem pad4096_getElem? {α : Type} (d : α) (l : List α) {p : Nat} (hp : p < 4096) : (pad4096 d l)[p]? = some (l.getD p d) := by
  unfold pad4096
  by_cases hl : p < l.length
  · rw [List.getElem?_append_left (by rw [List.length_take]; omega)]
    simp [hp, hl]
  · have hlen : min 4096 l.length = l.length := by omega
    rw [List.getElem?_append_right (by rw [List.length_take]; omega), List.length_take, hlen, List.getElem?_replicate_of_lt (by omega),
      List.getD_eq_getElem?_getD, List.getElem?_eq_none (by omega), Option.getD_none]

/-- An accumulation over a whole tile makes element (i, j) of its old value, row i and column j. -/
theorem tileMap_getElem? {α β γ : Type} (f : β × α × α → γ) (d : β) (l : List β) {xs ys : List α} (hlen : ys.length = 64) {i j : Nat} {x y : α}
    (hi : i < 64) (hx : xs[i]? = some x) (hy : ys[j]? = some y) :
    (((pad4096 d l).zip (rowsByCols xs ys)).map f)[64 * i + j]? = some (f (l.getD (64 * i + j) d, x, y)) := by
  obtain ⟨hj, -⟩ := List.getElem?_eq_some_iff.1 hy
  have hpair := rowsByCols_getElem? hx hy
  rw [hlen] at hpair
  have hold : (pad4096 d l)[64 * i + j]? = some (l.getD (64 * i + j) d) := pad4096_getElem? d l (by omega)
  have hzip := List.getElem?_zip_eq_some (z := (l.getD (64 * i + j) d, x, y)).2 ⟨hold, hpair⟩
  rw [List.getElem?_map, hzip, Option.map_some]

theorem binaryRows_length (m : Memory) (a : Nat) : (binaryRows m a).length = 64 := by simp [binaryRows]

theorem binaryRows_getElem? (m : Memory) (a : Nat) {i : Nat} (hi : i < 64) : (binaryRows m a)[i]? = some (m.le (a + 16 * i) 16) := by
  simp [binaryRows, hi]

/-- Binary accumulation adds to each element the ones of its row of A and row of B (R110). -/
theorem binaryAcc_getD (isAnd : Bool) (vals : List (BitVec 32)) (m : Memory) (a b : Nat) {i j : Nat} (hi : i < 64) (hj : j < 64) :
    (binaryAcc isAnd vals (binaryRows m a) (binaryRows m b)).getD (64 * i + j) 0 = vals.getD (64 * i + j) 0
      + BitVec.ofNat 32 (popcount 128 (if isAnd then m.le (a + 16 * i) 16 &&& m.le (b + 16 * j) 16
          else m.le (a + 16 * i) 16 ^^^ m.le (b + 16 * j) 16)) := by
  rw [List.getD_eq_getElem?_getD, binaryAcc,
    tileMap_getElem? _ 0 vals (binaryRows_length m b) hi (binaryRows_getElem? m a hi) (binaryRows_getElem? m b hj), Option.getD_some]

/-! ### MILL_KSTEP -/

theorem LandOp.isNest_eq_decide (o : LandOp) : o.isNest = decide (o = .nest) := by cases o <;> simp [LandOp.isNest]

/-- The cy up to which the Mill's slots count, as the model and the claims say it (R147, R148). -/
theorem Croft.millCy_eq_millTime (c : Croft) (t : Nat) : c.millCy t = Claims.millTime c t := by
  simp only [Croft.millCy, Claims.millTime, LandOp.isNest_eq_decide]
  cases c.nest <;> cases c.lands.find? (fun p => decide (p.op = .nest)) <;> simp

/-- MILL_KSTEP puts in place the croft that its Mill's next work leaves. -/
theorem exec_millKstep {s : State} {n : Nat} {d : Croft} (hp : s.power = true)
    (hd : (s.croft n).kstep (Claims.millTime (s.croft n) s.time) = some d) : exec (.millKstep n) s = .next (s.setCroft n d) := by
  calc exec (.millKstep n) s = .next (s.millStep n) := event_next (f := fun s => s.millStep n) hp
    _ = .next (s.setCroft n d) := by rw [State.millStep, Croft.millCy_eq_millTime, hd, Option.getD_some]

/-- A step at hand whose cycles the slots that have come cover spends them and performs (R125, R141). -/
theorem Croft.kstep_of_cost_le {c : Croft} {x : Nest} {t : Nat} (hn : c.nest = some x) (hr : x.rounds ≠ 0) (hk : x.k < x.steps) (hw : x.walk = 0)
    (hb : x.begun = true) (h0 : 0 < x.cost) (hc : x.cost ≤ c.slotsAt t) :
    c.kstep t = some { c.useSlots x.cost with nest := some ((c.useSlots x.cost).performStep x false).advance } := by
  have hs : c.slotsAt t ≠ 0 := by omega
  have hmin : Nat.min (c.slotsAt t) x.cost = x.cost := Nat.min_eq_right hc
  simp [Croft.kstep, hn, hr, hk, hw, hb, hs, hmin, Nat.ne_of_gt h0]

/-- Only a window nest saturates at its end (R111). -/
theorem Nest.finish_of_kind_ne_window {x : Nest} (hl : x.live.kind ≠ .window) : x.finish = x := by
  unfold Nest.finish
  split
  · contradiction
  · rfl

/-- Past a step of no graded nest and no window, the nest stands at the next step with nothing else changed (R325). -/
theorem Nest.advance_plain {x : Nest} (hg : x.graded = false) (hl : x.live.kind ≠ .window) :
    x.advance = { x with k := x.k + 1, begun := false, cost := 0 } := by
  have hf := Nest.finish_of_kind_ne_window (x := { x with k := x.k + 1, begun := false, cost := 0 }) hl
  simp [Nest.advance, hg, hf]

/-- A binary step changes the values of the live tile alone (R110, R131). -/
theorem Croft.performStep_runb {c : Croft} {x : Nest} {isAnd z : Bool} (hx : x.kind = .runb isAnd z) :
    c.performStep x false = { x with
      live := { x.live with
        vals := binaryAcc isAnd x.live.vals
          (binaryRows c.sp (stepAddr lvA x.table x.abase x.k).toNat) (binaryRows c.sp (stepAddr lvB x.table x.bbase x.k).toNat) } } := by
  simp [Croft.performStep, Croft.accumulate, Croft.stepA, Croft.stepB, hx]

/-- Settles O45: a step whose cycles are covered performs, and a binary one adds its population counts to the tile and does nothing else. -/
theorem binaryKSteps : Obligations.BinaryKSteps := by
  rintro s n c x isAnd z hp rfl hn hr hk hx hl hw hb h0 hc
  have hd := Croft.kstep_of_cost_le hn hr hk hw hb h0 hc
  rw [Croft.performStep_runb hx, Nest.advance_plain (by simp [Nest.graded, hx]) (by simp [hl])] at hd
  exact ⟨_, _, exec_millKstep hp hd, rfl, rfl, rfl, rfl, rfl, fun i j hi hj => binaryAcc_getD isAnd _ _ _ _ hi hj⟩

end Sys2Proof.Machine
end

section
/-! PROOFS. C's waits for arrivals and for a barrier object (R170, R363), its note for the bell (R337), and the space that GAP leaves (R309). -/

namespace Sys2Proof.Machine

/-! ### Issuing -/

section
variable {i : Instr} {t : Tok} {s : State} {c : Croft}

/-- An instruction that waits with its token or arrival popped stands again at the head of its queue and keeps that pop (R363). -/
theorem issue_popped {body : State → Except Stop (State × Fin)} (h : Ready i t s c) (hb : body (s.setCur c) = .error .popped) :
    issue i t body s = .next ((s.setCur { c with kept := [0] }).holdBack i.engC i) := by
  simp [issue, h.power, h.encoded, h.free, h.outside, h.token, hb]

theorem issueNow_wait {body : Croft → Except Stop Croft} (h : Ready i t s c) (hb : body c = .error .wait) :
    issueNow i t body s = .next (s.holdBack i.engC i) := by
  unfold issueNow
  exact issue_wait h (by simp [hb])

theorem issueNow_popped {body : Croft → Except Stop Croft} (h : Ready i t s c) (hb : body c = .error .popped) :
    issueNow i t body s = .next ((s.setCur { c with kept := [0] }).holdBack i.engC i) := by
  unfold issueNow
  exact issue_popped h (by simp [hb])

end

/-- The model reads a scalar register as the claims say it, and waits where its queue has nothing to give (R273). -/
theorem Croft.readS_eq_read (c : Croft) (x : Nat) : c.readS x = (Claims.read c x).elim (.error .wait) .ok := by
  unfold Croft.readS Claims.read
  by_cases h0 : x = 0 ∨ x = 30
  · simp [h0]
  by_cases h29 : x = 29
  · subst h29
    cases c.qr <;> simp
  by_cases h31 : x = 31
  · subst h31
    rcases c.qc with _ | ⟨⟨_, _ | v⟩, q⟩ <;> simp
  · simp [h0, h29, h31]

theorem Croft.readS_of_read {c : Croft} {x : Nat} {p : Word64 × Croft} (h : Claims.read c x = some p) : c.readS x = .ok p := by
  rw [Croft.readS_eq_read, h, Option.elim_some]

/-! ### WAITE -/

theorem exec_waite (t : Tok) (o : CX) (x : Ext) (s : State) : exec (.waite t o x) s = execWaite t o x s := rfl

theorem waiteTok_eq (t : Tok) (kept : List Word64) : waiteTok t kept = if kept = [] then t else { t with wait := 0 } := by
  simp [waiteTok]

/-- Whatever a WAITE has popped, its signal is that of its word. -/
@[simp] theorem waiteTok_sig (t : Tok) (kept : List Word64) : (waiteTok t kept).sig = t.sig := by
  unfold waiteTok
  split <;> rfl

section
variable {t : Tok} {o : CX} {x : Ext} {s : State} {c : Croft}

/-- A WAITE whose k arrivals are there pops them at once (R363). -/
theorem exec_waite_of_le (h : Ready (.waite t o x) (waiteTok t s.cur.kept) s c) (hk : o.k.toNat ≤ vget c.arv 0 0) :
    exec (.waite t o x) s
      = .next (s.setCur ({ c with arv := vset c.arv 0 (vget c.arv 0 0 - o.k.toNat), kept := [] }.pushSig .C t.sig.toNat)) := by
  rw [exec_waite, execWaite, issueNow_ok h (if_pos hk), waiteTok_sig]
  rfl

/-- A WAITE short of arrivals waits; it keeps the further one that its wait = 7 has popped (R363). -/
theorem exec_waite_of_lt (h : Ready (.waite t o x) (waiteTok t s.cur.kept) s c) (hk : vget c.arv 0 0 < o.k.toNat) :
    exec (.waite t o x) s
      = .next ((if t.wait = 7 then s.setCur { c with kept := [0] } else s).holdBack .C (.waite t o x)) := by
  have hk' : ¬o.k.toNat ≤ vget c.arv 0 Eng.C.ix := Nat.not_le.2 hk
  rw [exec_waite, execWaite]
  by_cases hw : t.wait = 7
  · rw [issueNow_popped h (by simp [hk', hw]), if_pos hw]
    rfl
  · rw [issueNow_wait h (by simpa [hk'] using hw), if_neg hw]
    rfl

end

/-! ### ABWAIT -/

theorem exec_abwait (t : Tok) (o : CX) (x : Ext) (s : State) : exec (.abwait t o x) s = execAbwait t o x s := rfl

section
variable {t : Tok} {o : CX} {x : Ext} {s : State} {c c1 : Croft} {u : Word64}

/-- An ABWAIT whose object is idle, or past the phase awaited, issues (R170). -/
theorem exec_abwait_of_passed (h : Ready (.abwait t o x) t s c) (hr : Claims.read c o.a.toNat = some (u, c1))
    (hp : (vget c1.abs {} o.k.toNat).ini = 0 ∨ u.toNat < (vget c1.abs {} o.k.toNat).phase) :
    exec (.abwait t o x) s = .next (s.setCur (c1.pushSig .C t.sig.toNat)) := by
  rw [exec_abwait, execAbwait]
  exact issueNow_ok h (by simp [Croft.readS_of_read hr, bind, Except.bind, need, Barrier.idle, hp])

/-- An ABWAIT whose object is not idle and has not passed the phase awaited waits (R170). -/
theorem exec_abwait_of_not_passed (h : Ready (.abwait t o x) t s c) (hr : Claims.read c o.a.toNat = some (u, c1))
    (hi : (vget c1.abs {} o.k.toNat).ini ≠ 0) (hp : (vget c1.abs {} o.k.toNat).phase ≤ u.toNat) :
    exec (.abwait t o x) s = .next (s.holdBack .C (.abwait t o x)) := by
  rw [exec_abwait, execAbwait]
  exact issueNow_wait h (by simp [Croft.readS_of_read hr, bind, Except.bind, need, Barrier.idle, hi, Nat.not_lt.2 hp])

end

/-! ### SNAP -/

theorem exec_snap (t : Tok) (o : CX) (x : Ext) (s : State) : exec (.snap t o x) s = execSnap t o x s := rfl

/-- A SNAP that issues notes a bell (R337). -/
theorem exec_snap_of_ready {t : Tok} {o : CX} {x : Ext} {s : State} {c : Croft} (h : Ready (.snap t o x) t s c) :
    exec (.snap t o x) s = .next (s.setCur ({ c with bells := c.bells + 1 }.pushSig .C t.sig.toNat)) := by
  rw [exec_snap, execSnap]
  exact issueNow_ok h rfl

/-! ### GAP -/

theorem exec_gap (t : Tok) (o : CX) (x : Ext) (s : State) : exec (.gap t o x) s = execGap t o x s := rfl

/-- Distance from a packet changes nothing but the vc of the next one (R43, R46). -/
theorem Croft.spaced_eq (c : Croft) (n : Nat) : c.spaced n = { c with nextVc := Claims.nextAfter c n } := by
  obtain h | h : c.mode = .fixed ∨ c.mode = .score := by cases c.mode <;> simp
  · simp [Croft.spaced, Claims.nextAfter, h]
  · have hs : c.spaced n = c := by simp [Croft.spaced, h]
    have hn : Claims.nextAfter c n = c.nextVc := by simp [Claims.nextAfter, h]
    rw [hs, hn]

/-- A GAP that issues moves the next packet to n + 1 vc past its own (R309). -/
theorem exec_gap_of_ready {t : Tok} {o : CX} {x : Ext} {s : State} {c : Croft} (h : Ready (.gap t o x) t s c) :
    exec (.gap t o x) s = .next (s.setCur ((c.spaced ((if x.count == 0 then o.k.toNat else x.x0.toNat) + 1)).pushSig .C t.sig.toNat)) := by
  rw [exec_gap, execGap]
  exact issueNow_ok h rfl

/-- GAP's word breaks R309 where d or a is not 0, or k is not 0 beside x0. -/
theorem gap_encErr_eq_illop {t : Tok} {o : CX} {x : Ext} (hx : x.count ≤ 1) (h : o.d ≠ 0 ∨ o.a ≠ 0 ∨ (o.k ≠ 0 ∧ x ≠ .none)) :
    (Instr.gap t o x).encErr = some .illop := by
  have hcount : x ≠ .none → x.count ≠ 0 := by cases x <;> simp [Ext.count]
  simp only [Instr.encErr, encCheck, Nat.not_lt.2 hx, if_false, ite_eq_right_iff, reduceCtorEq, imp_false, Bool.and_eq_true, Bool.or_eq_true,
    beq_iff_eq]
  rintro ⟨-, ⟨hd, ha⟩, hk⟩
  rcases h with h | h | ⟨hk0, hx0⟩
  · exact h hd
  · exact h ha
  · exact hk.elim (hcount hx0) hk0

/-! ### The statements -/

/-- When WAITE, ABWAIT, SNAP and GAP issue, and what they do (R170, R309, R337, R363). -/
theorem waitsAndGaps : Claims.WaitsAndGaps := by
  intro t o x s c c1 u
  rw [← waiteTok_eq]
  refine ⟨exec_waite_of_le, exec_abwait_of_passed, exec_snap_of_ready, fun h => ?_⟩
  rw [exec_gap_of_ready h, Croft.spaced_eq]
  cases x <;> rfl

/-- When WAITE and ABWAIT wait, and what WAITE keeps (R170, R363). -/
theorem waitsHold : Claims.WaitsHold := by
  intro t o x s c c1 u
  rw [← waiteTok_eq]
  refine ⟨fun h hk => ⟨fun hw => ?_, fun hw => ?_⟩, exec_abwait_of_not_passed⟩
  · rw [exec_waite_of_lt h hk, if_neg hw]
  · rw [exec_waite_of_lt h hk, if_pos hw]

/-- A word of GAP that breaks R309 faults before anything of it is done. -/
theorem gapEncodings : Claims.GapEncodings := by
  intro t o x s hp hx h
  rw [exec_gap, execGap, issueNow, issue_encoding hp (gap_encErr_eq_illop hx h)]
  rfl

/-- Settles O5: the parts about what the four do when they issue, about the two that wait, and about GAP's encoding. -/
theorem waitsGapsAndBells : Obligations.WaitsGapsAndBells :=
  ⟨waitsAndGaps, waitsHold, gapEncodings⟩

end Sys2Proof.Machine
end
